-- ==== Sys2Proof/Word.lean ====
section
/-! DEFINITION. Word types of the Z16: bytes, instruction words, register values (00 R6, 08 R164). -/

namespace Sys2Proof

/-- One byte of memory. -/
abbrev Byte := BitVec 8
/-- One instruction word, and one `v` register (08 R164, 04 R76). -/
abbrev W32 := BitVec 32
/-- One doubleword, `k` register or register pair (00 R6). -/
abbrev W64 := BitVec 64

end Sys2Proof
end

