-- ==== Sys2Proof/Config.lean ====
section
/-! DEFINITION. What the part fixes (01 R15 to R20) and the values that the specification leaves open, which nothing can evaluate. -/

namespace Sys2Proof.Config

/-- Dies of a package, cores of a die, cohort slots of a core, lane slots of a cohort (01 R15, R20). Log 137 (DEDUCED). -/
def dies : Nat := 16
/-- Log 137 (DEDUCED). -/
def cores : Nat := 48
def slots : Nat := 16
def width : Nat := 64
/-- Physical registers of a core (04 R83). -/
def physRegs : Nat := 2048
/-- The observer number of the host; cores are numbered 48 × die + core (07 R135). -/
def hostObserver : Nat := 768

/-- The choice with number n, where the specification leaves one to the machine. Log 2 (DESIGN CHOICE). -/
opaque freeChoice : Nat → Nat
/-- The value with number n, where the specification states no value. Log 2 (DESIGN CHOICE). -/
opaque freeValue : Nat → W64
/-- The signing key of the security controller and what it signs with it (22 R443, 25 R475): signature bytes of a message, by
the state of the leaf counter. Log 15 (DESIGN CHOICE). -/
opaque xmssSign : Nat → List Byte → List Byte
/-- The public key and certificate of the part (22 R443, 25 R475). Log 15 (DESIGN CHOICE). -/
opaque xmssPublicKey : List Byte
/-- Log 15 (DESIGN CHOICE). -/
opaque certificate : List Byte

/-- What the security controller takes from the supervisor image of a core when it binds the supervisor slot (17 R354): start PC,
fibres, declared registers. Log 41 (DESIGN CHOICE). -/
opaque supervisorStart : Nat → Nat
/-- Log 41 (DESIGN CHOICE). -/
opaque supervisorFibres : Nat → Nat
/-- Log 41 (DESIGN CHOICE). -/
opaque supervisorMin : Nat → Nat
/-- Log 41 (DESIGN CHOICE). -/
opaque supervisorPeak : Nat → Nat
/-- Scratch pages (06 R123). Log 41 (DESIGN CHOICE). -/
opaque supervisorPages : Nat → Nat
/-- What it writes to a read-only register of a die at bring-up (17 R362, 19 R407, R409): by die and offset. Log 7 (DESIGN CHOICE). -/
opaque bootRegister : Nat → Nat → W64

/-- The structure in which an uncorrectable error is found at a location, as an ECC record codes it (22 R430). Log 144 (DESIGN CHOICE). -/
opaque eccStructure : Nat → Nat

/-- Firmware images in boot flash, with header and signature, and where in the firmware region an image is copied: by TYPE (25 R473,
R474). Log 15 (DESIGN CHOICE). -/
opaque flashImage : Nat → List Byte
/-- Log 15 (DESIGN CHOICE). -/
opaque imagePlace : Nat → Nat
/-- Whether a signature of the vendor key verifies over bytes (25 R474). Log 15 (DESIGN CHOICE). -/
opaque vendorVerify : List Byte → List Byte → Bool

/-- The policy byte of a section table entry (22 R439): by the modes of classes (a), (h), (d) and (p). Log 97 (DESIGN CHOICE). -/
opaque policyFlags : Bool → Bool → Bool → BitVec 2 → BitVec 8

/-- What a request of another package asks for, by the bytes of its message (21 R425): 0 a read, 1 a write, 2 an atomic; its address; the
bytes it writes, or how many it reads; and for an atomic the operation, its size and the value it compares with. Log 101 (DESIGN CHOICE). -/
opaque remoteKind : List Byte → Nat
/-- Log 101 (DESIGN CHOICE). -/
opaque remoteAddr : List Byte → Nat
/-- Log 101 (DESIGN CHOICE). -/
opaque remoteData : List Byte → List Byte
/-- Log 101 (DESIGN CHOICE). -/
opaque remoteSize : List Byte → Nat
/-- Log 101 (DESIGN CHOICE). -/
opaque remoteOp : List Byte → Nat
/-- Log 101 (DESIGN CHOICE). -/
opaque remoteCompare : List Byte → Option W64
/-- The message that answers a request (21 R425): by the request, the bytes read, and 0 done, 1 refused for its partition, 2 rejected at a
frozen granule, 3 uncorrectable. Log 101 (DESIGN CHOICE). -/
opaque remoteReply : List Byte → List Byte → Nat → List Byte
/-- TYPE of that message. Log 101 (DESIGN CHOICE). -/
opaque remoteReplyType : BitVec 8 → BitVec 8
/-- The fixed hash h of 21 R424: by destination package and line. Log 101 (DESIGN CHOICE). -/
opaque planeHash : Nat → Nat → Nat

end Sys2Proof.Config
end

