-- ==== Sys2Proof/Machine/Maps.lean ====
section
/-! DEFINITION. Association lists, memory as a list of cells in one canonical form, and bit-field helpers. -/

namespace Sys2Proof.Machine

/-- The value listed for a key. -/
def lookup [DecidableEq κ] : List (κ × α) → κ → Option α
  | [], _ => none
  | (k, v) :: rest, x => if k = x then some v else lookup rest x

/-- Replace the value listed for a key, or list it last. -/
def insertKey [DecidableEq κ] : List (κ × α) → κ → α → List (κ × α)
  | [], x, a => [(x, a)]
  | (k, v) :: rest, x, a => if k = x then (k, a) :: rest else (k, v) :: insertKey rest x a

/-- Remove a key. -/
def removeKey [DecidableEq κ] : List (κ × α) → κ → List (κ × α)
  | [], _ => []
  | (k, v) :: rest, x => if k = x then removeKey rest x else (k, v) :: removeKey rest x

/-- Lookup in a list sorted by number. -/
def numGet : List (Nat × α) → Nat → Option α
  | [], _ => none
  | (k, v) :: rest, x => if k = x then some v else if x < k then none else numGet rest x

/-- Replace or insert in a list sorted by number. -/
def numSet : List (Nat × α) → Nat → α → List (Nat × α)
  | [], x, a => [(x, a)]
  | (k, v) :: rest, x, a =>
    if k = x then (k, a) :: rest else if x < k then (x, a) :: (k, v) :: rest else (k, v) :: numSet rest x a

/-- Remove from a list sorted by number. -/
def numErase : List (Nat × α) → Nat → List (Nat × α)
  | [], _ => []
  | (k, v) :: rest, x => if k = x then rest else if x < k then (k, v) :: rest else (k, v) :: numErase rest x

/-- What an address that is not listed reads as: no rule gives memory contents at reset, and the model takes 0. Log 3 (DESIGN CHOICE). -/
def unlisted : Byte := 0

/-- The canonical form of memory: addresses strictly rising, no entry equal to what an unlisted address reads as. -/
def Memory.wf : List Host.Cell → Bool
  | [] => true
  | (_, b) :: [] => b ≠ unlisted
  | (a, b) :: (a', b') :: rest => b ≠ unlisted && a < a' && Memory.wf ((a', b') :: rest)

/-- One byte. Log 3 (DESIGN CHOICE). -/
def Memory.read (m : List Host.Cell) (a : Nat) : Byte := (numGet m a).getD unlisted

/-- Write one byte, keeping the canonical form. -/
def Memory.write (m : List Host.Cell) (a : Nat) (b : Byte) : List Host.Cell :=
  if b = unlisted then numErase m a else numSet m a b

/-- n bytes from an address up. -/
def Memory.readN (m : List Host.Cell) (a : Nat) : Nat → List Byte
  | 0 => []
  | n + 1 => Memory.read m a :: Memory.readN m (a + 1) n

/-- Write bytes from an address up. -/
def Memory.writeN (m : List Host.Cell) (a : Nat) : List Byte → List Host.Cell
  | [] => m
  | b :: bs => Memory.writeN (Memory.write m a b) (a + 1) bs

/-- The number that little-endian bytes spell (00 R6). -/
def ofBytes : List Byte → Nat
  | [] => 0
  | b :: bs => b.toNat + 256 * ofBytes bs

/-- n little-endian bytes of a number. -/
def toBytes (x : Nat) : Nat → List Byte
  | 0 => []
  | n + 1 => BitVec.ofNat 8 x :: toBytes (x / 256) n

/-- Bits [hi:lo] of a number. -/
def bits (x hi lo : Nat) : Nat := (x >>> lo) % 2 ^ (hi + 1 - lo)

/-- Bit i of a number. -/
def bit (x i : Nat) : Bool := x.testBit i

/-- A number with bits [hi:lo] replaced. -/
def setBits (x hi lo v : Nat) : Nat :=
  let w := 2 ^ (hi + 1 - lo)
  x - (bits x hi lo) * 2 ^ lo + (v % w) * 2 ^ lo

/-- The signed value of the low w bits (00 R9). -/
def sextNat (x w : Nat) : Int :=
  let r := x % 2 ^ w
  if 2 * r < 2 ^ w then (r : Int) else (r : Int) - 2 ^ w

/-- The low w bits of an integer (00 R9). -/
def truncInt (x : Int) (w : Nat) : Nat := (x % (2 ^ w : Int)).toNat

/-- The numbers below n whose bit of a mask is set, in increasing order. -/
def maskList (m : W64) : List Nat := (List.range 64).filter fun i => m.getLsbD i

/-- The mask of a list of lanes. -/
def maskOf : List Nat → W64
  | [] => 0
  | l :: ls => (1#64 <<< l) ||| maskOf ls

/-- The number of 1 bits of a number below 2^n. -/
def popcountNat (x : Nat) : Nat → Nat
  | 0 => 0
  | n + 1 => (if x.testBit n then 1 else 0) + popcountNat x n

/-- Distinct elements, the first of each kept. -/
def dedup [DecidableEq α] : List α → List α
  | [] => []
  | x :: xs => x :: (dedup xs).filter fun y => y ≠ x

/-- Fold over a list, with the state first. -/
def foldState (f : σ → α → σ) : List α → σ → σ
  | [], s => s
  | a :: as, s => foldState f as (f s a)

end Sys2Proof.Machine
end

