-- ==== Sys2Proof/Machine/Float.lean ====
section
/-! DEFINITION. Floating point (05, 10): formats, exact values, rounding with flags, the arithmetic operations on encodings,
conversions, exact sums, and the special functions, rounded to nearest. -/

namespace Sys2Proof.Machine

/-- An element format (05 R91): exponent and fraction width; `ieee` is false for F8E4, whose all-ones field holds numbers. -/
structure Fmt where
  ew : Nat
  tw : Nat
  ieee : Bool := true
  deriving DecidableEq, Repr

def f64 : Fmt := { ew := 11, tw := 52 }
def f32 : Fmt := { ew := 8, tw := 23 }
def f16 : Fmt := { ew := 5, tw := 10 }
def e8m7 : Fmt := { ew := 8, tw := 7 }
def f8e5 : Fmt := { ew := 5, tw := 2 }
def f8e4 : Fmt := { ew := 4, tw := 3, ieee := false }

/-- The format of a float type code (08 R170); a packed code gives its element's. -/
def fmtOf (ty : Nat) : Fmt :=
  match ty with
  | 0 => f32 | 1 => f64 | 2 => f16 | 3 => e8m7 | 4 => f8e4 | 5 => f8e5 | 6 => f16 | _ => e8m7

def Fmt.width (f : Fmt) : Nat := 1 + f.ew + f.tw
def Fmt.bias (f : Fmt) : Nat := 2 ^ (f.ew - 1) - 1
def Fmt.ones (f : Fmt) : Nat := 2 ^ f.ew - 1
def Fmt.signBit (f : Fmt) : Nat := 2 ^ (f.ew + f.tw)

/-- The value of an encoding (05 R91, R92). A finite value is ± m × 2^e with m > 0. -/
inductive FVal where
  | nan (signalling : Bool)
  | inf (neg : Bool)
  | zero (neg : Bool)
  | fin (neg : Bool) (m : Nat) (e : Int)
  deriving DecidableEq, Repr

def fvalue (f : Fmt) (x : Nat) : FVal :=
  let neg := x.testBit (f.ew + f.tw)
  let ex := x / 2 ^ f.tw % 2 ^ f.ew
  let t := x % 2 ^ f.tw
  if ex = f.ones && (f.ieee || t = 7) then
    if f.ieee && t = 0 then .inf neg else .nan (f.ieee && !t.testBit (f.tw - 1))
  else if ex = 0 then
    if t = 0 then .zero neg else .fin neg t (1 - (f.bias : Int) - f.tw)
  else .fin neg (2 ^ f.tw + t) ((ex : Int) - f.bias - f.tw)

/-- The default NaN (05 R92). -/
def qnan (f : Fmt) : Nat :=
  if f.ieee then f.ones * 2 ^ f.tw + 2 ^ (f.tw - 1) else 0x7F

def signOf (f : Fmt) (neg : Bool) : Nat := if neg then f.signBit else 0
def finf (f : Fmt) (neg : Bool) : Nat := signOf f neg + f.ones * 2 ^ f.tw
/-- The largest finite magnitude. -/
def fmax (f : Fmt) : Nat := if f.ieee then f.ones * 2 ^ f.tw - 1 else 0x7E

/-- Flags in the `$fflags` layout (04 R78). -/
def flagNV : BitVec 5 := 16
def flagDZ : BitVec 5 := 8
def flagOF : BitVec 5 := 4
def flagUF : BitVec 5 := 2
def flagNX : BitVec 5 := 1

/-- Bits of a result and its flags. -/
abbrev FRes := Nat × BitVec 5

/-- The number of bits of a number. -/
def bitLen (m : Nat) : Nat := if m = 0 then 0 else Nat.log2 m + 1

/-- ± m × 2^e rounded to a multiple of 2^q in a mode (05 R94): the multiple, and whether it differs. -/
def roundAt (mode : Nat) (neg : Bool) (m : Nat) (e q : Int) : Nat × Bool :=
  if q ≤ e then (m * 2 ^ (e - q).toNat, false)
  else
    let sh := min (q - e).toNat (bitLen m + 2)
    let hi := m / 2 ^ sh
    let rem := m % 2 ^ sh
    let half := 2 ^ (sh - 1)
    let up := match mode with
      | 0 => half < rem || (rem = half && hi % 2 = 1)
      | 1 => false
      | 2 => neg && rem ≠ 0
      | 3 => !neg && rem ≠ 0
      | _ => half ≤ rem
    (if up then hi + 1 else hi, rem ≠ 0)

/-- The result on overflow (05 R95). -/
def overflowBits (f : Fmt) (mode : Nat) (neg : Bool) : Nat :=
  let toInf := match mode with
    | 0 | 4 => true
    | 1 => false
    | 2 => neg
    | _ => !neg
  if f.ieee && toInf then finf f neg else signOf f neg + fmax f

/-- Round a nonzero finite value (05 R94 to R96, R105 when `ftz`). A tiny value is rounded to the subnormal spacing from its exact
value. An integer of magnitude 465 to 479 rounded toward zero into F8E4 is 448 with NX, as R95 has it, where 05 R103 adds OF.
Log 158 (DEDUCED). Log 159 (DEDUCED). -/
def roundFin (f : Fmt) (mode : Nat) (ftz : Bool) (neg : Bool) (m : Nat) (e : Int) : FRes :=
  let q := e + bitLen m - (f.tw + 1)
  let (n, inexact) := roundAt mode neg m e q
  let emin : Int := 1 - (f.bias : Int)
  let top : Int := bitLen n + q - 1
  if top < emin then
    let (k, ix) := roundAt mode neg m e (emin - f.tw)
    if ftz && k ≠ 0 && k < 2 ^ f.tw then (signOf f neg, flagUF ||| flagNX)
    else (signOf f neg + k, if ix then flagUF ||| flagNX else 0)
  else
    let field := (top + f.bias).toNat
    let frac := if bitLen n = f.tw + 1 then n - 2 ^ f.tw else 0
    if (f.ieee && f.ones ≤ field) || (!f.ieee && (f.ones < field || (field = f.ones && frac = 7))) then
      (overflowBits f mode neg, flagOF ||| flagNX)
    else (signOf f neg + field * 2 ^ f.tw + frac, if inexact then flagNX else 0)

/-- Deliver an exact value in a format (05 R94, R100). -/
def roundVal (f : Fmt) (mode : Nat) (v : FVal) (ftz : Bool := false) : FRes :=
  match v with
  | .nan _ => (qnan f, 0)
  | .inf neg => if f.ieee then (finf f neg, 0) else (signOf f neg + 0x7F, flagNV)
  | .zero neg => (signOf f neg, 0)
  | .fin neg m e => roundFin f mode ftz neg m e

/-! Exact values. -/

def FVal.isNan : FVal → Bool
  | .nan _ => true
  | _ => false
def FVal.isSnan : FVal → Bool
  | .nan b => b
  | _ => false
def FVal.neg : FVal → FVal
  | .nan b => .nan b
  | .inf s => .inf !s
  | .zero s => .zero !s
  | .fin s m e => .fin (!s) m e
def FVal.sign : FVal → Bool
  | .nan _ => false
  | .inf s => s
  | .zero s => s
  | .fin s _ _ => s

def signed (neg : Bool) (m : Nat) : Int := if neg then -(m : Int) else m

/-- The value of z × 2^e; a zero has the given sign. -/
def ofInt (z : Int) (e : Int) (zeroNeg : Bool) : FVal :=
  if z = 0 then .zero zeroNeg else .fin (z < 0) z.natAbs e

/-- A finite value as an integer multiple of 2^e, for an e not above its own. -/
def FVal.scaled (v : FVal) (e : Int) : Int :=
  match v with
  | .fin s m e' => signed s (m * 2 ^ (e' - e).toNat)
  | _ => 0
def FVal.exponent (v : FVal) : Option Int :=
  match v with
  | .fin _ _ e => some e
  | _ => none

def minExp : List FVal → Option Int
  | [] => none
  | v :: vs =>
    match v.exponent, minExp vs with
    | some a, some b => some (min a b)
    | some a, none => some a
    | none, r => r

/-- `exact_sum` (05 R113) in a mode, which only signs an exact zero; the flag is NV. -/
def exactSum (mode : Nat) (vs : List FVal) : FVal × BitVec 5 :=
  let pos := vs.any fun v => v = .inf false
  let neg := vs.any fun v => v = .inf true
  let bad := (pos && neg) || vs.any FVal.isSnan
  if bad || vs.any FVal.isNan then (.nan false, if bad then flagNV else 0)
  else if pos then (.inf false, 0)
  else if neg then (.inf true, 0)
  else
    let allNeg := !vs.isEmpty && vs.all fun v => v = .zero true
    let allPos := vs.all fun v => v = .zero false
    match minExp vs with
    | none => (.zero (allNeg || (!allPos && mode = 2)), 0)
    | some e => (ofInt ((vs.map fun v => v.scaled e).sum) e (mode = 2), 0)

/-- An exact product: NaN with NV for 0 × ∞ (05 R97). A signalling NaN raises NV. -/
def exactMul (a b : FVal) : FVal × BitVec 5 :=
  let s := a.sign != b.sign
  if a.isNan || b.isNan then (.nan false, if a.isSnan || b.isSnan then flagNV else 0)
  else match a, b with
    | .inf _, .zero _ => (.nan false, flagNV)
    | .zero _, .inf _ => (.nan false, flagNV)
    | .inf _, _ => (.inf s, 0)
    | _, .inf _ => (.inf s, 0)
    | .zero _, _ => (.zero s, 0)
    | _, .zero _ => (.zero s, 0)
    | .fin _ m e, .fin _ n e' => (.fin s (m * n) (e + e'), 0)
    | _, _ => (.nan false, 0)

def join (f : Fmt) (mode : Nat) (r : FVal × BitVec 5) (ftz : Bool := false) : FRes :=
  let (b, fl) := roundVal f mode r.1 ftz
  (b, fl ||| r.2)

def fadd (f : Fmt) (mode : Nat) (a b : Nat) : FRes := join f mode (exactSum mode [fvalue f a, fvalue f b])
/-- a − b. The operands whose common sign an exactly zero result takes (05 R94) are a and −b. Log 157 (DEDUCED). -/
def fsub (f : Fmt) (mode : Nat) (a b : Nat) : FRes := join f mode (exactSum mode [fvalue f a, (fvalue f b).neg])
def fmul (f : Fmt) (mode : Nat) (a b : Nat) : FRes := join f mode (exactMul (fvalue f a) (fvalue f b))

/-- ±(a × b) ± c with one rounding (10 R222). -/
def ffma (f : Fmt) (mode : Nat) (negP negC : Bool) (a b c : Nat) : FRes :=
  let (p, fl) := exactMul (fvalue f a) (fvalue f b)
  let p := if negP then p.neg else p
  let c := if negC then (fvalue f c).neg else fvalue f c
  let (x, fl') := exactSum mode [p, c]
  join f mode (x, fl ||| fl')

/-- a / b of nonzero magnitudes, with a last bit that stands for the remainder; precise beyond p bits. -/
def quotient (p m : Nat) (e : Int) (n : Nat) (e' : Int) : Nat × Int :=
  let k := p + 4 + bitLen n
  let q := m * 2 ^ k / n
  (2 * q + (if m * 2 ^ k % n = 0 then 0 else 1), e - e' - k - 1)

def fdiv (f : Fmt) (mode : Nat) (a b : Nat) : FRes :=
  let x := fvalue f a
  let y := fvalue f b
  let s := x.sign != y.sign
  if x.isNan || y.isNan then (qnan f, if x.isSnan || y.isSnan then flagNV else 0)
  else match x, y with
    | .inf _, .inf _ => (qnan f, flagNV)
    | .zero _, .zero _ => (qnan f, flagNV)
    | .inf _, _ => (finf f s, 0)
    | _, .inf _ => (signOf f s, 0)
    | .zero _, _ => (signOf f s, 0)
    | _, .zero _ => (finf f s, flagDZ)
    | .fin _ m e, .fin _ n e' =>
      let (q, eq) := quotient f.width m e n e'
      roundFin f mode false s q eq
    | _, _ => (qnan f, 0)

/-- The integer square root below 2^i. -/
def isqrtGo (n acc : Nat) : Nat → Nat
  | 0 => acc
  | i + 1 => if (acc + 2 ^ i) * (acc + 2 ^ i) ≤ n then isqrtGo n (acc + 2 ^ i) i else isqrtGo n acc i
def isqrt (n : Nat) : Nat := isqrtGo n 0 (bitLen n / 2 + 1)

/-- √(m × 2^e) with a last bit that stands for the remainder. -/
def rootOf (p m : Nat) (e : Int) : Nat × Int :=
  let m := if e % 2 = 0 then m else 2 * m
  let e := if e % 2 = 0 then e else e - 1
  let n := m * 2 ^ (2 * p + 4)
  let r := isqrt n
  (2 * r + (if r * r = n then 0 else 1), e / 2 - p - 3)

def fsqrt (f : Fmt) (mode : Nat) (a : Nat) : FRes :=
  match fvalue f a with
  | .nan s => (qnan f, if s then flagNV else 0)
  | .inf false => (finf f false, 0)
  | .inf true => (qnan f, flagNV)
  | .zero s => (signOf f s, 0)
  | .fin true _ _ => (qnan f, flagNV)
  | .fin false m e =>
    let (r, er) := rootOf f.width m e
    roundFin f mode false false r er

/-- The IEEE remainder (10 R223). -/
def frem (f : Fmt) (a b : Nat) : FRes :=
  let x := fvalue f a
  let y := fvalue f b
  if x.isNan || y.isNan then (qnan f, if x.isSnan || y.isSnan then flagNV else 0)
  else match x, y with
    | .inf _, _ => (qnan f, flagNV)
    | _, .zero _ => (qnan f, flagNV)
    | _, .inf _ => (a % 2 ^ f.width, 0)
    | .zero _, _ => (a % 2 ^ f.width, 0)
    | .fin s m e, .fin _ n e' =>
      let q := min e e'
      let x := m * 2 ^ (e - q).toNat
      let y := n * 2 ^ (e' - q).toNat
      let k := x / y
      let r := x % y
      let up := y < 2 * r || (2 * r = y && k % 2 = 1)
      let z : Int := if up then (r : Int) - y else r
      roundVal f 0 (ofInt (if s then -z else z) q s)
    | _, _ => (qnan f, 0)

/-- a × 2^n (10 R222). -/
def fscale (f : Fmt) (mode : Nat) (a : Nat) (n : Int) : FRes :=
  match fvalue f a with
  | .nan s => (qnan f, if s then flagNV else 0)
  | .fin s m e => roundFin f mode false s m (e + n)
  | v => roundVal f mode v

/-- The exponent of the value (10 R231). -/
def flogb (f : Fmt) (a : Nat) : FRes :=
  match fvalue f a with
  | .nan s => (qnan f, if s then flagNV else 0)
  | .inf _ => (finf f false, 0)
  | .zero _ => (finf f true, flagDZ)
  | .fin _ m e => roundVal f 0 (ofInt (e + bitLen m - 1) 0 false)

/-! Comparison, minimum and maximum (10 R225, R227). -/

/-- Order of two values that are no NaN: negative, zero or positive; both zeros are equal. -/
def fcompare (a b : FVal) : Int :=
  match a, b with
  | .inf s, .inf t => (if t then 1 else 0) - (if s then 1 else 0)
  | .inf s, _ => if s then -1 else 1
  | _, .inf t => if t then 1 else -1
  | _, _ =>
    match minExp [a, b] with
    | none => 0
    | some e => a.scaled e - b.scaled e

def sameValue (a b : FVal) : Bool := fcompare a b = 0

/-- Minimum (or maximum) of two encodings; `num` prefers a number over a NaN. -/
def fminmax (f : Fmt) (isMax num : Bool) (a b : Nat) : FRes :=
  let x := fvalue f a
  let y := fvalue f b
  let a := a % 2 ^ f.width
  let b := b % 2 ^ f.width
  let fl : BitVec 5 := if x.isSnan || y.isSnan then flagNV else 0
  if x.isNan && y.isNan then (qnan f, fl)
  else if x.isNan then (if num then b else qnan f, fl)
  else if y.isNan then (if num then a else qnan f, fl)
  else
    let c := fcompare x y
    let aLess := if c = 0 then x.sign && !y.sign else decide (c < 0)
    (if aLess != isMax then a else b, fl)

/-- The conditions of FCMP, with the flag (10 R227). -/
def fcmpCond (f : Fmt) (signal : Bool) (cond a b : Nat) : Bool × BitVec 5 :=
  let x := fvalue f a
  let y := fvalue f b
  let un := x.isNan || y.isNan
  let fl : BitVec 5 := if x.isSnan || y.isSnan || (signal && un) then flagNV else 0
  let c := fcompare x y
  let r := match cond with
    | 0 => !un && c = 0
    | 1 => un || c ≠ 0
    | 2 => !un && c < 0
    | 3 => !un && 0 ≤ c
    | 4 => !un && c ≤ 0
    | 5 => !un && 0 < c
    | 6 => un
    | _ => !un
  (r, fl)

/-- The class word (10 R228). -/
def fclassWord (f : Fmt) (a : Nat) : Nat :=
  match fvalue f a with
  | .inf true => 1
  | .inf false => 128
  | .nan true => 256
  | .nan false => 512
  | .zero true => 8
  | .zero false => 16
  | .fin s m e =>
    let sub := e + bitLen m - 1 < 1 - (f.bias : Int)
    if s then (if sub then 4 else 2) else (if sub then 32 else 64)

/-- Rounding to integral (10 R229); `exact` lets NX be raised. -/
def frnd (f : Fmt) (mode : Nat) (exact : Bool) (a : Nat) : FRes :=
  match fvalue f a with
  | .nan s => (qnan f, if s then flagNV else 0)
  | .fin s m e =>
    let (n, ix) := roundAt mode s m e 0
    let r := if n = 0 then signOf f s else (roundVal f 0 (.fin s n 0)).1
    (r, if exact && ix then flagNX else 0)
  | _ => (a % 2 ^ f.width, 0)

/-! Conversions (05 R102 to R104). -/

def cvtFF (dst src : Fmt) (mode : Nat) (a : Nat) : FRes :=
  match fvalue src a with
  | .nan s => (qnan dst, if s then flagNV else 0)
  | v => roundVal dst mode v

def cvtIF (dst : Fmt) (mode : Nat) (x : Int) : FRes := roundVal dst mode (ofInt x 0 false)

/-- To an integer type of n bits: the value, within the type's range. -/
def cvtFI (src : Fmt) (mode n : Nat) (sgn : Bool) (a : Nat) : Int × BitVec 5 :=
  let lo : Int := if sgn then -(2 ^ (n - 1) : Int) else 0
  let hi : Int := if sgn then 2 ^ (n - 1) - 1 else 2 ^ n - 1
  match fvalue src a with
  | .nan _ => (0, flagNV)
  | .inf s => (if s then lo else hi, flagNV)
  | .zero _ => (0, 0)
  | .fin s m e =>
    if 80 < e + bitLen m then (if s then lo else hi, flagNV)
    else
      let (k, ix) := roundAt mode s m e 0
      let z := signed s k
      if lo ≤ z && z ≤ hi then (z, if ix then flagNX else 0) else (if s then lo else hi, flagNV)

/-! Special functions (10 R233): fixed-point values with 400 fraction bits. -/

def fixBits : Nat := 400
/-- π/2 × 2^400 and ln 2 × 2^400, rounded down. -/
def piHalf : Int := 0x1921fb54442d18469898cc51701b839a252049c1114cf98e804177d4c76273644a29410f31c6809bbdf2a33679a7486366056
def ln2 : Int := 0xb17217f7d1cf79abc9e3b39803f2f6af40f343267298b62d8a0d175b8baafa2be7b876206debac98559552fb4afa1b10ed2e

def fixMul (a b : Int) : Int := a * b / 2 ^ fixBits
def fixOne : Int := 2 ^ fixBits

/-- Taylor terms: the sum of t, t x/(k+1), ...; `step` gives the divisor after term k. -/
def taylor (x : Int) (step : Nat → Int) (t : Int) (k : Nat) : Nat → Int
  | 0 => 0
  | n + 1 => t + taylor x step (fixMul t x / step k) (k + 1) n

/-- e^x for 0 ≤ x < 1. -/
def fixExp (x : Int) : Int := taylor x (fun k => (k : Int) + 1) fixOne 0 90
/-- 2^x as a mantissa in [1, 2) and an exponent. -/
def fixExp2 (x : Int) : Int × Int :=
  let n := x / fixOne
  (fixExp (fixMul (x - n * fixOne) ln2), n)
def fixSin (x : Int) : Int := taylor (-(fixMul x x)) (fun k => (2 * k + 2 : Int) * (2 * k + 3)) x 0 60
def fixCos (x : Int) : Int := taylor (-(fixMul x x)) (fun k => (2 * k + 1 : Int) * (2 * k + 2)) fixOne 0 60

/-- The sum of z^(2k+1) / (2k+1) from term k on, z² given. -/
def atanhSum (zz t : Int) (k : Nat) : Nat → Int
  | 0 => 0
  | n + 1 => t / (2 * k + 1) + atanhSum zz (fixMul t zz) (k + 1) n

/-- log2 of a mantissa in [1, 2). -/
def fixLog2 (m : Int) : Int :=
  let z := (m - fixOne) * fixOne / (m + fixOne)
  2 * atanhSum (fixMul z z) z 0 140 * fixOne / ln2

/-- m × 2^e as fixed point, cut at the last bit. -/
def toFix (neg : Bool) (m : Nat) (e : Int) : Int :=
  let k := e + fixBits
  let x := if 0 ≤ k then m * 2 ^ k.toNat else m / 2 ^ (-k).toNat
  signed neg x

/-- A fixed-point value times 2^n, which no encoding equals exactly. -/
def ofFix (x n : Int) : FVal := .fin (x < 0) (2 * x.natAbs + 1) (n - fixBits - 1)

/-- A value just below m × 2^e in magnitude. -/
def justBelow (neg : Bool) (m : Nat) (e : Int) : FVal := .fin neg (m * 2 ^ 80 - 1) (e - 80)

/-- sin of x + j × π/2. -/
def sinReduced (neg : Bool) (m : Nat) (e : Int) (j : Int) : FVal :=
  let x := toFix neg m e
  let k := (2 * x + piHalf) / (2 * piHalf)
  let r := x - k * piHalf
  match ((k + j) % 4).toNat with
  | 0 => ofFix (fixSin r) 0
  | 1 => ofFix (fixCos r) 0
  | 2 => ofFix (-(fixSin r)) 0
  | _ => ofFix (-(fixCos r)) 0

/-- The special function with number fn of MAJ 0x1C on an encoding. -/
def sfuFun (f : Fmt) (fn a : Nat) : FRes :=
  let one := roundVal f 0 (.fin false 1 0)
  match fn, fvalue f a with
  | _, .nan s => (qnan f, if s then flagNV else 0)
  | 0, v => fdiv f 0 one.1 (roundVal f 0 v).1
  | 1, .zero s => (finf f s, flagDZ)
  | 1, .inf false => (0, 0)
  | 1, .inf true => (qnan f, flagNV)
  | 1, .fin true _ _ => (qnan f, flagNV)
  | 1, .fin false m e =>
    let m' := if e % 2 = 0 then m else 2 * m
    let e' := if e % 2 = 0 then e else e - 1
    let n := 2 ^ (4 * f.width + 2 * bitLen m') / m'
    let r := isqrt n
    let exact := r * r * m' = 2 ^ (4 * f.width + 2 * bitLen m')
    roundFin f 0 false false (2 * r + (if exact then 0 else 1))
      (-(e' / 2) - 2 * f.width - bitLen m' - 1)
  | 2, .zero _ => one
  | 2, .inf s => (if s then 0 else finf f false, 0)
  | 2, .fin s m e =>
    if 10 < e + bitLen m then
      if s then roundFin f 0 false false 1 (-100000) else roundFin f 0 false false 1 100000
    else
      let (k, ix) := roundAt 1 s m e 0
      if !ix then roundFin f 0 false false 1 (signed s k)
      else
        let (x, n) := fixExp2 (toFix s m e)
        roundVal f 0 (ofFix x n)
  | 3, .zero _ => (finf f true, flagDZ)
  | 3, .inf false => (finf f false, 0)
  | 3, .inf true => (qnan f, flagNV)
  | 3, .fin true _ _ => (qnan f, flagNV)
  | 3, .fin false m e =>
    let l := bitLen m
    if m = 2 ^ (l - 1) then roundVal f 0 (ofInt (e + l - 1) 0 false)
    else roundVal f 0 (ofFix (fixLog2 (toFix false m (1 - l)) + (e + l - 1) * fixOne) 0)
  | 4, .zero s => (signOf f s, 0)
  | 4, .inf _ => (qnan f, flagNV)
  | 4, .fin s m e =>
    if e + bitLen m < -40 then roundVal f 0 (justBelow s m e) else roundVal f 0 (sinReduced s m e 0)
  | 5, .zero _ => one
  | 5, .inf _ => (qnan f, flagNV)
  | 5, .fin s m e =>
    if e + bitLen m < -40 then roundVal f 0 (justBelow false 1 0) else roundVal f 0 (sinReduced s m e 1)
  | 6, .zero s => (signOf f s, 0)
  | 6, .inf s => (signOf f s + one.1, 0)
  | 6, .fin s m e =>
    if e + bitLen m < -40 then roundVal f 0 (justBelow s m e)
    else if 7 < e + bitLen m then roundVal f 0 (justBelow s 1 0)
    else
      let (x, n) := fixExp2 (2 * (toFix false m e) * fixOne / ln2)
      let ex := x * 2 ^ n.toNat
      let t := (ex - fixOne) * fixOne / (ex + fixOne)
      roundVal f 0 (ofFix (if s then -t else t) 0)
  | _, _ => (qnan f, 0)

/-- The element operations of a packed or plain register value: low half and high half of a packed type. -/
def packedMap (ty : Nat) (g : Nat → FRes) (a : Nat) : FRes :=
  if ty = 6 || ty = 7 then
    let r0 := g (a % 65536)
    let r1 := g (a / 65536 % 65536)
    (r0.1 + 65536 * r1.1, r0.2 ||| r1.2)
  else g (a % 2 ^ (fmtOf ty).width)

def packedMap2 (ty : Nat) (g : Nat → Nat → FRes) (a b : Nat) : FRes :=
  if ty = 6 || ty = 7 then
    let r0 := g (a % 65536) (b % 65536)
    let r1 := g (a / 65536 % 65536) (b / 65536 % 65536)
    (r0.1 + 65536 * r1.1, r0.2 ||| r1.2)
  else g (a % 2 ^ (fmtOf ty).width) (b % 2 ^ (fmtOf ty).width)

def packedMap3 (ty : Nat) (g : Nat → Nat → Nat → FRes) (a b c : Nat) : FRes :=
  if ty = 6 || ty = 7 then
    let r0 := g (a % 65536) (b % 65536) (c % 65536)
    let r1 := g (a / 65536 % 65536) (b / 65536 % 65536) (c / 65536 % 65536)
    (r0.1 + 65536 * r1.1, r0.2 ||| r1.2)
  else g (a % 2 ^ (fmtOf ty).width) (b % 2 ^ (fmtOf ty).width) (c % 2 ^ (fmtOf ty).width)

end Sys2Proof.Machine
end

