-- ==== Sys2Proof/Syntax.lean ====
section
/-! DEFINITION. The instructions and steps of the Z16: one constructor of `Instr` per row of the opcode table.
The first 155 rows are instructions or forms of one, and carry the fields of their words (08 R165 to R168);
the others are steps of engines, controllers and outside parties, and carry what the party brings (95). -/

namespace Sys2Proof

/-- The fields of an instruction's words (08 R165, R167, R168), without LEN, MAJ, FN and SUB, which `Op` and the presence
of the extended words and the literal give. Fields that a form does not have hold their implied values (08 R169). -/
structure Form where
  /-- First-word bits [31:25]: the B register of a one-word form, LA of a long-latency form, part of a reassigned field. -/
  top : BitVec 7 := 0
  /-- First-word bits [24:18]. -/
  a : BitVec 7 := 0
  /-- First-word bits [17:11]. -/
  d : BitVec 7 := 0
  /-- Whether words 1 and 2 are present (LEN 0b10 and 0b11). -/
  ext : Bool := false
  /-- Word 1 bits [31:25]. -/
  b : BitVec 7 := 0
  /-- Word 1 bits [24:18]. -/
  c : BitVec 7 := 0
  /-- Word 1 bit [17]: a guard applies. -/
  gv : Bool := false
  /-- Word 1 bits [16:14]: guard predicate. -/
  gp : BitVec 3 := 0
  /-- Word 1 bit [13]: the lane executes when the predicate is 0. -/
  gs : Bool := false
  /-- Word 1 bits [12:10]: rounding mode or scope. -/
  rs : BitVec 3 := 0
  /-- Word 1 bits [9:8]: acquire and release. -/
  ord : BitVec 2 := 0
  /-- Word 1 bits [7], [6], [5]: last read of A, B and C. -/
  lra : Bool := false
  lrb : Bool := false
  lrc : Bool := false
  /-- Word 1 bits [4:2]: type or access size. -/
  ty : BitVec 3 := 0
  /-- Word 1 bit [1]: the instruction's modifier. -/
  xm : Bool := false
  /-- Word 1 bit [0]: operand B is word 2. -/
  bsel : Bool := false
  /-- Word 2. -/
  w2 : W32 := 0
  /-- The 64-bit literal (LEN 0b01 and 0b11). -/
  lit : Option W64 := none
  deriving DecidableEq, Repr

/-- One half of a PAIR (08 R177). -/
structure Half where
  op : BitVec 6 := 0
  d : BitVec 6 := 0
  a : BitVec 6 := 0
  b : BitVec 6 := 0
  bi : Bool := false
  lra : Bool := false
  lrb : Bool := false
  /-- Bits [4:0], reserved. -/
  rsv : BitVec 5 := 0
  deriving DecidableEq, Repr

/-- The fields of a PAIR (08 R177). -/
structure PairForm where
  immY : BitVec 8 := 0
  immX : BitVec 8 := 0
  gv : Bool := false
  gp : BitVec 3 := 0
  gs : Bool := false
  x : Half := {}
  y : Half := {}
  deriving DecidableEq, Repr

/-- A cohort slot: die, core, slot (01 R15, R19). -/
structure CohKey where
  die : Nat
  core : Nat
  slot : Nat
  deriving DecidableEq, Repr

/-- A lane slot of a cohort (02 R27). -/
structure LaneKey where
  coh : CohKey
  lane : Nat
  deriving DecidableEq, Repr

/-- Where a write in flight is applied: at its home, leaving the named observers to apply it later, or at one observer
(07 R135, R143). Observer 48 × die + core is a core, observer 768 is the host. -/
inductive ApplyAt where
  | home (lag : List Nat)
  | observer (o : Nat)
  deriving DecidableEq, Repr

/-- A link that carries flits: the bridge from a die to a neighbour, or a fabric port (21 R421). -/
inductive LinkId where
  | bridge (src dst : Nat)
  | port (p : Nat)
  deriving DecidableEq, Repr

/-- A 256 B flit (21 R421); `reserved` gathers bits [67:64] above [36:0]. -/
structure Flit where
  crc : W64
  payload : List Byte
  len : BitVec 8
  type : BitVec 8
  part : BitVec 12
  srcPkg : BitVec 12
  dstPkg : BitVec 12
  srcDie : BitVec 4
  dstDie : BitVec 4
  rsvHi : BitVec 4
  ack : BitVec 12
  seq : BitVec 12
  vc : BitVec 3
  rsvLo : BitVec 37
  deriving DecidableEq, Repr

/-- What the boot stage that ends has found (25 R473): trained HBM stacks, host link widths, ports up, or a failing unit. -/
inductive BootResult where
  | done
  | hbm (trained : BitVec 32)
  | links (widths : List Nat)
  | ports (up : BitVec 48)
  | fail (unit : W32)
  deriving DecidableEq, Repr

/-- One recorder of a die: a core Almanac, or the scheduler Almanac (22 R426). -/
inductive AlmBuf where
  | core (c : Nat)
  | sched
  deriving DecidableEq, Repr

/-- Redaction policy of a partition (22 R441): key, zero mode of classes (a), (h), (d), mode of class (p) as its table's
code, code range. -/
structure Policy where
  key : BitVec 256
  zeroA : Bool
  zeroH : Bool
  zeroD : Bool
  pMode : BitVec 2
  cbase : W64
  csize : W64
  deriving DecidableEq, Repr

/-- The instructions of the opcode map and the forms the table lists apart (08 R179). -/
inductive Op where
  | iadd
  | isub
  | ineg
  | iabs
  | imin
  | imax
  | lea
  | imul
  | imulh
  | imad
  | idiv
  | irem
  | andOp
  | orOp
  | xorOp
  | andn
  | notOp
  | shl
  | shr
  | sar
  | rotl
  | popc
  | clz
  | ctz
  | brev
  | bfx
  | bfi
  | mov
  | movl
  | sel
  | movFromK
  | movToK
  | icmp
  | pset
  | psetGet
  | plop
  | sread
  | swrite
  | rel
  | spill
  | fill
  | fadd
  | fsub
  | fmul
  | ffma
  | ffms
  | fnma
  | fdiv
  | fsqrt
  | frem
  | fmin
  | fmax
  | fminm
  | fmaxm
  | fabs
  | fneg
  | fcpys
  | fcmp
  | fclass
  | frnd
  | fcvt
  | fscale
  | flogb
  | fdot2
  | rcp
  | rsq
  | ex2
  | lg2
  | sin
  | cos
  | tanh
  | xshfl
  | xvote
  | xred
  | xminidx
  | xscan
  | xmatch
  | ld
  | st
  | ldr
  | str
  | atom
  | acas
  | ared
  | fence
  | pref
  | cpy
  | cpy2d
  | cwait
  | ctest
  | pin
  | unpin
  | stash
  | unstash
  | swb
  | freeze
  | thaw
  | twait
  | ftest
  | qpush
  | qpop
  | qtry
  | amark
  | tdef
  | tqry
  | trel
  | mzero
  | mma
  | mms
  | mmf
  | mwait
  | quant
  | deq
  | spz
  | install
  | uninst
  | perform
  | resume
  | drop
  | contq
  | spawn
  | post
  | postCont
  | exit
  | bar
  | bara
  | barw
  | launch
  | rbind
  | scall
  | bra
  | braLong
  | brp
  | brpLong
  | jmpr
  | call
  | callr
  | ret
  | prio
  | nop
  | pair
  | sret
  | dcrr
  | dcrw
  | tlbinv
  | tlbsync
  | frqpop
  | frqpopTry
  | mapdone
  | slogrun
  | bindw
  | haltc
  | haltcGo
  | cimgs
  | cimgl
  deriving DecidableEq, Repr

/-- The instructions and steps of the Z16, in the order of the opcode table. -/
inductive Instr where
  /-- IADD (R191). -/
  | iadd (f : Form)
  /-- ISUB (R191). -/
  | isub (f : Form)
  /-- INEG (R191). -/
  | ineg (f : Form)
  /-- IABS (R191). -/
  | iabs (f : Form)
  /-- IMIN (R191). -/
  | imin (f : Form)
  /-- IMAX (R191). -/
  | imax (f : Form)
  /-- LEA (R193). -/
  | lea (f : Form)
  /-- IMUL (R191). -/
  | imul (f : Form)
  /-- IMULH (R191). -/
  | imulh (f : Form)
  /-- IMAD (R191). -/
  | imad (f : Form)
  /-- IDIV (R191). -/
  | idiv (f : Form)
  /-- IREM (R191). -/
  | irem (f : Form)
  /-- AND (R194). -/
  | andOp (f : Form)
  /-- OR (R194). -/
  | orOp (f : Form)
  /-- XOR (R194). -/
  | xorOp (f : Form)
  /-- ANDN (R194). -/
  | andn (f : Form)
  /-- NOT (R194). -/
  | notOp (f : Form)
  /-- SHL (R195). -/
  | shl (f : Form)
  /-- SHR (R195). -/
  | shr (f : Form)
  /-- SAR (R195). -/
  | sar (f : Form)
  /-- ROTL (R195). -/
  | rotl (f : Form)
  /-- POPC (R196). -/
  | popc (f : Form)
  /-- CLZ (R196). -/
  | clz (f : Form)
  /-- CTZ (R196). -/
  | ctz (f : Form)
  /-- BREV (R196). -/
  | brev (f : Form)
  /-- BFX (R197). -/
  | bfx (f : Form)
  /-- BFI (R197). -/
  | bfi (f : Form)
  /-- MOV (R198). -/
  | mov (f : Form)
  /-- MOVL (R198). -/
  | movl (f : Form)
  /-- SEL (R200). -/
  | sel (f : Form)
  /-- MOV_FROM_K (R199). -/
  | movFromK (f : Form)
  /-- MOV_TO_K (R199). -/
  | movToK (f : Form)
  /-- ICMP (R201). -/
  | icmp (f : Form)
  /-- PSET (R202). -/
  | pset (f : Form)
  /-- PSET_GET (R202). -/
  | psetGet (f : Form)
  /-- PLOP (R203). -/
  | plop (f : Form)
  /-- SREAD (R204). -/
  | sread (f : Form)
  /-- SWRITE (R205). -/
  | swrite (f : Form)
  /-- REL (R206). -/
  | rel (f : Form)
  /-- SPILL (R208). -/
  | spill (f : Form)
  /-- FILL (R209). -/
  | fill (f : Form)
  /-- FADD (R222). -/
  | fadd (f : Form)
  /-- FSUB (R222). -/
  | fsub (f : Form)
  /-- FMUL (R222). -/
  | fmul (f : Form)
  /-- FFMA (R222). -/
  | ffma (f : Form)
  /-- FFMS (R222). -/
  | ffms (f : Form)
  /-- FNMA (R222). -/
  | fnma (f : Form)
  /-- FDIV (R222). -/
  | fdiv (f : Form)
  /-- FSQRT (R222). -/
  | fsqrt (f : Form)
  /-- FREM (R223). -/
  | frem (f : Form)
  /-- FMIN (R225). -/
  | fmin (f : Form)
  /-- FMAX (R225). -/
  | fmax (f : Form)
  /-- FMINM (R225). -/
  | fminm (f : Form)
  /-- FMAXM (R225). -/
  | fmaxm (f : Form)
  /-- FABS (R226). -/
  | fabs (f : Form)
  /-- FNEG (R226). -/
  | fneg (f : Form)
  /-- FCPYS (R226). -/
  | fcpys (f : Form)
  /-- FCMP (R227). -/
  | fcmp (f : Form)
  /-- FCLASS (R228). -/
  | fclass (f : Form)
  /-- FRND (R229). -/
  | frnd (f : Form)
  /-- FCVT (R230). -/
  | fcvt (f : Form)
  /-- FSCALE (R222). -/
  | fscale (f : Form)
  /-- FLOGB (R231). -/
  | flogb (f : Form)
  /-- FDOT2 (R224). -/
  | fdot2 (f : Form)
  /-- RCP (R233). -/
  | rcp (f : Form)
  /-- RSQ (R233). -/
  | rsq (f : Form)
  /-- EX2 (R233). -/
  | ex2 (f : Form)
  /-- LG2 (R233). -/
  | lg2 (f : Form)
  /-- SIN (R233). -/
  | sin (f : Form)
  /-- COS (R233). -/
  | cos (f : Form)
  /-- TANH (R233). -/
  | tanh (f : Form)
  /-- SFU_RESULT_RETIRE (R234). -/
  | sfuResultRetire (die : Nat) (core : Nat)
  /-- XSHFL (R238). -/
  | xshfl (f : Form)
  /-- XVOTE (R239). -/
  | xvote (f : Form)
  /-- XRED (R240). -/
  | xred (f : Form)
  /-- XMINIDX (R241). -/
  | xminidx (f : Form)
  /-- XSCAN (R242). -/
  | xscan (f : Form)
  /-- XMATCH (R243). -/
  | xmatch (f : Form)
  /-- LD (R256). -/
  | ld (f : Form)
  /-- ST (R257). -/
  | st (f : Form)
  /-- LDR (R256). -/
  | ldr (f : Form)
  /-- STR (R257). -/
  | str (f : Form)
  /-- ATOM (R259). -/
  | atom (f : Form)
  /-- ACAS (R259). -/
  | acas (f : Form)
  /-- ARED (R259). -/
  | ared (f : Form)
  /-- FENCE (R147). -/
  | fence (f : Form)
  /-- PREF (R262). -/
  | pref (f : Form)
  /-- CPY (R265). -/
  | cpy (f : Form)
  /-- CPY2D (R264). -/
  | cpy2d (f : Form)
  /-- CWAIT (R267). -/
  | cwait (f : Form)
  /-- CTEST (R267). -/
  | ctest (f : Form)
  /-- PIN (R268). -/
  | pin (f : Form)
  /-- UNPIN (R268). -/
  | unpin (f : Form)
  /-- STASH (R269). -/
  | stash (f : Form)
  /-- UNSTASH (R270). -/
  | unstash (f : Form)
  /-- SWB (R270). -/
  | swb (f : Form)
  /-- FREEZE (R271). -/
  | freeze (f : Form)
  /-- THAW (R272). -/
  | thaw (f : Form)
  /-- TWAIT (R267). -/
  | twait (f : Form)
  /-- FTEST (R267). -/
  | ftest (f : Form)
  /-- QPUSH (R274). -/
  | qpush (f : Form)
  /-- QPOP (R275). -/
  | qpop (f : Form)
  /-- QTRY (R276). -/
  | qtry (f : Form)
  /-- QPOP_COMPLETE (R132). -/
  | qpopComplete (l : LaneKey)
  /-- AMARK (R277). -/
  | amark (f : Form)
  /-- TDEF (R289). -/
  | tdef (f : Form)
  /-- TQRY (R290). -/
  | tqry (f : Form)
  /-- TREL (R290). -/
  | trel (f : Form)
  /-- MZERO (R291). -/
  | mzero (f : Form)
  /-- MMA (R292). -/
  | mma (f : Form)
  /-- MMS (R292). -/
  | mms (f : Form)
  /-- MMF (R292). -/
  | mmf (f : Form)
  /-- MWAIT (R301). -/
  | mwait (f : Form)
  /-- QUANT (R302). -/
  | quant (f : Form)
  /-- DEQ (R303). -/
  | deq (f : Form)
  /-- SPZ (R304). -/
  | spz (f : Form)
  /-- MATRIX_KSTEP_DONE (R292). -/
  | matrixKstepDone (id : Nat)
  /-- INSTALL (R310). -/
  | install (f : Form)
  /-- UNINST (R311). -/
  | uninst (f : Form)
  /-- PERFORM (R313). -/
  | perform (f : Form)
  /-- RESUME (R69). -/
  | resume (f : Form)
  /-- DROP (R72). -/
  | drop (f : Form)
  /-- CONTQ (R316). -/
  | contq (f : Form)
  /-- SPAWN (R318). -/
  | spawn (f : Form)
  /-- POST (R320). -/
  | post (f : Form)
  /-- POST_CONT (R320). -/
  | postCont (f : Form)
  /-- EXIT (R319). -/
  | exit (f : Form)
  /-- BAR (R325). -/
  | bar (f : Form)
  /-- BARA (R325). -/
  | bara (f : Form)
  /-- BARW (R325). -/
  | barw (f : Form)
  /-- LAUNCH (R327). -/
  | launch (f : Form)
  /-- RBIND (R328). -/
  | rbind (f : Form)
  /-- SCALL (R329). -/
  | scall (f : Form)
  /-- BRA (R211). -/
  | bra (f : Form)
  /-- BRA_LONG (R211). -/
  | braLong (f : Form)
  /-- BRP (R211). -/
  | brp (f : Form)
  /-- BRP_LONG (R211). -/
  | brpLong (f : Form)
  /-- JMPR (R212). -/
  | jmpr (f : Form)
  /-- CALL (R213). -/
  | call (f : Form)
  /-- CALLR (R213). -/
  | callr (f : Form)
  /-- RET (R214). -/
  | ret (f : Form)
  /-- PRIO (R215). -/
  | prio (f : Form)
  /-- NOP (R215). -/
  | nop (f : Form)
  /-- PAIR (R178). -/
  | pair (f : PairForm)
  /-- SRET (R358). -/
  | sret (f : Form)
  /-- DCRR (R366). -/
  | dcrr (f : Form)
  /-- DCRW (R366). -/
  | dcrw (f : Form)
  /-- TLBINV (R367). -/
  | tlbinv (f : Form)
  /-- TLBSYNC (R368). -/
  | tlbsync (f : Form)
  /-- FRQPOP (R369). -/
  | frqpop (f : Form)
  /-- FRQPOP_TRY (R369). -/
  | frqpopTry (f : Form)
  /-- MAPDONE (R370). -/
  | mapdone (f : Form)
  /-- SLOGRUN (R371). -/
  | slogrun (f : Form)
  /-- BINDW (R372). -/
  | bindw (f : Form)
  /-- HALTC (R373). -/
  | haltc (f : Form)
  /-- HALTC_GO (R373). -/
  | haltcGo (f : Form)
  /-- CIMGS (R375). -/
  | cimgs (f : Form)
  /-- CIMGL (R376). -/
  | cimgl (f : Form)
  /-- BOUNDARY_EFFECT (R58). -/
  | boundaryEffect
  /-- LATE_EFFECT (R58). -/
  | lateEffect
  /-- ENTRY_AGED (R36). -/
  | entryAged (c : CohKey) (prio : BitVec 8) (pc : Nat)
  /-- WAKE (R39). -/
  | wake (l : LaneKey)
  /-- AWAIT (R40). -/
  | await (l : LaneKey)
  /-- ACTIVE_SET_DISPLACE (R43). -/
  | activeSetDisplace (die : Nat) (core : Nat)
  /-- LOAD_DATA_RETURN (R256). -/
  | loadDataReturn (l : LaneKey) (id : Nat)
  /-- WRITE_APPLY (R135). -/
  | writeApply (id : Nat) (a : ApplyAt)
  /-- ATOMIC_PERFORM (R149). -/
  | atomicPerform (id : Nat)
  /-- COPY_COMPLETE (R266). -/
  | copyComplete (id : Nat)
  /-- FREEZE_COMPLETE (R157). -/
  | freezeComplete (id : Nat)
  /-- THAW_COLLECT_COMPLETE (R160). -/
  | thawCollectComplete (id : Nat)
  /-- STASH_FILL (R125). -/
  | stashFill (page : Nat) (sector : Nat)
  /-- STASH_RECALL (R125). -/
  | stashRecall (page : Nat) (sector : Nat)
  /-- SCRATCH_EVICT (R123). -/
  | scratchEvict (page : Nat)
  /-- SCRATCH_REFILL (R123). -/
  | scratchRefill (page : Nat) (sector : Nat)
  /-- SIDE_LOG_REPLAY (R399). -/
  | sideLogReplay (die : Nat) (core : Nat) (page : Nat)
  /-- FAULT_RECORD_WRITE (R394). -/
  | faultRecordWrite (die : Nat)
  /-- FAULT_TIMEOUT (R396). -/
  | faultTimeout (die : Nat) (rid : BitVec 32)
  /-- HELD_LANE_REPLAY (R413). -/
  | heldLaneReplay (id : Nat)
  /-- COMPLETION_WORD_WATCH (R370). -/
  | completionWordWatch (id : Nat)
  /-- MSI_WRITE (R420). -/
  | msiWrite (die : Nat) (off : Nat) (data : W32)
  /-- HOST_REQUEST_RECORD (R403). -/
  | hostRequestRecord (die : Nat)
  /-- HOTNESS_PROPOSAL (R406). -/
  | hotnessProposal (die : Nat) (granule : Nat) (pkg : Nat)
  /-- HOTNESS_DECAY (R406). -/
  | hotnessDecay (die : Nat)
  /-- HOST_WRITE (R419), to memory, or to BAR0 (R417). -/
  | hostWrite (link : Nat) (hpa : Nat) (pa : Nat) (data : List Byte)
  /-- HOST_READ (R419), of device memory, or of BAR0 (R417). -/
  | hostRead (pa : Nat) (len : Nat)
  /-- HOST_SNOOP (R152). -/
  | hostSnoop (line : Nat)
  /-- FLIT_RECEIVE (R422). -/
  | flitReceive (link : LinkId) (flit : Flit)
  /-- NAK_RECEIVE (R422). -/
  | nakReceive (link : LinkId)
  /-- LINK_REPLAY_TIMEOUT (R422). -/
  | linkReplayTimeout (link : LinkId)
  /-- LINK_RETRAIN (R422). -/
  | linkRetrain (link : LinkId) (ok : Bool)
  /-- CALENDS_PASS (R387). -/
  | calendsPass (die : Nat)
  /-- TASK_START (R321). -/
  | taskStart (die : Nat) (quad : Nat)
  /-- CAL_HLQTAIL (R378). -/
  | calHlqtail (die : Nat) (v : W64)
  /-- CAL_DLQPOP (R378). -/
  | calDlqpop (die : Nat)
  /-- CAL_BIND (R381). -/
  | calBind (die : Nat) (v : W64)
  /-- CAL_PREEMPT (R385). -/
  | calPreempt (die : Nat) (v : W64)
  /-- PREEMPT_DEADLINE (R385). -/
  | preemptDeadline (die : Nat)
  /-- GANG_TIME_LIMIT (R384). -/
  | gangTimeLimit (gang : Nat)
  /-- ARBITER_PASS (R478). -/
  | arbiterPass (avail : Nat) (power : List (List Nat))
  /-- RELOCK_END (R18). -/
  | relockEnd (die : Nat)
  /-- CURRENT_LIMIT (R481). -/
  | currentLimit (die : Nat)
  /-- THERMAL_THROTTLE (R479). -/
  | thermalThrottle (die : Nat) (degC : Nat)
  /-- THERMAL_TRIP (R479). -/
  | thermalTrip (die : Nat)
  /-- POWER_ON (R472). -/
  | powerOn
  /-- BOOT_STAGE (R473). -/
  | bootStage (r : BootResult)
  /-- ALM_CUTREQ (R434). -/
  | almCutreq (die : Nat) (v : W64)
  /-- CUT (R435). -/
  | cut (id : Nat) (die : Nat)
  /-- ALMANAC_FREEZE (R435). -/
  | almanacFreeze (id : Nat) (die : Nat)
  /-- ALMANAC_COPY_DONE (R437). -/
  | almanacCopyDone (id : Nat) (die : Nat) (buf : AlmBuf)
  /-- CAPSULE_SEAL (R443). -/
  | capsuleSeal (id : Nat)
  /-- IDENT (R476). -/
  | ident (tag : W32)
  /-- BOOTST (R476). -/
  | bootst (tag : W32)
  /-- ATTEST (R475). -/
  | attest (tag : W32) (nonce : BitVec 256)
  /-- IMGLOAD (R476). -/
  | imgload (tag : W32) (ty : Nat) (off : Nat) (body : List Byte)
  /-- RESET (R472). -/
  | reset (tag : W32) (kind : Nat)
  /-- SETPART (R407). -/
  | setpart (tag : W32) (die : Nat) (pid : Nat)
  /-- SETPOLICY (R441). -/
  | setpolicy (tag : W32) (pid : Nat) (pol : Policy)
  /-- MGMT_DCRACC (R476). -/
  | mgmtDcracc (tag : W32) (write : Bool) (addr : BitVec 31) (data : W64)
  /-- PWRSET (R476). -/
  | pwrset (tag : W32) (watts : Nat)
  /-- VLIST (R446). -/
  | vlist (tag : W32)
  /-- VREAD (R446). -/
  | vread (tag : W32) (slot : Nat) (off : Nat) (len : Nat)
  /-- VRELEASE (R446). -/
  | vrelease (tag : W32) (slot : Nat) (seq : Nat)
  /-- EXTEST (R452). -/
  | extest (pins : List Bool)
  /-- IDCODE (R452). -/
  | idcode
  /-- SAMPLE_PRELOAD (R452). -/
  | samplePreload (pins : List Bool)
  /-- LENMUS_DCRACC (R452). -/
  | lenmusDcracc (write : Bool) (addr : BitVec 31) (data : W64)
  /-- SNAPSEL (R452). -/
  | snapsel (v : W32)
  /-- SNAPRD (R453). -/
  | snaprd
  /-- BYPASS (R452), by 0xFF or an IR value of no other instruction. -/
  | bypass (bit : Bool)
  /-- SOL_STOP_ARM (R449). -/
  | solStopArm (die : Nat) (v : W64)
  /-- SOLSTICE_STOP (R450). -/
  | solsticeStop (die : Nat)
  /-- SOL_RESUME (R449). -/
  | solResume (die : Nat) (v : W64)
  /-- SOLSTICE_RESUME (R451). -/
  | solsticeResume
  /-- PARK_GO (R457). -/
  | parkGo (die : Nat) (k : Nat)
  /-- SAMPLE_RECORD (R461). -/
  | sampleRecord (die : Nat) (core : Nat)
  /-- CK_CAPTURE (R464). -/
  | ckCapture (die : Nat)
  /-- CK_QUIESCE_DONE (R464). -/
  | ckQuiesceDone (die : Nat)
  /-- CK_BUDDY_TIMEOUT (R468). -/
  | ckBuddyTimeout (die : Nat)
  /-- CK_RELEASE (R464). -/
  | ckRelease (die : Nat)
  /-- CK_RESTORE_OWN (R469). -/
  | ckRestoreOwn (die : Nat)
  /-- CK_RESTORE_SRC (R469). -/
  | ckRestoreSrc (die : Nat)
  /-- DCR_WRITE (R360). -/
  | dcrWrite (die : Nat) (off : Nat) (v : W64)
  /-- POWER_LOSS (R445). -/
  | powerLoss
  /-- HOST_LINK_DOWN (R483). -/
  | hostLinkDown (link : Nat)
  deriving DecidableEq, Repr

/-- The instruction an opcode and its fields stand for; PAIR has fields of its own. -/
def Instr.ofOp (o : Op) (f : Form) (p : PairForm) : Instr :=
  match o with
  | .iadd => .iadd f
  | .isub => .isub f
  | .ineg => .ineg f
  | .iabs => .iabs f
  | .imin => .imin f
  | .imax => .imax f
  | .lea => .lea f
  | .imul => .imul f
  | .imulh => .imulh f
  | .imad => .imad f
  | .idiv => .idiv f
  | .irem => .irem f
  | .andOp => .andOp f
  | .orOp => .orOp f
  | .xorOp => .xorOp f
  | .andn => .andn f
  | .notOp => .notOp f
  | .shl => .shl f
  | .shr => .shr f
  | .sar => .sar f
  | .rotl => .rotl f
  | .popc => .popc f
  | .clz => .clz f
  | .ctz => .ctz f
  | .brev => .brev f
  | .bfx => .bfx f
  | .bfi => .bfi f
  | .mov => .mov f
  | .movl => .movl f
  | .sel => .sel f
  | .movFromK => .movFromK f
  | .movToK => .movToK f
  | .icmp => .icmp f
  | .pset => .pset f
  | .psetGet => .psetGet f
  | .plop => .plop f
  | .sread => .sread f
  | .swrite => .swrite f
  | .rel => .rel f
  | .spill => .spill f
  | .fill => .fill f
  | .fadd => .fadd f
  | .fsub => .fsub f
  | .fmul => .fmul f
  | .ffma => .ffma f
  | .ffms => .ffms f
  | .fnma => .fnma f
  | .fdiv => .fdiv f
  | .fsqrt => .fsqrt f
  | .frem => .frem f
  | .fmin => .fmin f
  | .fmax => .fmax f
  | .fminm => .fminm f
  | .fmaxm => .fmaxm f
  | .fabs => .fabs f
  | .fneg => .fneg f
  | .fcpys => .fcpys f
  | .fcmp => .fcmp f
  | .fclass => .fclass f
  | .frnd => .frnd f
  | .fcvt => .fcvt f
  | .fscale => .fscale f
  | .flogb => .flogb f
  | .fdot2 => .fdot2 f
  | .rcp => .rcp f
  | .rsq => .rsq f
  | .ex2 => .ex2 f
  | .lg2 => .lg2 f
  | .sin => .sin f
  | .cos => .cos f
  | .tanh => .tanh f
  | .xshfl => .xshfl f
  | .xvote => .xvote f
  | .xred => .xred f
  | .xminidx => .xminidx f
  | .xscan => .xscan f
  | .xmatch => .xmatch f
  | .ld => .ld f
  | .st => .st f
  | .ldr => .ldr f
  | .str => .str f
  | .atom => .atom f
  | .acas => .acas f
  | .ared => .ared f
  | .fence => .fence f
  | .pref => .pref f
  | .cpy => .cpy f
  | .cpy2d => .cpy2d f
  | .cwait => .cwait f
  | .ctest => .ctest f
  | .pin => .pin f
  | .unpin => .unpin f
  | .stash => .stash f
  | .unstash => .unstash f
  | .swb => .swb f
  | .freeze => .freeze f
  | .thaw => .thaw f
  | .twait => .twait f
  | .ftest => .ftest f
  | .qpush => .qpush f
  | .qpop => .qpop f
  | .qtry => .qtry f
  | .amark => .amark f
  | .tdef => .tdef f
  | .tqry => .tqry f
  | .trel => .trel f
  | .mzero => .mzero f
  | .mma => .mma f
  | .mms => .mms f
  | .mmf => .mmf f
  | .mwait => .mwait f
  | .quant => .quant f
  | .deq => .deq f
  | .spz => .spz f
  | .install => .install f
  | .uninst => .uninst f
  | .perform => .perform f
  | .resume => .resume f
  | .drop => .drop f
  | .contq => .contq f
  | .spawn => .spawn f
  | .post => .post f
  | .postCont => .postCont f
  | .exit => .exit f
  | .bar => .bar f
  | .bara => .bara f
  | .barw => .barw f
  | .launch => .launch f
  | .rbind => .rbind f
  | .scall => .scall f
  | .bra => .bra f
  | .braLong => .braLong f
  | .brp => .brp f
  | .brpLong => .brpLong f
  | .jmpr => .jmpr f
  | .call => .call f
  | .callr => .callr f
  | .ret => .ret f
  | .prio => .prio f
  | .nop => .nop f
  | .pair => .pair p
  | .sret => .sret f
  | .dcrr => .dcrr f
  | .dcrw => .dcrw f
  | .tlbinv => .tlbinv f
  | .tlbsync => .tlbsync f
  | .frqpop => .frqpop f
  | .frqpopTry => .frqpopTry f
  | .mapdone => .mapdone f
  | .slogrun => .slogrun f
  | .bindw => .bindw f
  | .haltc => .haltc f
  | .haltcGo => .haltcGo f
  | .cimgs => .cimgs f
  | .cimgl => .cimgl f

/-- The opcode of an instruction; none for the steps that have no encoding. -/
def Instr.op : Instr → Option Op
  | .iadd _ => some .iadd
  | .isub _ => some .isub
  | .ineg _ => some .ineg
  | .iabs _ => some .iabs
  | .imin _ => some .imin
  | .imax _ => some .imax
  | .lea _ => some .lea
  | .imul _ => some .imul
  | .imulh _ => some .imulh
  | .imad _ => some .imad
  | .idiv _ => some .idiv
  | .irem _ => some .irem
  | .andOp _ => some .andOp
  | .orOp _ => some .orOp
  | .xorOp _ => some .xorOp
  | .andn _ => some .andn
  | .notOp _ => some .notOp
  | .shl _ => some .shl
  | .shr _ => some .shr
  | .sar _ => some .sar
  | .rotl _ => some .rotl
  | .popc _ => some .popc
  | .clz _ => some .clz
  | .ctz _ => some .ctz
  | .brev _ => some .brev
  | .bfx _ => some .bfx
  | .bfi _ => some .bfi
  | .mov _ => some .mov
  | .movl _ => some .movl
  | .sel _ => some .sel
  | .movFromK _ => some .movFromK
  | .movToK _ => some .movToK
  | .icmp _ => some .icmp
  | .pset _ => some .pset
  | .psetGet _ => some .psetGet
  | .plop _ => some .plop
  | .sread _ => some .sread
  | .swrite _ => some .swrite
  | .rel _ => some .rel
  | .spill _ => some .spill
  | .fill _ => some .fill
  | .fadd _ => some .fadd
  | .fsub _ => some .fsub
  | .fmul _ => some .fmul
  | .ffma _ => some .ffma
  | .ffms _ => some .ffms
  | .fnma _ => some .fnma
  | .fdiv _ => some .fdiv
  | .fsqrt _ => some .fsqrt
  | .frem _ => some .frem
  | .fmin _ => some .fmin
  | .fmax _ => some .fmax
  | .fminm _ => some .fminm
  | .fmaxm _ => some .fmaxm
  | .fabs _ => some .fabs
  | .fneg _ => some .fneg
  | .fcpys _ => some .fcpys
  | .fcmp _ => some .fcmp
  | .fclass _ => some .fclass
  | .frnd _ => some .frnd
  | .fcvt _ => some .fcvt
  | .fscale _ => some .fscale
  | .flogb _ => some .flogb
  | .fdot2 _ => some .fdot2
  | .rcp _ => some .rcp
  | .rsq _ => some .rsq
  | .ex2 _ => some .ex2
  | .lg2 _ => some .lg2
  | .sin _ => some .sin
  | .cos _ => some .cos
  | .tanh _ => some .tanh
  | .sfuResultRetire _ _ => none
  | .xshfl _ => some .xshfl
  | .xvote _ => some .xvote
  | .xred _ => some .xred
  | .xminidx _ => some .xminidx
  | .xscan _ => some .xscan
  | .xmatch _ => some .xmatch
  | .ld _ => some .ld
  | .st _ => some .st
  | .ldr _ => some .ldr
  | .str _ => some .str
  | .atom _ => some .atom
  | .acas _ => some .acas
  | .ared _ => some .ared
  | .fence _ => some .fence
  | .pref _ => some .pref
  | .cpy _ => some .cpy
  | .cpy2d _ => some .cpy2d
  | .cwait _ => some .cwait
  | .ctest _ => some .ctest
  | .pin _ => some .pin
  | .unpin _ => some .unpin
  | .stash _ => some .stash
  | .unstash _ => some .unstash
  | .swb _ => some .swb
  | .freeze _ => some .freeze
  | .thaw _ => some .thaw
  | .twait _ => some .twait
  | .ftest _ => some .ftest
  | .qpush _ => some .qpush
  | .qpop _ => some .qpop
  | .qtry _ => some .qtry
  | .qpopComplete _ => none
  | .amark _ => some .amark
  | .tdef _ => some .tdef
  | .tqry _ => some .tqry
  | .trel _ => some .trel
  | .mzero _ => some .mzero
  | .mma _ => some .mma
  | .mms _ => some .mms
  | .mmf _ => some .mmf
  | .mwait _ => some .mwait
  | .quant _ => some .quant
  | .deq _ => some .deq
  | .spz _ => some .spz
  | .matrixKstepDone _ => none
  | .install _ => some .install
  | .uninst _ => some .uninst
  | .perform _ => some .perform
  | .resume _ => some .resume
  | .drop _ => some .drop
  | .contq _ => some .contq
  | .spawn _ => some .spawn
  | .post _ => some .post
  | .postCont _ => some .postCont
  | .exit _ => some .exit
  | .bar _ => some .bar
  | .bara _ => some .bara
  | .barw _ => some .barw
  | .launch _ => some .launch
  | .rbind _ => some .rbind
  | .scall _ => some .scall
  | .bra _ => some .bra
  | .braLong _ => some .braLong
  | .brp _ => some .brp
  | .brpLong _ => some .brpLong
  | .jmpr _ => some .jmpr
  | .call _ => some .call
  | .callr _ => some .callr
  | .ret _ => some .ret
  | .prio _ => some .prio
  | .nop _ => some .nop
  | .pair _ => some .pair
  | .sret _ => some .sret
  | .dcrr _ => some .dcrr
  | .dcrw _ => some .dcrw
  | .tlbinv _ => some .tlbinv
  | .tlbsync _ => some .tlbsync
  | .frqpop _ => some .frqpop
  | .frqpopTry _ => some .frqpopTry
  | .mapdone _ => some .mapdone
  | .slogrun _ => some .slogrun
  | .bindw _ => some .bindw
  | .haltc _ => some .haltc
  | .haltcGo _ => some .haltcGo
  | .cimgs _ => some .cimgs
  | .cimgl _ => some .cimgl
  | .boundaryEffect => none
  | .lateEffect => none
  | .entryAged _ _ _ => none
  | .wake _ => none
  | .await _ => none
  | .activeSetDisplace _ _ => none
  | .loadDataReturn _ _ => none
  | .writeApply _ _ => none
  | .atomicPerform _ => none
  | .copyComplete _ => none
  | .freezeComplete _ => none
  | .thawCollectComplete _ => none
  | .stashFill _ _ => none
  | .stashRecall _ _ => none
  | .scratchEvict _ => none
  | .scratchRefill _ _ => none
  | .sideLogReplay _ _ _ => none
  | .faultRecordWrite _ => none
  | .faultTimeout _ _ => none
  | .heldLaneReplay _ => none
  | .completionWordWatch _ => none
  | .msiWrite _ _ _ => none
  | .hostRequestRecord _ => none
  | .hotnessProposal _ _ _ => none
  | .hotnessDecay _ => none
  | .hostWrite _ _ _ _ => none
  | .hostRead _ _ => none
  | .hostSnoop _ => none
  | .flitReceive _ _ => none
  | .nakReceive _ => none
  | .linkReplayTimeout _ => none
  | .linkRetrain _ _ => none
  | .calendsPass _ => none
  | .taskStart _ _ => none
  | .calHlqtail _ _ => none
  | .calDlqpop _ => none
  | .calBind _ _ => none
  | .calPreempt _ _ => none
  | .preemptDeadline _ => none
  | .gangTimeLimit _ => none
  | .arbiterPass _ _ => none
  | .relockEnd _ => none
  | .currentLimit _ => none
  | .thermalThrottle _ _ => none
  | .thermalTrip _ => none
  | .powerOn => none
  | .bootStage _ => none
  | .almCutreq _ _ => none
  | .cut _ _ => none
  | .almanacFreeze _ _ => none
  | .almanacCopyDone _ _ _ => none
  | .capsuleSeal _ => none
  | .ident _ => none
  | .bootst _ => none
  | .attest _ _ => none
  | .imgload _ _ _ _ => none
  | .reset _ _ => none
  | .setpart _ _ _ => none
  | .setpolicy _ _ _ => none
  | .mgmtDcracc _ _ _ _ => none
  | .pwrset _ _ => none
  | .vlist _ => none
  | .vread _ _ _ _ => none
  | .vrelease _ _ _ => none
  | .extest _ => none
  | .idcode => none
  | .samplePreload _ => none
  | .lenmusDcracc _ _ _ => none
  | .snapsel _ => none
  | .snaprd => none
  | .bypass _ => none
  | .solStopArm _ _ => none
  | .solsticeStop _ => none
  | .solResume _ _ => none
  | .solsticeResume => none
  | .parkGo _ _ => none
  | .sampleRecord _ _ => none
  | .ckCapture _ => none
  | .ckQuiesceDone _ => none
  | .ckBuddyTimeout _ => none
  | .ckRelease _ => none
  | .ckRestoreOwn _ => none
  | .ckRestoreSrc _ => none
  | .dcrWrite _ _ _ => none
  | .powerLoss => none
  | .hostLinkDown _ => none

/-- The fields of an instruction; the empty fields where it has none of this shape. -/
def Instr.form : Instr → Form
  | .iadd f => f
  | .isub f => f
  | .ineg f => f
  | .iabs f => f
  | .imin f => f
  | .imax f => f
  | .lea f => f
  | .imul f => f
  | .imulh f => f
  | .imad f => f
  | .idiv f => f
  | .irem f => f
  | .andOp f => f
  | .orOp f => f
  | .xorOp f => f
  | .andn f => f
  | .notOp f => f
  | .shl f => f
  | .shr f => f
  | .sar f => f
  | .rotl f => f
  | .popc f => f
  | .clz f => f
  | .ctz f => f
  | .brev f => f
  | .bfx f => f
  | .bfi f => f
  | .mov f => f
  | .movl f => f
  | .sel f => f
  | .movFromK f => f
  | .movToK f => f
  | .icmp f => f
  | .pset f => f
  | .psetGet f => f
  | .plop f => f
  | .sread f => f
  | .swrite f => f
  | .rel f => f
  | .spill f => f
  | .fill f => f
  | .fadd f => f
  | .fsub f => f
  | .fmul f => f
  | .ffma f => f
  | .ffms f => f
  | .fnma f => f
  | .fdiv f => f
  | .fsqrt f => f
  | .frem f => f
  | .fmin f => f
  | .fmax f => f
  | .fminm f => f
  | .fmaxm f => f
  | .fabs f => f
  | .fneg f => f
  | .fcpys f => f
  | .fcmp f => f
  | .fclass f => f
  | .frnd f => f
  | .fcvt f => f
  | .fscale f => f
  | .flogb f => f
  | .fdot2 f => f
  | .rcp f => f
  | .rsq f => f
  | .ex2 f => f
  | .lg2 f => f
  | .sin f => f
  | .cos f => f
  | .tanh f => f
  | .sfuResultRetire _ _ => {}
  | .xshfl f => f
  | .xvote f => f
  | .xred f => f
  | .xminidx f => f
  | .xscan f => f
  | .xmatch f => f
  | .ld f => f
  | .st f => f
  | .ldr f => f
  | .str f => f
  | .atom f => f
  | .acas f => f
  | .ared f => f
  | .fence f => f
  | .pref f => f
  | .cpy f => f
  | .cpy2d f => f
  | .cwait f => f
  | .ctest f => f
  | .pin f => f
  | .unpin f => f
  | .stash f => f
  | .unstash f => f
  | .swb f => f
  | .freeze f => f
  | .thaw f => f
  | .twait f => f
  | .ftest f => f
  | .qpush f => f
  | .qpop f => f
  | .qtry f => f
  | .qpopComplete _ => {}
  | .amark f => f
  | .tdef f => f
  | .tqry f => f
  | .trel f => f
  | .mzero f => f
  | .mma f => f
  | .mms f => f
  | .mmf f => f
  | .mwait f => f
  | .quant f => f
  | .deq f => f
  | .spz f => f
  | .matrixKstepDone _ => {}
  | .install f => f
  | .uninst f => f
  | .perform f => f
  | .resume f => f
  | .drop f => f
  | .contq f => f
  | .spawn f => f
  | .post f => f
  | .postCont f => f
  | .exit f => f
  | .bar f => f
  | .bara f => f
  | .barw f => f
  | .launch f => f
  | .rbind f => f
  | .scall f => f
  | .bra f => f
  | .braLong f => f
  | .brp f => f
  | .brpLong f => f
  | .jmpr f => f
  | .call f => f
  | .callr f => f
  | .ret f => f
  | .prio f => f
  | .nop f => f
  | .pair _ => {}
  | .sret f => f
  | .dcrr f => f
  | .dcrw f => f
  | .tlbinv f => f
  | .tlbsync f => f
  | .frqpop f => f
  | .frqpopTry f => f
  | .mapdone f => f
  | .slogrun f => f
  | .bindw f => f
  | .haltc f => f
  | .haltcGo f => f
  | .cimgs f => f
  | .cimgl f => f
  | .boundaryEffect => {}
  | .lateEffect => {}
  | .entryAged _ _ _ => {}
  | .wake _ => {}
  | .await _ => {}
  | .activeSetDisplace _ _ => {}
  | .loadDataReturn _ _ => {}
  | .writeApply _ _ => {}
  | .atomicPerform _ => {}
  | .copyComplete _ => {}
  | .freezeComplete _ => {}
  | .thawCollectComplete _ => {}
  | .stashFill _ _ => {}
  | .stashRecall _ _ => {}
  | .scratchEvict _ => {}
  | .scratchRefill _ _ => {}
  | .sideLogReplay _ _ _ => {}
  | .faultRecordWrite _ => {}
  | .faultTimeout _ _ => {}
  | .heldLaneReplay _ => {}
  | .completionWordWatch _ => {}
  | .msiWrite _ _ _ => {}
  | .hostRequestRecord _ => {}
  | .hotnessProposal _ _ _ => {}
  | .hotnessDecay _ => {}
  | .hostWrite _ _ _ _ => {}
  | .hostRead _ _ => {}
  | .hostSnoop _ => {}
  | .flitReceive _ _ => {}
  | .nakReceive _ => {}
  | .linkReplayTimeout _ => {}
  | .linkRetrain _ _ => {}
  | .calendsPass _ => {}
  | .taskStart _ _ => {}
  | .calHlqtail _ _ => {}
  | .calDlqpop _ => {}
  | .calBind _ _ => {}
  | .calPreempt _ _ => {}
  | .preemptDeadline _ => {}
  | .gangTimeLimit _ => {}
  | .arbiterPass _ _ => {}
  | .relockEnd _ => {}
  | .currentLimit _ => {}
  | .thermalThrottle _ _ => {}
  | .thermalTrip _ => {}
  | .powerOn => {}
  | .bootStage _ => {}
  | .almCutreq _ _ => {}
  | .cut _ _ => {}
  | .almanacFreeze _ _ => {}
  | .almanacCopyDone _ _ _ => {}
  | .capsuleSeal _ => {}
  | .ident _ => {}
  | .bootst _ => {}
  | .attest _ _ => {}
  | .imgload _ _ _ _ => {}
  | .reset _ _ => {}
  | .setpart _ _ _ => {}
  | .setpolicy _ _ _ => {}
  | .mgmtDcracc _ _ _ _ => {}
  | .pwrset _ _ => {}
  | .vlist _ => {}
  | .vread _ _ _ _ => {}
  | .vrelease _ _ _ => {}
  | .extest _ => {}
  | .idcode => {}
  | .samplePreload _ => {}
  | .lenmusDcracc _ _ _ => {}
  | .snapsel _ => {}
  | .snaprd => {}
  | .bypass _ => {}
  | .solStopArm _ _ => {}
  | .solsticeStop _ => {}
  | .solResume _ _ => {}
  | .solsticeResume => {}
  | .parkGo _ _ => {}
  | .sampleRecord _ _ => {}
  | .ckCapture _ => {}
  | .ckQuiesceDone _ => {}
  | .ckBuddyTimeout _ => {}
  | .ckRelease _ => {}
  | .ckRestoreOwn _ => {}
  | .ckRestoreSrc _ => {}
  | .dcrWrite _ _ _ => {}
  | .powerLoss => {}
  | .hostLinkDown _ => {}

/-- The fields of a PAIR. -/
def Instr.pairForm : Instr → PairForm
  | .pair f => f
  | _ => {}

end Sys2Proof
end

