-- ==== Sys2Proof/Machine/Encoding.lean ====
section
/-! DEFINITION. The opcode map and the rules of every encoding (08 R164 to R180 and the encoding tables of files 09 to 13 and
17): which MAJ, FN and SUB name which instruction, which lengths it has, and what each field must hold. -/

namespace Sys2Proof

/-- What a register or selector field holds (08 R171, R248, R307, R365). -/
inductive Fld where
  | zero      -- unused: must be 0
  | raw       -- a number the instruction's own rule checks
  | reg       -- one `v` register
  | pair      -- an even/odd pair
  | quad      -- four registers
  | ity       -- a register or pair, by the integer type's width
  | fty       -- a register or pair, by the floating type's width
  | size      -- a register, pair or quad, by the access size
  | space     -- an address base: a register (XM = 0) or a pair (XM = 1)
  | pred      -- a predicate
  | kreg      -- `k0` to `k7`
  | ksp       -- `k0` to `k7`, or `sp` as 8
  | tensor    -- a tensor identifier, 0 to 63
  | blk (n : Nat) -- a block of n registers whose first is even
  deriving DecidableEq, Repr

/-- The use of word 2 (08 R168). -/
inductive W2Use where
  | zero | imm | own
  deriving DecidableEq, Repr

/-- The use of a literal (08 R172, 10 R235). -/
inductive LitUse where
  | none | b | mask
  deriving DecidableEq, Repr

/-- The use of RS (08 R170). -/
inductive RsUse where
  | zero | rounding | scopes (l : List Nat)
  deriving DecidableEq, Repr

/-- The use of XM: unused, a modifier, or the bit that tells this row of the table from its twin. -/
inductive XmUse where
  | zero | either | one
  deriving DecidableEq, Repr

/-- The encoding rule of one instruction. `lens` lists the LEN codes it permits. `ctl` says that the instruction reassigns
first-word bits [31:11] (08 R179). -/
structure Rule where
  maj : Nat
  fn : Nat
  sub : Option Nat := none
  d : Fld := .zero
  a : Fld := .zero
  b : Fld := .zero
  c : Fld := .zero
  tys : List Nat := [0]
  xm : XmUse := .zero
  rs : RsUse := .zero
  ords : List Nat := [0]
  w2 : W2Use := .zero
  lit : LitUse := .none
  lens : List Nat := [0, 2]
  long : Bool := false
  ctl : Bool := false
  deriving DecidableEq, Repr

def tyAll : List Nat := [0, 1, 2, 3, 4, 5, 6, 7]
def tyW : List Nat := [0, 1, 2, 3]
def lenAny : List Nat := [0, 1, 2, 3]

/-- D, A, B of the integer type, B possibly an immediate or a literal (09 R189). -/
def Rule.int3 (maj fn : Nat) (tys : List Nat) (xm : XmUse) : Rule :=
  { maj, fn, d := .ity, a := .ity, b := .ity, tys, xm, w2 := .imm, lit := .b, lens := lenAny }
/-- D and A of the integer type (09 R189). -/
def Rule.int2 (maj fn : Nat) (tys : List Nat) (xm : XmUse) : Rule :=
  { maj, fn, d := .ity, a := .ity, tys, xm }
/-- D, A, B of a floating type (10 R220). -/
def Rule.flt3 (maj fn : Nat) (tys : List Nat) (rs : RsUse) : Rule :=
  { maj, fn, d := .fty, a := .fty, b := .fty, tys, rs, w2 := .imm, lit := .b, lens := lenAny }
/-- D and A of a floating type (10 R220). -/
def Rule.flt2 (maj fn : Nat) (tys : List Nat) (rs : RsUse) : Rule :=
  { maj, fn, d := .fty, a := .fty, tys, rs }
/-- A special function (10 R232). -/
def Rule.sfu (fn : Nat) : Rule :=
  { maj := 0x1C, fn, d := .fty, a := .fty, tys := [0, 2, 6], long := true }

/-- MAJ 0x00 to 0x07 (09 R189). -/
def ruleInt : Op → Option Rule
  | .iadd => some (.int3 0x00 0 tyAll .either)
  | .isub => some (.int3 0x00 1 tyAll .either)
  | .ineg => some (.int2 0x00 2 tyAll .either)
  | .iabs => some (.int2 0x00 3 tyAll .either)
  | .imin => some (.int3 0x00 4 tyAll .zero)
  | .imax => some (.int3 0x00 5 tyAll .zero)
  | .lea => some { maj := 0x00, fn := 6, d := .pair, a := .pair, b := .reg, c := .raw, tys := [0, 1], w2 := .imm, lit := .b, lens := lenAny }
  | .imul => some (.int3 0x01 0 tyAll .either)
  | .imulh => some (.int3 0x01 1 tyAll .zero)
  | .imad => some { Rule.int3 0x01 2 tyAll .either with c := .ity }
  | .idiv => some (.int3 0x01 3 tyAll .either)
  | .irem => some (.int3 0x01 4 tyAll .zero)
  | .andOp => some (.int3 0x02 0 tyW .zero)
  | .orOp => some (.int3 0x02 1 tyW .zero)
  | .xorOp => some (.int3 0x02 2 tyW .zero)
  | .andn => some (.int3 0x02 3 tyW .zero)
  | .notOp => some (.int2 0x02 4 tyW .zero)
  | .shl => some { Rule.int3 0x03 0 tyW .zero with b := .reg }
  | .shr => some { Rule.int3 0x03 1 tyW .zero with b := .reg }
  | .sar => some { Rule.int3 0x03 2 tyW .zero with b := .reg }
  | .rotl => some { Rule.int3 0x03 3 tyW .zero with b := .reg }
  | .popc => some { Rule.int2 0x04 0 tyW .zero with d := .reg }
  | .clz => some { Rule.int2 0x04 1 tyW .zero with d := .reg }
  | .ctz => some { Rule.int2 0x04 2 tyW .zero with d := .reg }
  | .brev => some (.int2 0x04 3 tyW .zero)
  | .bfx => some { Rule.int3 0x04 4 tyW .zero with b := .reg }
  | .bfi => some { Rule.int3 0x04 5 tyW .zero with b := .reg, c := .ity }
  | .mov => some { maj := 0x05, fn := 0, d := .ity, b := .ity, tys := tyW, w2 := .imm }
  | .movl => some { maj := 0x05, fn := 1, d := .ity, tys := tyW, lit := .b, lens := [1, 3] }
  | .sel => some { Rule.int3 0x05 2 tyW .zero with c := .pred }
  | .movFromK => some { maj := 0x05, fn := 3, d := .pair, a := .ksp }
  | .movToK => some { maj := 0x05, fn := 4, d := .kreg, b := .pair, w2 := .imm, lit := .b, lens := lenAny }
  | .icmp => some { Rule.int3 0x06 0 tyAll .zero with d := .raw }
  | .pset => some { maj := 0x06, fn := 1, a := .reg, w2 := .own }
  | .psetGet => some { maj := 0x06, fn := 1, d := .reg, xm := .one, lens := [2] }
  | .plop => some { maj := 0x06, fn := 2, d := .pred, a := .pred, b := .pred, w2 := .own }
  | .sread => some { maj := 0x07, fn := 0, d := .raw, a := .raw }
  | .swrite => some { maj := 0x07, fn := 1, d := .raw, a := .raw }
  | .rel => some { maj := 0x07, fn := 2, a := .raw, w2 := .own }
  | .spill => some { maj := 0x07, fn := 3, a := .space, b := .reg, xm := .either, w2 := .own }
  | .fill => some { maj := 0x07, fn := 4, d := .reg, a := .space, xm := .either, w2 := .own }
  | _ => none

def tyF : List Nat := [0, 1, 2, 3, 6, 7]

/-- MAJ 0x10 to 0x20 (10 R220, R232, R235 to R243). -/
def ruleFloat : Op → Option Rule
  | .fadd => some (.flt3 0x10 0 tyF .rounding)
  | .fsub => some (.flt3 0x10 1 tyF .rounding)
  | .fmul => some (.flt3 0x10 2 tyF .rounding)
  | .ffma => some { Rule.flt3 0x10 3 tyF .rounding with c := .fty }
  | .ffms => some { Rule.flt3 0x10 4 tyF .rounding with c := .fty }
  | .fnma => some { Rule.flt3 0x10 5 tyF .rounding with c := .fty }
  | .fdiv => some (.flt3 0x11 0 tyW .rounding)
  | .fsqrt => some (.flt2 0x11 1 tyW .rounding)
  | .frem => some (.flt3 0x11 2 tyW .zero)
  | .fmin => some (.flt3 0x12 0 tyF .zero)
  | .fmax => some (.flt3 0x12 1 tyF .zero)
  | .fminm => some (.flt3 0x12 2 tyF .zero)
  | .fmaxm => some (.flt3 0x12 3 tyF .zero)
  | .fabs => some (.flt2 0x13 0 tyAll .zero)
  | .fneg => some (.flt2 0x13 1 tyAll .zero)
  | .fcpys => some (.flt3 0x13 2 tyAll .zero)
  | .fcmp => some { Rule.flt3 0x14 0 tyW .zero with d := .raw, xm := .either }
  | .fclass => some { Rule.flt2 0x14 1 [0, 1, 2, 3, 4, 5] .zero with d := .reg }
  | .frnd => some { Rule.flt2 0x15 0 tyF .rounding with xm := .either }
  | .fcvt => some { maj := 0x15, fn := 1, d := .raw, a := .raw, c := .raw, tys := tyAll, rs := .rounding }
  | .fscale => some { Rule.flt3 0x15 2 tyW .rounding with b := .reg }
  | .flogb => some (.flt2 0x15 3 tyW .zero)
  | .fdot2 => some { Rule.flt3 0x16 0 [6, 7] .rounding with d := .reg, a := .reg, b := .reg, c := .reg }
  | .rcp => some (.sfu 0)
  | .rsq => some (.sfu 1)
  | .ex2 => some (.sfu 2)
  | .lg2 => some (.sfu 3)
  | .sin => some (.sfu 4)
  | .cos => some (.sfu 5)
  | .tanh => some (.sfu 6)
  | .xshfl => some { maj := 0x20, fn := 0, d := .ity, a := .ity, b := .raw, tys := tyW, w2 := .own, lit := .mask, lens := [2, 3], long := true }
  | .xvote => some { maj := 0x20, fn := 1, d := .raw, a := .pred, w2 := .own, lit := .mask, lens := lenAny, long := true }
  | .xred => some { maj := 0x20, fn := 2, d := .raw, a := .raw, tys := tyW, xm := .either, rs := .rounding, w2 := .own, lit := .mask, lens := lenAny, long := true }
  | .xminidx => some { maj := 0x20, fn := 3, d := .pair, a := .reg, tys := [0, 1], lit := .mask, lens := lenAny, long := true }
  | .xscan => some { maj := 0x20, fn := 4, d := .raw, a := .raw, tys := tyW, xm := .either, rs := .rounding, w2 := .own, lit := .mask, lens := lenAny, long := true }
  | .xmatch => some { maj := 0x20, fn := 5, d := .pair, a := .ity, tys := tyW, lit := .mask, lens := lenAny, long := true }
  | _ => none

def sizesAll : List Nat := [0, 1, 2, 3, 4]
def scAll : RsUse := .scopes [0, 1, 2, 3, 4, 5]
def sc04 : RsUse := .scopes [0, 1, 2, 3, 4]

/-- MAJ 0x24 to 0x32 (11 R247, 12 R284). -/
def ruleMem : Op → Option Rule
  | .ld => some { maj := 0x24, fn := 0, d := .size, a := .space, c := .raw, tys := sizesAll, xm := .either, rs := scAll, ords := [0, 1], w2 := .own, long := true }
  | .st => some { maj := 0x24, fn := 1, a := .space, b := .size, tys := sizesAll, xm := .either, rs := scAll, ords := [0, 2], w2 := .own }
  | .ldr => some { maj := 0x24, fn := 2, d := .size, a := .reg, c := .raw, tys := sizesAll, rs := scAll, ords := [0, 1], w2 := .own, long := true }
  | .str => some { maj := 0x24, fn := 3, a := .reg, b := .size, tys := sizesAll, rs := scAll, ords := [0, 2], w2 := .own }
  | .atom => some { maj := 0x25, fn := 0, d := .size, a := .space, b := .size, c := .raw, tys := [0, 1], xm := .either, rs := scAll, ords := [0, 1, 2, 3], w2 := .own, lens := [2], long := true }
  | .acas => some { maj := 0x25, fn := 1, d := .size, a := .space, b := .size, c := .size, tys := [0, 1], xm := .either, rs := scAll, ords := [0, 1, 2, 3], w2 := .own, lens := [2], long := true }
  | .ared => some { maj := 0x25, fn := 2, a := .space, b := .size, c := .raw, tys := [0, 1], xm := .either, rs := scAll, ords := [0, 2], w2 := .own, lens := [2], long := true }
  | .fence => some { maj := 0x26, fn := 0, rs := scAll, w2 := .own }
  | .pref => some { maj := 0x26, fn := 1, a := .space, xm := .either, w2 := .own }
  | .cpy => some { maj := 0x27, fn := 0, d := .pair, a := .raw, b := .raw, c := .pair, tys := [0, 1, 2, 3, 4, 5], w2 := .own, lens := [2], long := true }
  | .cpy2d => some { maj := 0x27, fn := 1, d := .pair, a := .raw, b := .raw, c := .pair, tys := [0, 1, 2, 3, 4, 5], w2 := .own, lens := [2], long := true }
  | .cwait => some { maj := 0x27, fn := 2, a := .pair, b := .pair }
  | .ctest => some { maj := 0x27, fn := 3, d := .pred, a := .pair, b := .pair }
  | .pin => some { maj := 0x28, fn := 0, a := .reg, w2 := .own }
  | .unpin => some { maj := 0x28, fn := 1, a := .reg, w2 := .own }
  | .stash => some { maj := 0x28, fn := 2, a := .reg, b := .pair }
  | .unstash => some { maj := 0x28, fn := 3, a := .reg }
  | .swb => some { maj := 0x28, fn := 4, a := .reg }
  | .freeze => some { maj := 0x29, fn := 0, d := .pair, a := .pair, b := .pair, c := .pair, rs := sc04 }
  | .thaw => some { maj := 0x29, fn := 1, d := .pair, a := .pair, b := .pair, c := .pair, rs := sc04 }
  | .twait => some { maj := 0x29, fn := 2, a := .pair, b := .pair }
  | .ftest => some { maj := 0x29, fn := 3, d := .pred, a := .pair, b := .pair }
  | .qpush => some { maj := 0x2A, fn := 0, d := .pred, a := .pair, b := .blk 14 }
  | .qpop => some { maj := 0x2A, fn := 1, d := .blk 14, a := .pair, long := true }
  | .qtry => some { maj := 0x2A, fn := 2, d := .blk 14, a := .pair, c := .pred, long := true }
  | .amark => some { maj := 0x2B, fn := 0, a := .reg }
  | .tdef => some { maj := 0x30, fn := 0, d := .tensor, a := .space, xm := .either, w2 := .own }
  | .tqry => some { maj := 0x30, fn := 1, d := .pair, a := .tensor }
  | .trel => some { maj := 0x30, fn := 2, d := .tensor }
  | .mzero => some { maj := 0x31, fn := 0, d := .tensor, a := .reg }
  | .mma => some { maj := 0x31, fn := 1, d := .tensor, a := .tensor, b := .tensor, c := .pair, xm := .either, rs := .rounding, w2 := .own, lens := [2], long := true }
  | .mms => some { maj := 0x31, fn := 2, d := .tensor, a := .tensor, b := .tensor, c := .pair, xm := .either, rs := .rounding, w2 := .own, lens := [2], long := true }
  | .mmf => some { maj := 0x31, fn := 3, d := .tensor, a := .tensor, b := .tensor, c := .pair, xm := .either, rs := .rounding, w2 := .own, lens := [2], long := true }
  | .mwait => some { maj := 0x31, fn := 4 }
  | .quant => some { maj := 0x32, fn := 0, d := .tensor, a := .reg, b := .tensor, c := .tensor, rs := .rounding }
  | .deq => some { maj := 0x32, fn := 1, d := .tensor, a := .reg, b := .tensor, xm := .either, rs := .rounding, w2 := .own }
  | .spz => some { maj := 0x32, fn := 2, d := .tensor, a := .reg, b := .tensor }
  | _ => none

/-- MAJ 0x36 to 0x3E (13 R307, 09 R210, R212, 08 R177, 17 R365). -/
def ruleSys : Op → Option Rule
  | .install => some { maj := 0x36, fn := 0, d := .raw, a := .raw, w2 := .own, lens := [2], ctl := true }
  | .uninst => some { maj := 0x36, fn := 1 }
  | .perform => some { maj := 0x36, fn := 2, d := .raw, a := .raw, b := .pair, w2 := .imm, lit := .b, lens := lenAny }
  | .resume => some { maj := 0x36, fn := 3, a := .pair, b := .pair, w2 := .imm, lit := .b, lens := lenAny }
  | .drop => some { maj := 0x36, fn := 4, a := .pair }
  | .contq => some { maj := 0x36, fn := 5, d := .reg, a := .pair }
  | .spawn => some { maj := 0x37, fn := 0, d := .pred, a := .pair, w2 := .own, lens := [2] }
  | .post => some { maj := 0x37, fn := 1, d := .pred, b := .blk 12 }
  | .postCont => some { maj := 0x37, fn := 1, d := .pred, b := .blk 12, xm := .one, lens := [2] }
  | .exit => some { maj := 0x37, fn := 2 }
  | .bar => some { maj := 0x38, fn := 0, d := .reg, c := .raw, rs := sc04, w2 := .own, lens := [2] }
  | .bara => some { maj := 0x38, fn := 1, d := .reg, c := .raw, rs := sc04, w2 := .own, lens := [2] }
  | .barw => some { maj := 0x38, fn := 2, a := .reg }
  | .launch => some { maj := 0x39, fn := 0, d := .pred, a := .pair }
  | .rbind => some { maj := 0x39, fn := 1, d := .reg, a := .reg }
  | .scall => some { maj := 0x39, fn := 2, d := .pred, a := .pair, b := .reg, w2 := .imm, lit := .b, lens := lenAny }
  | .bra => some { maj := 0x3C, fn := 0, d := .raw, a := .raw, lens := [0], ctl := true }
  | .braLong => some { maj := 0x3C, fn := 0, d := .raw, a := .raw, w2 := .own, lens := [2], ctl := true }
  | .brp => some { maj := 0x3C, fn := 1, d := .raw, a := .raw, lens := [0], ctl := true }
  | .brpLong => some { maj := 0x3C, fn := 1, d := .raw, a := .raw, w2 := .own, lens := [2], ctl := true }
  | .jmpr => some { maj := 0x3C, fn := 2, a := .pair, b := .reg, w2 := .imm, lit := .b, lens := lenAny }
  | .call => some { maj := 0x3C, fn := 3, d := .raw, a := .raw, w2 := .own, lens := [2], ctl := true }
  | .callr => some { maj := 0x3C, fn := 4, a := .pair, b := .reg, c := .raw, w2 := .imm, lens := [2] }
  | .ret => some { maj := 0x3C, fn := 5, d := .raw, a := .raw, ctl := true }
  | .prio => some { maj := 0x3C, fn := 6, d := .raw, a := .raw, ctl := true }
  | .nop => some { maj := 0x3C, fn := 7, d := .raw, a := .raw, ctl := true }
  | .pair => some { maj := 0x3D, fn := 0, d := .raw, a := .raw, w2 := .own, lens := [2], ctl := true }
  | .sret => some { maj := 0x3E, fn := 0 }
  | .dcrr => some { maj := 0x3E, fn := 1, d := .pair, a := .reg, w2 := .own }
  | .dcrw => some { maj := 0x3E, fn := 2, a := .reg, b := .pair, w2 := .own }
  | .tlbinv => some { maj := 0x3E, fn := 3, a := .pair, b := .reg, rs := .scopes [2, 3] }
  | .tlbsync => some { maj := 0x3E, fn := 4, a := .pair, b := .pair, xm := .either, rs := .scopes [2, 3] }
  | .frqpop => some { maj := 0x3E, fn := 5, d := .blk 16, c := .pred }
  | .frqpopTry => some { maj := 0x3E, fn := 5, d := .blk 16, c := .pred, xm := .one, lens := [2] }
  | .mapdone => some { maj := 0x3E, fn := 6, a := .reg, b := .reg, c := .pair, w2 := .imm }
  | .slogrun => some { maj := 0x3E, fn := 7, sub := some 0, a := .pair, b := .reg, w2 := .imm, lens := [2] }
  | .bindw => some { maj := 0x3E, fn := 7, sub := some 1, d := .pred, a := .pair }
  | .haltc => some { maj := 0x3E, fn := 7, sub := some 2, a := .reg }
  | .haltcGo => some { maj := 0x3E, fn := 7, sub := some 2, a := .reg, xm := .one, lens := [2] }
  | .cimgs => some { maj := 0x3E, fn := 7, sub := some 3, d := .pred, a := .pair, b := .reg, lens := [2] }
  | .cimgl => some { maj := 0x3E, fn := 7, sub := some 4, d := .pred, a := .pair, b := .reg, lens := [2] }
  | _ => none

/-- The encoding rule of every opcode (08 R179). -/
def Op.rule (o : Op) : Rule :=
  ((ruleInt o).orElse fun _ => (ruleFloat o).orElse fun _ => (ruleMem o).orElse fun _ => ruleSys o).getD
    { maj := 0x3F, fn := 0 }

/-- The opcode map (08 R179): the instruction of MAJ, FN and SUB; a pair of table rows under one encoding is told apart by
LEN or XM (09 R202, R210; 13 R307; 17 R365). -/
def opOf (maj fn sub len : Nat) (xm : Bool) : Option Op :=
  match maj, fn with
  | 0x00, 0 => some .iadd | 0x00, 1 => some .isub | 0x00, 2 => some .ineg | 0x00, 3 => some .iabs
  | 0x00, 4 => some .imin | 0x00, 5 => some .imax | 0x00, 6 => some .lea
  | 0x01, 0 => some .imul | 0x01, 1 => some .imulh | 0x01, 2 => some .imad | 0x01, 3 => some .idiv | 0x01, 4 => some .irem
  | 0x02, 0 => some .andOp | 0x02, 1 => some .orOp | 0x02, 2 => some .xorOp | 0x02, 3 => some .andn | 0x02, 4 => some .notOp
  | 0x03, 0 => some .shl | 0x03, 1 => some .shr | 0x03, 2 => some .sar | 0x03, 3 => some .rotl
  | 0x04, 0 => some .popc | 0x04, 1 => some .clz | 0x04, 2 => some .ctz | 0x04, 3 => some .brev
  | 0x04, 4 => some .bfx | 0x04, 5 => some .bfi
  | 0x05, 0 => some .mov | 0x05, 1 => some .movl | 0x05, 2 => some .sel | 0x05, 3 => some .movFromK | 0x05, 4 => some .movToK
  | 0x06, 0 => some .icmp | 0x06, 1 => some (if xm then .psetGet else .pset) | 0x06, 2 => some .plop
  | 0x07, 0 => some .sread | 0x07, 1 => some .swrite | 0x07, 2 => some .rel | 0x07, 3 => some .spill | 0x07, 4 => some .fill
  | 0x10, 0 => some .fadd | 0x10, 1 => some .fsub | 0x10, 2 => some .fmul | 0x10, 3 => some .ffma
  | 0x10, 4 => some .ffms | 0x10, 5 => some .fnma
  | 0x11, 0 => some .fdiv | 0x11, 1 => some .fsqrt | 0x11, 2 => some .frem
  | 0x12, 0 => some .fmin | 0x12, 1 => some .fmax | 0x12, 2 => some .fminm | 0x12, 3 => some .fmaxm
  | 0x13, 0 => some .fabs | 0x13, 1 => some .fneg | 0x13, 2 => some .fcpys
  | 0x14, 0 => some .fcmp | 0x14, 1 => some .fclass
  | 0x15, 0 => some .frnd | 0x15, 1 => some .fcvt | 0x15, 2 => some .fscale | 0x15, 3 => some .flogb
  | 0x16, 0 => some .fdot2
  | 0x1C, 0 => some .rcp | 0x1C, 1 => some .rsq | 0x1C, 2 => some .ex2 | 0x1C, 3 => some .lg2
  | 0x1C, 4 => some .sin | 0x1C, 5 => some .cos | 0x1C, 6 => some .tanh
  | 0x20, 0 => some .xshfl | 0x20, 1 => some .xvote | 0x20, 2 => some .xred | 0x20, 3 => some .xminidx
  | 0x20, 4 => some .xscan | 0x20, 5 => some .xmatch
  | 0x24, 0 => some .ld | 0x24, 1 => some .st | 0x24, 2 => some .ldr | 0x24, 3 => some .str
  | 0x25, 0 => some .atom | 0x25, 1 => some .acas | 0x25, 2 => some .ared
  | 0x26, 0 => some .fence | 0x26, 1 => some .pref
  | 0x27, 0 => some .cpy | 0x27, 1 => some .cpy2d | 0x27, 2 => some .cwait | 0x27, 3 => some .ctest
  | 0x28, 0 => some .pin | 0x28, 1 => some .unpin | 0x28, 2 => some .stash | 0x28, 3 => some .unstash | 0x28, 4 => some .swb
  | 0x29, 0 => some .freeze | 0x29, 1 => some .thaw | 0x29, 2 => some .twait | 0x29, 3 => some .ftest
  | 0x2A, 0 => some .qpush | 0x2A, 1 => some .qpop | 0x2A, 2 => some .qtry
  | 0x2B, 0 => some .amark
  | 0x30, 0 => some .tdef | 0x30, 1 => some .tqry | 0x30, 2 => some .trel
  | 0x31, 0 => some .mzero | 0x31, 1 => some .mma | 0x31, 2 => some .mms | 0x31, 3 => some .mmf | 0x31, 4 => some .mwait
  | 0x32, 0 => some .quant | 0x32, 1 => some .deq | 0x32, 2 => some .spz
  | 0x36, 0 => some .install | 0x36, 1 => some .uninst | 0x36, 2 => some .perform | 0x36, 3 => some .resume
  | 0x36, 4 => some .drop | 0x36, 5 => some .contq
  | 0x37, 0 => some .spawn | 0x37, 1 => some (if xm then .postCont else .post) | 0x37, 2 => some .exit
  | 0x38, 0 => some .bar | 0x38, 1 => some .bara | 0x38, 2 => some .barw
  | 0x39, 0 => some .launch | 0x39, 1 => some .rbind | 0x39, 2 => some .scall
  | 0x3C, 0 => some (if len = 2 then .braLong else .bra) | 0x3C, 1 => some (if len = 2 then .brpLong else .brp)
  | 0x3C, 2 => some .jmpr | 0x3C, 3 => some .call | 0x3C, 4 => some .callr | 0x3C, 5 => some .ret
  | 0x3C, 6 => some .prio | 0x3C, 7 => some .nop
  | 0x3D, 0 => some .pair
  | 0x3E, 0 => some .sret | 0x3E, 1 => some .dcrr | 0x3E, 2 => some .dcrw | 0x3E, 3 => some .tlbinv
  | 0x3E, 4 => some .tlbsync | 0x3E, 5 => some (if xm then .frqpopTry else .frqpop) | 0x3E, 6 => some .mapdone
  | 0x3E, 7 =>
    match sub with
    | 0 => some .slogrun | 1 => some .bindw | 2 => some (if xm then .haltcGo else .haltc)
    | 3 => some .cimgs | 4 => some .cimgl | _ => none
  | _, _ => none

/-- First-word bits [31:11] of a form, for the instructions that reassign them (09 R210, 13 R308). -/
def Form.hi (f : Form) : BitVec 21 := f.top ++ f.a ++ f.d

/-- LA, first-word bits [31:28] of a long-latency instruction (08 R165). -/
def Form.la (f : Form) : Nat := (f.top >>> 3).toNat

/-- Where operand B comes from (08 R166, R172). -/
inductive BSrc where
  | none | reg (n : Nat) | imm | lit (v : W64)
  deriving DecidableEq, Repr

/-- The B register field: word 1 in an extended or long-latency form, the first word otherwise (08 R165, R166). -/
def Form.bField (o : Op) (f : Form) : Nat :=
  if f.ext then f.b.toNat else if o.rule.long || f.lit.isSome then 0 else f.top.toNat

/-- Log 38 (DEDUCED). -/
def Form.bSrc (o : Op) (f : Form) : BSrc :=
  let r := o.rule
  if r.b = .zero then .none
  else if o = .xshfl && f.w2.getLsbD 4 then .none
  else match f.lit, r.lit with
    | some v, .b => .lit v
    | _, _ => if f.bsel then .imm else .reg (f.bField o)

/-- Whether special register n is 64 bits wide (04 R77, 17 R356). -/
def sregWide (n : Nat) : Bool := n = 10 || n = 11 || n = 12 || n = 16 || n = 17 || n = 19 || n = 21

def fldReg64 (b : Bool) : Fld := if b then .pair else .reg

/-- The kinds of the fields D, A, B, C once the fields that decide them are known: special registers (09 R204, R205), source
descriptors of FCVT (10 R230), operations of XRED and XSCAN (10 R240), spaces of copies (11 R263). -/
def Form.kinds (o : Op) (f : Form) : Fld × Fld × Fld × Fld :=
  let r := o.rule
  let ty := f.ty.toNat
  match o with
  | .sread => (fldReg64 (sregWide f.a.toNat), .raw, .zero, .zero)
  | .swrite => (.raw, fldReg64 (sregWide f.d.toNat), .zero, .zero)
  | .fcvt =>
    let src := f.c.toNat % 8
    (fldReg64 (if f.c.getLsbD 4 then ty = 2 || ty = 3 else ty = 1),
     fldReg64 (if f.c.getLsbD 3 then src = 2 || src = 3 else src = 1), .zero, .raw)
  | .xshfl => (.ity, .ity, if f.w2.getLsbD 4 then .zero else .reg, .zero)
  | .xvote => (if f.w2.toNat % 4 = 3 then .pair else .pred, .pred, .zero, .zero)
  | .xred | .xscan =>
    let k := if 6 ≤ f.w2.toNat % 16 && f.w2.toNat % 16 ≤ 8 then Fld.fty else .ity
    (k, k, .zero, .zero)
  | .cpy | .cpy2d => (.pair, fldReg64 (ty = 2 || ty = 3), fldReg64 (ty = 1 || ty = 3 || ty = 5), .pair)
  | _ => (r.d, r.a, r.b, r.c)

/-- The number of registers a field names; 0 where it names none (08 R171, 09 R187, 10 R218, 11 R248). -/
def Fld.count (k : Fld) (ty : Nat) (xm : Bool) : Nat :=
  match k with
  | .reg => 1
  | .pair => 2
  | .quad => 4
  | .ity => if ty = 2 || ty = 3 then 2 else 1
  | .fty => if ty = 1 then 2 else 1
  | .size => if ty = 1 then 2 else if ty = 2 then 4 else 1
  | .space => if xm then 2 else 1
  | .blk n => n
  | _ => 0

/-- The multiple that the first register of a field must be (08 R171). -/
def Fld.align (k : Fld) (ty : Nat) (xm : Bool) : Nat :=
  match k with
  | .quad => 4
  | .blk _ => 2
  | _ => k.count ty xm

/-- A run of registers that an operand names: first, count, alignment. -/
structure RegRun where
  first : Nat
  count : Nat
  align : Nat
  deriving DecidableEq, Repr

def Fld.run (k : Fld) (n ty : Nat) (xm : Bool) : List RegRun :=
  if k.count ty xm = 0 then [] else [⟨n, k.count ty xm, k.align ty xm⟩]

def RegRun.regs (r : RegRun) : List Nat := (List.range r.count).map (r.first + ·)

def Form.runD (o : Op) (f : Form) : List RegRun := (f.kinds o).1.run f.d.toNat f.ty.toNat f.xm
def Form.runA (o : Op) (f : Form) : List RegRun := (f.kinds o).2.1.run f.a.toNat f.ty.toNat f.xm
def Form.runB (o : Op) (f : Form) : List RegRun :=
  match f.bSrc o with
  | .reg n => (f.kinds o).2.2.1.run n f.ty.toNat f.xm
  | _ => []
def Form.runC (o : Op) (f : Form) : List RegRun := (f.kinds o).2.2.2.run f.c.toNat f.ty.toNat f.xm

/-- Registers named elsewhere than in D, A, B, C: the geometry quad of CPY2D (11 R264), the run of REL (09 R206). -/
def Form.runX (o : Op) (f : Form) : List RegRun :=
  match o with
  | .cpy2d => [⟨f.w2.toNat % 128, 4, 4⟩]
  | .rel => [⟨f.a.toNat, f.w2.toNat % 128 + 1, 1⟩]
  | _ => []

def Form.runs (o : Op) (f : Form) : List RegRun := f.runD o ++ f.runA o ++ f.runB o ++ f.runC o ++ f.runX o

/-- SREAD or SWRITE of a number that user mode reserves (04 R77, 17 R356). -/
def Form.trapReg (o : Op) (f : Form) : Bool := (o = .sread && 16 ≤ f.a.toNat) || (o = .swrite && 16 ≤ f.d.toNat)

/-- Alignment of pairs, quads and blocks (08 R171), a cause 1 check. -/
def Form.runsAligned (o : Op) (f : Form) : Bool := (f.runs o).all fun r => r.first % r.align = 0

/-- The alignment that the words alone decide: whether a trap register needs a pair is its mode's to say (09 R204, R205). -/
def Form.aligned (o : Op) (f : Form) : Bool := f.trapReg o || f.runsAligned o

/-- Every register named lies below the peak (04 R82), a cause 1 check. -/
def Form.belowPeak (o : Op) (f : Form) (peak : Nat) : Bool := (f.runs o).all fun r => r.first + r.count ≤ peak

/-- A field of one kind holds a value it may hold (08 R171, 12 R284). -/
def Fld.valueOk (k : Fld) (n : Nat) : Bool :=
  match k with
  | .zero => n = 0
  | .pred => n < 8
  | .kreg => n < 8
  | .ksp => n ≤ 8
  | .tensor => n < 64
  | _ => true

def Fld.isReg (k : Fld) (ty : Nat) (xm : Bool) : Bool := k.count ty xm ≠ 0

/-- Barrier IDs of each scope (01 R15). -/
def barrierIds (scope : Nat) : Nat := [16, 16, 32, 32, 16].getD scope 0

/-- The limits an instruction's own description sets on its fields (cause 2). -/
def Form.ownOk (o : Op) (f : Form) : Bool :=
  let w2 := f.w2.toNat
  let c := f.c.toNat
  let hi := f.hi.toNat
  match o with
  | .lea => c < 8 && !f.lrc
  | .icmp | .fcmp => f.d.toNat / 8 < 8
  | .pset => w2 < 256
  | .plop => w2 < 16
  | .sread => f.a.toNat ≤ 12 || (16 ≤ f.a.toNat && f.a.toNat ≤ 21)
  | .swrite => (6 ≤ f.d.toNat && f.d.toNat ≤ 8) || (16 ≤ f.d.toNat && f.d.toNat ≤ 21)
  | .rel => w2 < 128 && !f.lra
  | .fcvt =>
    let di := f.c.getLsbD 4
    let si := f.c.getLsbD 3
    c < 32 && !(di && si) && !(!di && !si && c % 8 = f.ty.toNat)
      && (di || f.ty.toNat < 6) && (si || c % 8 < 6)
  | .xshfl =>
    let bi := f.w2.getLsbD 4
    let wrel := f.w2.getLsbD 3
    let imm := w2 / 256 % 256
    w2 < 65536 && w2 / 32 % 8 = 0 && w2 % 8 ≤ 4 && (bi || (imm = 0 && !wrel)) && (!wrel || (1 ≤ imm && imm ≤ 7))
      && f.lit ≠ some 0
  | .xvote => w2 < 4 && f.lit ≠ some 0 && (w2 = 3 || f.la = 0)
  | .xred => w2 ≤ 8 && (w2 < 6 || f.ty.toNat < 2) && (!f.xm || w2 = 0) && f.lit ≠ some 0
  | .xscan => w2 ≤ 8 && (w2 < 6 || f.ty.toNat < 2) && f.lit ≠ some 0
  | .xminidx | .xmatch => f.lit ≠ some 0
  | .ld | .ldr =>
    (match f.ty.toNat with
      | 3 => c = 4 || c = 5
      | 4 => c = 6 || c = 7
      | _ => c = 0) && (f.ty.toNat ≠ 2 || f.la = 0)
  | .atom => c < 12
  | .ared => c < 12 && c ≠ 8
  | .fence => w2 < 32
  | .cpy => w2 ≠ 0 && w2 ≤ 16777216 && w2 % 16 = 0
  | .cpy2d => w2 < 128
  | .pin | .unpin => w2 < 64
  | .qpop | .qtry => f.la = 0
  | .mma | .mms | .mmf => w2 / 65536 ≠ 0
  | .bar | .bara => w2 ≠ 0 && c < barrierIds f.rs.toNat
  | .install => hi % 32 = 0
  | .perform => hi % 64 = 0
  | .braLong => hi % 8192 = 0
  | .brpLong => hi % 512 = 0
  | .call => hi % 32 = 0 && 1 ≤ hi / 32 % 256 && hi / 32 % 256 ≤ 30
  | .callr => 1 ≤ c && c ≤ 30
  | .ret | .nop => hi = 0
  | .prio => hi % 8192 = 0
  | _ => true

/-- First-word bits [31:25] hold what the form lets them hold (08 R165, R166, R172, R179). -/
def Form.topOk (o : Op) (f : Form) : Bool :=
  let r := o.rule
  match r.sub with
  | some s => f.top.toNat = s
  | none =>
    if r.ctl then true
    else if r.long then f.top.toNat % 8 = 0
    else if f.ext || f.lit.isSome then (f.top = 0 : Bool) || (o = .perform && f.top = 0)
    else if r.b = .zero then f.top = 0
    else true

/-- Every reserved, unused or out-of-range field of a form (cause 2 of 08 R180; R167 to R176). Log 37 (DEDUCED). Log 38 (DEDUCED). -/
def Form.reservedOk (o : Op) (f : Form) : Bool :=
  let r := o.rule
  let (kd, ka, kb, kc) := f.kinds o
  let ty := f.ty.toNat
  f.topOk o
    && kd.valueOk f.d.toNat && ka.valueOk f.a.toNat && kc.valueOk f.c.toNat
    && (match f.bSrc o with
        | .reg n => kb.valueOk n && (!f.lrb || kb.isReg ty f.xm)
        | .imm => !f.lrb
        | _ => f.b = 0 && !f.lrb)
    && (!f.lra || ka.isReg ty f.xm) && (!f.lrc || kc.isReg ty f.xm)
    && r.tys.contains ty
    && (match r.xm with | .zero => !f.xm | .one => f.xm | .either => true)
    && (match r.rs with | .zero => f.rs = 0 | .rounding => f.rs.toNat ≤ 5 | .scopes l => l.contains f.rs.toNat)
    && r.ords.contains f.ord.toNat
    && (!f.bsel || (r.w2 = .imm && (f.lit.isNone || r.lit ≠ .b)))
    && (match r.w2 with | .zero => f.w2 = 0 | .imm => f.bsel || f.w2 = 0 | .own => true)
    && f.ownOk o

/-- LEN of a form (08 R164). -/
def Form.len (f : Form) : Nat := (if f.ext then 2 else 0) + (if f.lit.isSome then 1 else 0)

/-- Length in bytes (08 R164). -/
def Form.bytes (f : Form) : Nat := 4 + (if f.ext then 8 else 0) + (if f.lit.isSome then 8 else 0)

/-- The implied values of a form without extended words (08 R169). -/
def Form.implied (o : Op) (f : Form) : Bool :=
  f.ext || (f.b = 0 && f.c = 0 && !f.gv && f.gp = 0 && !f.gs
    && f.rs = (if o.rule.rs = .rounding then 5 else 0) && f.ord = 0 && !f.lra && !f.lrb && !f.lrc && f.ty = 0
    && !f.xm && !f.bsel && f.w2 = 0)

/-- Whether a PAIR operation takes operand B: MOV and NOT do not (08 R177). -/
def Half.usesB (h : Half) : Bool := h.op.toNat < 14

/-- The registers a PAIR reads (08 R178). -/
def Half.reads (h : Half) : List Nat :=
  h.a.toNat :: (if h.usesB && !h.bi then [h.b.toNat] else [])

def PairForm.reads (p : PairForm) : List Nat := p.x.reads ++ p.y.reads
def PairForm.writes (p : PairForm) : List Nat := [p.x.d.toNat, p.y.d.toNat]

/-- The number of distinct elements of a list. -/
def distinctCount : List Nat → Nat
  | [] => 0
  | x :: xs => (if xs.contains x then 0 else 1) + distinctCount xs

/-- An undefined PAIR operation is a cause 1 failure (08 R177, R180). -/
def PairForm.opsOk (p : PairForm) : Bool := p.x.op.toNat < 16 && p.y.op.toNat < 16

def PairForm.belowPeak (p : PairForm) (peak : Nat) : Bool := (p.reads ++ p.writes).all (· < peak)

def Half.reservedOk (h : Half) : Bool :=
  h.rsv = 0 && (h.usesB || (h.b = 0 && !h.bi && !h.lrb)) && !(h.bi && h.lrb)

/-- The cause 2 rules of PAIR (08 R177, R178): reserved bits, three register ports, one shift, two destinations. -/
def PairForm.reservedOk (p : PairForm) : Bool :=
  p.x.reservedOk && p.y.reservedOk
    && distinctCount p.reads ≤ 3
    && !((10 ≤ p.x.op.toNat && p.x.op.toNat ≤ 13) && (10 ≤ p.y.op.toNat && p.y.op.toNat ≤ 13))
    && p.x.d ≠ p.y.d

end Sys2Proof
end

