-- ==== Sys2Proof/Machine/State.lean ====
section
/-! DEFINITION. What a Z16 package holds, as plain data. Sparse parts are association lists: a lane slot, cohort slot, core or
die that is not listed is in its reset state (an empty slot holds no fibre, 02 R27). Fields of the model's own, which the
specification does not name, say so. -/

namespace Sys2Proof.Machine

/-- Why the model stops. No rule of the specification stops the machine, and `step` never raises one. -/
inductive Fault where
  /-- Raised by `exec` of an instruction when no frontier entry is issuing; a fibre's instruction has no meaning without the
  lanes it executes for. Safe: the machine never executes an instruction in this way. -/
  | noIssue
  deriving DecidableEq, Repr

/-- Why an instruction is refused. -/
inductive Refusal where
  /-- Raised by `exec` of an instruction that has no meaning in the model, by its mnemonic. Safe: nothing can be proved of it. -/
  | notModelled (mnemonic : String)
  deriving DecidableEq, Repr

/-- A pending long-latency write to a run of registers (04 R80, 08 R174). `dead` lists registers of the run whose result is
discarded: a REL named them, or a later write in the window superseded it. -/
structure Pend where
  id : Nat
  first : Nat
  count : Nat
  dead : List Nat := []
  deriving DecidableEq, Repr

/-- An old value readable in an open LA window (03 R63, 08 R174). -/
structure Shadow where
  reg : Nat
  old : W32
  left : Nat
  deriving DecidableEq, Repr

/-- A ticket or matrix entry of a fibre (03 R67). -/
structure Ticket where
  kind : Nat
  addr : Nat
  value : W64
  deriving DecidableEq, Repr

/-- At which kind of point an effect is raised (03 R58). -/
inductive EffClass where
  | own | boundary | late | fence
  deriving DecidableEq, Repr

/-- An effect on its way to a fibre (03 R58, R61). `k3` is the whole register; `cpc` and `xpc` are the continuation and causing
PC, where `none` as continuation PC is the next instruction not issued. `unwritten` is the first register and width code of a
destination recorded unwritten (03 R66). -/
structure Effect where
  tag : BitVec 8
  k2 : W64
  k3 : W64
  cpc : Option Nat
  xpc : Nat
  unwritten : Option (Nat × Nat) := none
  bks : Bool := false
  cls : EffClass := .own
  deriving DecidableEq, Repr

/-- State of an occupied lane slot (02 R27, R38). A parked lane holds its block and the `k2` of its AWAIT; a held lane holds
the number of its hold. A capturing lane has an effect on its way, with the priority it keeps, while an engine operation of its
octet or an access of its own waits for another party (03 R59, 12 R297). Log 44 (DESIGN CHOICE). -/
inductive LaneStatus where
  | ready
  | parked (block : Nat) (k2 : W64)
  | held (hold : Nat)
  | capturing (prio : BitVec 8) (e : Effect)
  deriving DecidableEq, Repr

/-- Trap registers of a supervisor lane (17 R356). -/
structure Trap where
  tvec : W64 := 0
  tpc : W64 := 0
  tcause : W32 := 0
  tval : W64 := 0
  tstat : W32 := 0
  tscr : W64 := 0
  deriving DecidableEq, Repr

/-- An arrival at a convergence point (02 R30; 10 R236): the instruction, whether the lane's guard was true, what its sources held,
its rounding mode, and the number of its pending result. -/
structure Arrival where
  op : Op
  form : Form
  bytes : Nat
  word : W32
  guard : Bool
  a : W64
  b : W32
  mode : Nat
  pend : Option Nat := none
  deriving DecidableEq, Repr

/-- A TLB removal asked for and not yet synchronised (17 R367): scope code, selector, address and ASID, and the level of the largest
page that it covered. -/
structure TlbInv where
  scope : Nat
  sel : Nat
  va : Nat
  asid : BitVec 16
  level : Nat := 0
  deriving DecidableEq, Repr

/-- The registers and state of one fibre (04 R76, 02 R27 to R42). `prio` and `pc` hold the pair of a lane that is in no
frontier entry; a ready lane's pair is its entry's. -/
structure Lane where
  status : LaneStatus := .ready
  prio : BitVec 8 := 0x80
  pc : Nat := 0
  /-- Live `v` registers, in increasing number (04 R80). -/
  v : List (Nat × W32) := []
  p : BitVec 8 := 0
  k : List W64 := [0, 0, 0, 0, 0, 0, 0, 0]
  sp : Nat := 0
  chain : Nat := 0
  fflags : BitVec 5 := 0
  frm : BitVec 3 := 0
  fenable : BitVec 5 := 0
  /-- Log 21 (DESIGN CHOICE). -/
  wic : W32 := 0
  /-- The issue at which it is held has been counted in `$wic` (19 R397). The model's own. -/
  counted : Bool := false
  /-- Parked core cycles (02 R40). -/
  parkedCycles : Nat := 0
  shadows : List Shadow := []
  pend : List Pend := []
  tickets : List Ticket := []
  /-- Late effects due (03 R58). -/
  late : List Effect := []
  /-- Fence effects pending (03 R58). -/
  fenceFx : List Effect := []
  /-- The first issue fires no breakpoint at its PC (03 R61, R66). Log 47 (DEDUCED). -/
  bks : Bool := false
  /-- The number of the break- or watchpoint that its next issue does not match (23 R457). Log 47 (DEDUCED). -/
  skip : Option Nat := none
  /-- LIMIT is due (18 R384). -/
  limitDue : Bool := false
  /-- A pending PREEMPT has still to be delivered (02 R42). -/
  preemptDue : Bool := false
  trap : Trap := {}
  /-- Writes in flight that the fibre has observed (07 R141). -/
  obs : List Nat := []
  /-- Its own writes in flight that a fence which named their path came after (07 R141, R144). -/
  made : List Nat := []
  /-- Writes in flight that its write-backs of stash sectors carry on the LSU path (11 R270). -/
  backs : List Nat := []
  tlbinvs : List TlbInv := []
  /-- Registers that a refused growth asked for (04 R84). -/
  want : List Nat := []
  /-- Last reads of the instruction it parks at, which take effect when the instruction completes (04 R81). -/
  lastReads : List Nat := []
  /-- Registers whose mapping a held instruction keeps for its result (04 R80). -/
  keeps : List Nat := []
  /-- The scope at which the next LSU access acquires, the first of a fibre started by a POST (13 R321). -/
  acquires : Option Nat := none
  arrival : Option Arrival := none
  /-- Number of the fibre in this slot, and of its stay there: a capture begins a new stay (06 R132, 12 R292). The model's own. Log 136 (DESIGN CHOICE). -/
  fibre : Nat := 0
  /-- Log 136 (DESIGN CHOICE). -/
  stay : Nat := 0
  deriving DecidableEq, Repr

/-- A frontier entry (02 R31) with its age (02 R36). -/
structure Entry where
  prio : BitVec 8
  pc : Nat
  mask : W64
  age : Nat := 0
  deriving DecidableEq, Repr

/-- A copy, freeze or thaw whose issue stalls part-way (11 R265, R271): its entry, its lanes, those that have started, those that take
an effect, and the instruction. -/
structure Stall where
  prio : BitVec 8
  pc : Nat
  mask : W64
  started : List Nat := []
  /-- Granules that its next lane has counted, with the scope at which each was frozen before, and those that it has still to count. -/
  marks : Option (List (Nat × Option Nat) × List Nat) := none
  fx : List (Nat × Effect) := []
  bytes : Nat
  word : W32
  instr : Instr
  deriving DecidableEq, Repr

/-- A bound cohort slot (02 R27 to R43, 18 R380). -/
structure Cohort where
  gang : Nat := 0
  role : Nat := 0
  member : Nat := 0
  minR : Nat := 0
  peak : Nat := 128
  cls : Nat := 0
  start : Nat := 0
  /-- Commit order of the bind record (04 R84, "oldest"). -/
  order : Nat := 0
  /-- A supervisor cohort: its fibres run in privileged mode (17 R354). -/
  priv : Bool := false
  lanes : List (Nat × Lane) := []
  /-- In the order of 02 R32. -/
  frontier : List Entry := []
  active : Bool := false
  /-- Core cycles in the active set (02 R43). -/
  activeCycles : Nat := 0
  /-- Place in the ready order of the core (02 R43): what `State.readied` was when it became ready. -/
  readyAt : Nat := 0
  /-- Number of the last issue (02 R43, least recently issued). -/
  lastIssue : Nat := 0
  /-- Halted by HALTC (17 R373), and a halt still draining. -/
  halted : Bool := false
  halting : Bool := false
  stall : Option Stall := none
  /-- A preemption request is pending (02 R42). -/
  preempting : Bool := false
  /-- The bind record that was committed (18 R380). -/
  bind : BitVec 512 := 0
  deriving DecidableEq, Repr

/-- The growth reserve of a core (04 R84): free, granted to a slot (which has held more than its minimum since, or not), or not yet
free again. -/
inductive Reserve where
  | free
  | granted (slot : Nat) (grown : Bool)
  | draining
  deriving DecidableEq, Repr

/-- A sector of a stash page that is present (06 R125, 19 R400). -/
structure StashSector where
  idx : Nat
  pa : Nat
  writable : Bool
  frozen : Bool
  dirty : Bool := false
  deriving DecidableEq, Repr

/-- A granted scratch page (06 R122 to R127). `id` names its contents. -/
structure ScratchPage where
  id : Nat
  gang : Nat
  role : Nat
  member : Nat
  index : Nat
  /-- Holds a physical page of the scratchpad. -/
  physical : Bool := true
  pinned : Bool := true
  /-- Its entry in the scratch page table, and the BACK field that names its backing area (06 R124). -/
  num : Nat := 0
  /-- Log 90 (DESIGN CHOICE). -/
  back : Nat := 0
  /-- Sectors not present while the page refills (06 R123). -/
  absent : List Nat := []
  /-- Sectors written since fill. -/
  dirty : List Nat := []
  stash : Option Nat := none
  sectors : List StashSector := []
  deriving DecidableEq, Repr

/-- A range of the scoreboard (06 R128): bytes of the core's scratch contents, source or destination of a copy. -/
structure Range where
  copy : Nat
  lo : Nat
  hi : Nat
  isDst : Bool
  deriving DecidableEq, Repr

/-- One lane's access in a side-log entry (19 R398). -/
structure SideLane where
  lane : Nat
  va : Nat
  data : List Byte
  wic : W32 := 0
  fibre : Nat := 0
  /-- Made again by a replay, and not yet applied. -/
  sent : Bool := false
  deriving DecidableEq, Repr

/-- A side-log entry (19 R398), in slot `idx` of the log. `id` and `word` (a completion word it waits for after a long reply) are the
model's own. -/
structure SideEntry where
  id : Nat
  idx : Nat := 0
  tick : Nat
  gang : Nat
  pc : Nat
  wic : W32
  page : Nat
  psize : Nat
  state : Nat
  cause : Nat
  slot : Nat
  acc : Nat
  op : Nat
  size : Nat
  seq : W32
  rid : W32
  /-- Scratch page of a store to a stash sector, whose fill faulted. -/
  viaStash : Bool := false
  word : Option Nat := none
  /-- Number of the SLOGRUN that acts on it. -/
  run : Nat := 0
  /-- A reduction that named `.SYS` (22 R430). -/
  sys : Bool := false
  /-- Numbers of the fibres of the lanes, for freeing at exit (13 R319). -/
  fibres : List Nat
  lanes : List SideLane
  deriving DecidableEq, Repr

/-- A special-function result on its way (10 R234). -/
structure SfuResult where
  key : LaneKey
  id : Nat
  value : W32
  flags : BitVec 5
  deriving DecidableEq, Repr

/-- A defined entry of a gang's tensor table, with its descriptor (12 R280, R281). -/
structure Tensor where
  gang : Nat
  id : Nat
  desc : Nat
  deriving DecidableEq, Repr

/-- An Almanac record (22 R427) with the partition that owns it (22 R440), and the type of the record that an EXT extends, else its
own. -/
structure AlmRec where
  owner : Nat
  type : Nat
  word : BitVec 128
  deriving DecidableEq, Repr

/-- A record that waits in the staging queue (22 R428) with its EXT, and the number and the tick of the first of the records
discarded right before it. -/
structure AlmStaged where
  owner : Nat
  word : BitVec 128
  ext : Option Nat
  lost : Option (Nat × Nat) := none
  deriving DecidableEq, Repr

/-- A ring of 16-byte Almanac records (22 R426): the youngest first, at most its capacity. `next` counts the records written,
`sync` is the tick of the last SYNC, `frozen` the tick of the freeze while a cut holds it (22 R435). `used` records were accepted in
the cycle `cyc`, the last in which one was; `lost` counts those discarded since, from the tick `lostAt` on (22 R428). -/
structure AlmRing where
  recs : List AlmRec := []
  next : Nat := 0
  sync : Option Nat := none
  frozen : Option Nat := none
  /-- Oldest first. -/
  staged : List AlmStaged := []
  cyc : Nat := 0
  used : Nat := 0
  lost : Nat := 0
  lostAt : Nat := 0
  deriving DecidableEq, Repr

/-- A tagged instruction (23 R461): what its record holds, the accesses it still has under way, and its lanes that are held. -/
structure Sample where
  tick : Nat
  pc : Nat
  mask : W64
  slot : Nat
  gang : Nat
  level : Nat
  out : Nat
  waits : List Nat
  holds : List Nat
  deriving DecidableEq, Repr

/-- A translation held by a TLB (19 R391, R392): `marks` has one bit per 64 KiB granule of a 2 MiB page. A walker's cache holds non-leaf
PTEs in the same form: `level` is the level a PTE was read at, and `marks` is 0. -/
structure TlbEntry where
  asid : BitVec 16
  global : Bool
  vbase : Nat
  level : Nat
  pte : W64
  marks : BitVec 32
  deriving DecidableEq, Repr

/-- State of one core. -/
structure Core where
  reserve : Reserve := .free
  /-- Its L1 TLB (19 R391). -/
  tlb : List TlbEntry := []
  pages : List ScratchPage := []
  ranges : List Range := []
  sideLog : List SideEntry := []
  /-- Entries that wait for room in the log, with the hold of their lanes (11 R253). -/
  sideWait : List (Nat × SideEntry) := []
  sideSeq : W32 := 0
  sfu : List SfuResult := []
  tensors : List Tensor := []
  alm : AlmRing := {}
  /-- Issues since reset, each of which takes two cycles (02 R43, 22 R428). The model's own. -/
  issues : Nat := 0
  /-- Taken branches counted for sampling (22 R430). -/
  branches : Nat := 0
  /-- Trace: the mask last traced per cohort slot; SYNC due (23 R459, R460). -/
  traceMask : List (Nat × W64) := []
  syncDue : List Nat := []
  /-- Sampling (23 R461): the tagged instruction, and the issues left until the next tag. -/
  sample : Option Sample := none
  sampleLeft : Option Nat := none
  deriving DecidableEq, Repr

/-- The paths of 07 R138. -/
inductive Path where
  | lsu | cpy | mtx | que | frz
  deriving DecidableEq, Repr

/-- A write in flight (07 R135). `home` says that its home has applied it; `left` lists the observers that then still lack it,
`early` those that applied it first; `deps` are causal predecessors (07 R141). `red` is the operation and size of a reduction. -/
structure Write where
  id : Nat
  /-- The copy that makes the write (11 R266), and its piece of 16 bytes. -/
  job : Option Nat := none
  piece : Nat := 0
  src : LaneKey
  /-- Number of the fibre. -/
  fibre : Nat := 0
  gang : Nat
  path : Path
  wic : W32
  pc : Nat
  va : Nat
  pa : Nat
  data : List Byte
  red : Option (Nat × Nat) := none
  home : Bool := false
  left : List Nat := []
  early : List Nat := []
  deps : List Nat := []
  /-- Writes of its fibre that a fence ordered before it (07 R141): a fence that meets it waits for them as well (07 R147). -/
  after : List Nat := []
  /-- The widest scope of a fence of its fibre that named its path and has ended (07 R136). -/
  fenced : Option Nat := none
  /-- Number shared by the writes of one issue, or of one side-log entry (11 R250). The model's own. -/
  batch : Nat := 0
  /-- Completion word and ticket of the copy that makes it (06 R129). -/
  word : Nat := 0
  ticket : Nat := 0
  /-- A reduction that names `.SYS` (22 R430). -/
  sys : Bool := false
  /-- The die and core of the page through whose scratch name of a stash sector it is made (06 R125). -/
  stash : Option (Nat × Nat) := none
  /-- The side-log entry that it replays (19 R399). -/
  side : Option Nat := none
  /-- Other lanes, with their fibres, on whose behalf it is made (09 R208). -/
  also : List (Nat × Nat) := []
  /-- The scope at which it acquires, as the first access of a posted fibre (13 R321). -/
  acq : Option Nat := none
  deriving DecidableEq, Repr

/-- A load whose data has not returned (11 R256). `ty` and `ext` give its size and extension. -/
structure Load where
  id : Nat
  src : LaneKey
  pc : Nat
  va : Nat
  pa : Nat
  ty : Nat
  ext : Nat
  first : Nat
  acq : Bool
  scope : Nat
  gang : Nat := 0
  stash : Option (Nat × Nat) := none
  deriving DecidableEq, Repr

/-- An atomic on its way to its home (11 R259): `cmp` is the value an ACAS expects. -/
structure Atomic where
  id : Nat
  src : LaneKey
  gang : Nat
  pc : Nat
  prio : BitVec 8
  va : Nat
  pa : Nat
  wide : Bool
  op : Nat
  b : W64
  cmp : Option W64
  first : Nat
  acq : Bool
  scope : Nat
  wic : W32
  deps : List Nat := []
  batch : Nat := 0
  /-- Its fibre has issued a later instruction: its home has taken it, before any later freeze of its granule (11 R260). Log 139 (DESIGN CHOICE). -/
  taken : Bool := false
  stash : Option (Nat × Nat) := none
  /-- Its home has performed it and the reply waits at the die's boundary (15 R341): the old value, and the writes it observed. -/
  reply : Option (Nat × List Nat) := none
  deriving DecidableEq, Repr

/-- What a fault record of a lane or engine waits for (19 R393). -/
inductive Waiter where
  | lanes (hold : Nat)
  | side (core : Nat) (page : Nat)
  | engine (id : Nat)
  /-- An access in flight that its home refused for its partition (19 R408): its fibre's slot and PC. -/
  | home (key : LaneKey) (pc : Nat)
  | none
  deriving DecidableEq, Repr

/-- A fault record (19 R394), as its fields, with the party that waits for its reply. -/
structure FaultRec where
  rid : W32
  cause : Nat
  acc : Nat
  path : Nat
  level : Nat
  dm : Bool
  cw : Nat
  va : W64
  mask : W64
  pc : Nat
  gang : Nat
  die : Nat
  core : Nat
  slot : Nat
  tick : Nat
  pte : W64
  waiter : Waiter
  /-- The die's stopped ticks when it was written (23 R450). -/
  stops : Nat := 0
  deriving DecidableEq, Repr

/-- Lanes held by one fault (11 R252): they stand at `pc` with `prio` until the reply. `word` is the completion word that lanes
of QPUSH, FREEZE and THAW wait for after a long reply (19 R393). -/
structure Hold where
  id : Nat
  coh : CohKey
  mask : W64
  prio : BitVec 8
  pc : Nat
  /-- The instruction waits for word C instead of taking PFAULT. -/
  waits : Bool
  va : W64
  /-- Faulting addresses of the lanes, where they differ. -/
  vas : List (Nat × W64) := []
  cause : Nat
  word : Option Nat := none
  /-- Made ready by a reply; the replay has still to issue (19 R397). -/
  resolved : Bool := false
  /-- Held for want of a side-log entry, with no record (11 R253). -/
  noRecord : Bool := false
  deriving DecidableEq, Repr

/-- A hotness counter (19 R406). -/
structure Hot where
  granule : Nat
  pkg : Nat
  reads : Nat
  writes : Nat
  deriving DecidableEq, Repr

/-- A freeze-table entry (19 R409): region number, scope code, its frozen granules and those collecting. -/
structure FrzEntry where
  region : Nat
  scope : Nat
  granules : BitVec 32
  collecting : BitVec 32
  deriving DecidableEq, Repr

/-- A relock: ticks still to run, the step locked to, and the tick of its start (01 R18, 25 R477). -/
structure Relock where
  left : Nat
  next : Nat
  start : Nat
  deriving DecidableEq, Repr

/-- A parked group (23 R456): the number that hit, the group, and the entry that hit. -/
structure Park where
  bp : Nat
  gang : Nat
  core : Nat
  role : Nat
  member : Nat
  slot : Nat
  prio : BitVec 8
  pc : Nat
  mask : W64
  deriving DecidableEq, Repr

/-- A launch record taken and not yet committed (18 R387): its address, the queue it came from, its contents with its role entries,
and the ticks since it was taken and until the next try. -/
structure LaunchHead where
  va : Nat
  device : Bool
  record : BitVec 512
  roles : List (BitVec 256)
  waited : Nat
  retry : Nat
  deriving DecidableEq, Repr

/-- A pre-emption request (18 R385): its target, ticks to the deadline, targets not yet released, all targets, forced saves. -/
structure PreemptReq where
  target : W64
  left : Nat
  open_ : List CohKey
  forced : Nat
  gangs : List Nat
  deriving DecidableEq, Repr

/-- State of one die. Registers listed in `dcr` differ from their reset values. -/
structure Die where
  dcr : List (Nat × W64) := []
  /-- Clock step code: (12 + code) / 10 GHz (01 R18). -/
  step : Nat := 0
  /-- A relock in progress (01 R18), and a step ordered while it runs (25 R481). -/
  relock : Option Relock := none
  order : Option Nat := none
  /-- A Solstice stop is in force (23 R450), and the ticks spent stopped since reset. The count is the model's own. -/
  stopped : Bool := false
  stopTicks : Nat := 0
  cyc : W64 := 0
  /-- Tenths of a core cycle carried from tick to tick. The model's own. -/
  tenths : Nat := 0
  /-- The 48.16 accumulator of `$ncyc` (04 R88). -/
  ncyc : W64 := 0
  frq : List FaultRec := []
  out : List FaultRec := []
  frWait : List FaultRec := []
  /-- Log 22 (DESIGN CHOICE). -/
  rid : W32 := 1
  /-- The L2 TLB, and the walkers' cache of non-leaf entries (19 R391). -/
  tlb : List TlbEntry := []
  walks : List TlbEntry := []
  /-- Hotness counters, the most recently used first (19 R406). -/
  hot : List Hot := []
  frzTable : List FrzEntry := []
  /-- Interrupt pending bits by EIID (21 R420). -/
  irq : List Nat := []
  schedAlm : AlmRing := {}
  /-- The four park entries (23 R456). -/
  parks : List (Option Park) := [none, none, none, none]
  /-- Records of the trace ring written since its last SYNC of every cohort (23 R460). -/
  traced : Nat := 0
  /-- Staging queue of trace records, oldest first: core, slot and the record (23 R459). -/
  traceStaged : List (Nat × Nat × Nat) := []
  /-- Sample records written (23 R461). -/
  sampled : Nat := 0
  /-- Post queues by quad (13 R320), oldest first: task records of 64 bytes. -/
  posts : List (Nat × List (BitVec 512)) := []
  /-- Device launch queue (18 R378), oldest first. -/
  dlq : List Nat := []
  /-- The Calends firmware's own data (18 R387): whether the device queue is served next, the launch records taken and not yet committed, at
most one of each queue, and the ticks until a quad's post queue is tried again. -/
  serveDevice : Bool := false
  heads : List LaunchHead := []
  postWait : List (Nat × Nat) := []
  /-- Gangs that were pre-empted for a head record or a checkpoint, to be committed again from their images (18 R387, 24 R464), with the
ticks until the next try. -/
  requeue : List (Nat × Nat) := []
  /-- Requests of other packages that wait at the die for their homes (21 R425), oldest first. -/
  remote : List Flit := []
  preempt : Option PreemptReq := none
  /-- Forced to 1.2 GHz by temperature (25 R479). -/
  hotClamp : Bool := false
  /-- Withholding alternate issues (25 R481). Log 105 (DESIGN CHOICE). -/
  limited : Bool := false
  /-- Tickets of the die's supervisor cohorts, which belong to no gang (06 R129). Log 64 (DEDUCED). -/
  cpyNext : Nat := 1
  /-- Log 64 (DEDUCED). -/
  frzNext : Nat := 1
  /-- Tick of the last halving of the hotness counts (19 R406). The model's own. -/
  hotTick : Nat := 0
  /-- Digests kept for frozen chunks (24 R466), by chunk number. -/
  kept : List (Nat × BitVec 256) := []
  deriving DecidableEq, Repr

/-- Who holds a share of a frame-heap segment (03 R51): a fibre, by its number, or the continuation whose record begins at an address. -/
inductive Holder where
  | fibre (n : Nat)
  | cont (record : Nat)
  deriving DecidableEq, Repr

/-- A share of a held segment (03 R51): the offset at which it begins, the gang it is held for, its holder. -/
structure Share where
  start : Nat
  gang : Nat
  holder : Holder
  deriving DecidableEq, Repr

/-- A held frame-heap segment (03 R50): the heap (partition number, or 4096 + die for a supervisor heap), its address, its shares. -/
structure Seg where
  heap : Nat
  addr : Nat
  shares : List Share
  deriving DecidableEq, Repr

/-- What a saved fibre keeps beside its image: its number, the effects due to it, of which none is lost (03 R58, 18 R384), and the writes in
flight that it has observed, fenced or written back (07 R141). Log 77 (DEDUCED). -/
structure SavedLane where
  lane : Nat
  fibre : Nat
  late : List Effect := []
  fenceFx : List Effect := []
  limitDue : Bool := false
  acquires : Option Nat := none
  obs : List Nat := []
  made : List Nat := []
  backs : List Nat := []
  deriving DecidableEq, Repr

/-- A cohort saved in an image (17 R375, 18 R385): its address, the slot it left, its group, and its lanes. -/
structure SavedImage where
  addr : Nat
  key : CohKey
  role : Nat
  member : Nat
  lanes : List SavedLane := []
  deriving DecidableEq, Repr

/-- A gang (18 R379 to R384, 06 R129, 13 R322). `table` is its group binding table as 64-bit words, `grants` its barrier IDs by
scope code, `launch` the address of its launch record. -/
structure Gang where
  id : Nat
  pid : Nat
  cls : Nat := 0
  root : Nat := 0
  ctx : Nat := 0
  tlimit : Nat := 0
  /-- Ticks of the budget counted (18 R384); the limit is disarmed once it ran out. -/
  used : Nat := 0
  limitFired : Bool := false
  /-- A pre-emption is pending or was completed and no cohort was committed since (18 R384). -/
  preempted : Bool := false
  table : List W64 := []
  /-- Declared registers of role 0, which task cohorts take (18 R383). Log 88 (DESIGN CHOICE). -/
  min0 : Nat := 1
  /-- Log 88 (DESIGN CHOICE). -/
  peak0 : Nat := 128
  grants : List (Nat × Nat) := []
  cpyNext : Nat := 1
  frzNext : Nat := 1
  launch : Option Nat := none
  /-- Die and virtual address space the launch record is read in. -/
  launchDie : Nat := 0
  /-- Tick of the commit. -/
  committed : Nat := 0
  /-- Saved cohort images (18 R382, R385). -/
  images : List SavedImage := []
  deriving DecidableEq, Repr

/-- A barrier of a gang in a scope instance (13 R322): `inst` numbers the instance by its lowest core. -/
structure Barrier where
  pid : Nat
  gang : Nat
  scope : Nat
  inst : Nat
  id : Nat
  phase : Nat := 0
  arrived : Nat := 0
  exp : Nat := 0
  /-- Writes in flight that arriving fibres had made or observed (13 R326). -/
  seen : List Nat := []
  deriving DecidableEq, Repr

/-- A matrix operation that is executing (12 R287, R292). `kind` is 0 MZERO, 1 MMA, 2 MMS, 3 MMF, 5 QUANT, 6 DEQ, 7 SPZ; the
descriptors are those its entries held at execution; `lanes` are the arrived lanes with the numbers of their stays; `alone` says that some lane's `$fenable` was not 0 (12 R299). A reissued product
serves one fibre (12 R298). -/
structure MatOp where
  id : Nat
  kind : Nat
  key : CohKey
  octet : Nat
  owner : Nat
  lanes : List (Nat × Nat)
  gang : Nat
  role : Nat
  member : Nat
  a : Nat
  b : Nat
  d : Nat
  first : Nat
  ks : Nat
  kn : Nat
  done : Nat
  row0 : Nat
  col0 : Nat
  mode : Nat
  ftz : Bool
  n : Int
  pc : Nat
  single : Option Nat := none
  alone : Bool := false
  /-- Number shared by the operations of a fused pass (12 R295). -/
  pass : Nat := 0
  /-- The engine waits for the supervisor, or for a completion word (12 R300). -/
  waiting : Bool := false
  word : Option Nat := none
  /-- The address whose mapping the engine waits for. -/
  failVa : Nat := 0
  deriving DecidableEq, Repr

/-- A copy (11 R263 to R266) or a freeze or thaw (11 R271, R272) in flight, until its ticket is written to its word. Spaces are 0
scratch, 1 global, 2 role-member scratch; `todo` lists the 16-byte pieces not yet read and `got` those read and not yet written. -/
structure Job where
  id : Nat
  /-- The FRZ path; otherwise CPY. -/
  frz : Bool
  key : LaneKey
  fibre : Nat
  pid : Nat
  gang : Nat
  role : Nat
  member : Nat
  ticket : Nat
  word : Nat
  pc : Nat
  dstSpace : Nat := 0
  srcSpace : Nat := 0
  dst : Nat := 0
  src : Nat := 0
  rowBytes : Nat := 0
  dstStride : Nat := 0
  srcStride : Nat := 0
  todo : List Nat := []
  got : List (Nat × List Byte) := []
  /-- How many pieces of 16 bytes a copy has. -/
  count : Nat := 0
  /-- Bytes of uncorrectable units that the copy has written at their home (06 R482). -/
  covered : List Nat := []
  thaw : Bool := false
  scope : Nat := 0
  granules : List Nat := []
  /-- Writes applied at their homes before the mark, that FREEZE waits for. -/
  before : List Nat := []
  /-- What its fibre had observed when it issued (07 R142). -/
  obs : List Nat := []
  /-- A copy's next piece is the one that faulted. -/
  retry : Bool := false
  /-- The operation is complete; its ticket waits to be written. -/
  complete : Bool := false
  bad : Bool := false
  /-- The engine waits for the supervisor, or for a completion word. -/
  waiting : Bool := false
  cw : Option Nat := none
  deriving DecidableEq, Repr

/-- A QPOP or QTRY that has taken its entry and waits for the producer's writes (06 R132, 11 R275). -/
structure QWait where
  id : Nat
  key : LaneKey
  words : List W32
  /-- Writes of the stamped slot in flight that count among those before the push. -/
  waits : List Nat
  stampWic : W32
  prod : LaneKey
  scope : Nat
  /-- Predicate that is written 1 with the payload. -/
  pred : Option Nat := none
  /-- The producer lies in this package (06 R132). -/
  near : Bool := true
  deriving DecidableEq, Repr

/-- A QPOP request that waits at a descriptor's home (11 R275); `desc` is the descriptor's location. -/
structure QReq where
  key : LaneKey
  desc : Nat
  first : Nat
  deriving DecidableEq, Repr

/-- One cause of a cut (22 R439). -/
structure CutCause where
  pc : Nat
  tag : Nat
  die : Nat
  core : Nat
  slot : Nat
  lane : Nat
  deriving DecidableEq, Repr

/-- A section of a capsule (22 R438): records oldest first. -/
structure Section where
  kind : Nat
  die : Nat
  core : Nat
  owner : Nat
  recs : List AlmRec
  sync : Nat
  deriving DecidableEq, Repr

/-- A cut in progress (22 R435, R436): its subject dies, the dies that have received it, that have frozen, and the Almanacs copied
(48 for a scheduler's). A cut that waits for an earlier one has `started` false. -/
structure Cut where
  id : Nat
  t0 : Nat
  subj : Nat
  dies : List Nat
  causes : List CutCause
  slot : Nat
  started : Bool
  notified : List Nat := []
  frozen : List Nat := []
  copied : List (Nat × Nat) := []
  sections : List Section := []
  /-- Its capsule is sealed; some die has still to receive the cut. -/
  isSealed : Bool := false
  deriving DecidableEq, Repr

/-- A slot of the vault (22 R444): 0 empty, 1 busy, 2 sealed, and the SEQ, SIZE and SUBJ of its capsule, which is in memory. -/
structure VaultSlot where
  state : Nat := 0
  seq : Nat := 0
  size : Nat := 0
  subj : Nat := 0
  /-- Some of its capsule has been read; a cut took it over since (22 R446). -/
  read : Bool := false
  lost : Bool := false
  deriving DecidableEq, Repr

/-- The entry that is issuing (02 R34): its cohort, pair, lanes and age, and the length and first word of the instruction. -/
structure Issue where
  key : CohKey
  prio : BitVec 8
  pc : Nat
  mask : W64
  age : Nat
  bytes : Nat
  word : W32
  deriving DecidableEq, Repr

/-- Which agent moves next: an engine, controller or outside party; a unit of memory that becomes uncorrectable; a cohort, which issues; a core, which issues from the cohort of
its active set that issued least recently and can issue (02 R43); or time, by a number of reference ticks. The model's own (the specification fixes no order among agents). Log 1 (DESIGN CHOICE). -/
inductive Turn where
  | event (i : Instr)
  | issue (c : CohKey)
  | core (die core : Nat)
  | elapse (ticks : Nat)
  /-- A unit of 32 bytes of memory becomes uncorrectable by a fault of the part, or the host answers its accesses with an error
  (06 R134, R482; 25 R483). Nothing else adds to `State.bad`. Log 160 (DESIGN CHOICE). -/
  | spoil (unit : Nat)
  deriving DecidableEq, Repr

/-- One end of a link that carries flits (21 R421, R422). -/
structure Link where
  up : Bool := false
  /-- Sequence of the next flit to send, flits not yet acknowledged, oldest first, with their resends, and flits that wait for room. -/
  next : BitVec 12 := 0
  unacked : List (Flit × Nat) := []
  queue : List Flit := []
  /-- Sequence expected next from the peer. -/
  expect : BitVec 12 := 0
  /-- A NAK has to be sent; eight resends ask for a retrain. -/
  nak : Bool := false
  /-- Tick of the last progress. -/
  since : Nat := 0
  retrain : Bool := false
  deriving DecidableEq, Repr

/-- A host write that its home has not applied (21 R418, R419): stream, home die, sequence number, address and data. -/
structure HostWr where
  stream : Nat
  die : Nat
  seq : BitVec 16
  link : Nat
  pa : Nat
  data : List Byte
  /-- Its home holds it; else the home answered with a retry, and the ingress keeps it. -/
  taken : Bool := true
  deriving DecidableEq, Repr

/-- Sequence numbers of a pair of stream and home die (21 R418): the next to give and the next to apply. -/
structure HostPair where
  stream : Nat
  die : Nat
  give : BitVec 16
  apply : BitVec 16
  deriving DecidableEq, Repr

/-- A firmware image (25 R474): the digest and version of the one that was accepted. -/
structure Image where
  digest : BitVec 256
  version : W32
  deriving DecidableEq, Repr

/-- The security controller (25): the boot stage and failing unit, trained HBM stacks, host links and ports, images staged by
IMGLOAD, accepted images, refusals for METAL, the non-volatile rollback counters by TYPE, the redaction policies, and the answer
to the last management request. -/
structure Sec where
  powered : Bool := true
  stage : Nat := 0
  fail : W32 := 0
  hbm : BitVec 32 := 0
  links : List Nat := [0, 0, 0, 0]
  ports : BitVec 48 := 0
  /-- Images staged by IMGLOAD: TYPE, and bytes by offset. -/
  staged : List (Nat × List (Nat × Byte)) := []
  images : List (Nat × Image) := []
  refused : Nat := 0
  /-- Log 24 (DESIGN CHOICE). -/
  rollback : List (Nat × W32) := []
  policies : List (Nat × Policy) := []
  answer : List Byte := []
  status : Nat := 0
  /-- OP and tag of that answer (25 R476). -/
  answerOp : BitVec 16 := 0
  answerTag : W32 := 0
  deriving DecidableEq, Repr

/-- Solstice (23 R449 to R451): the stop and resume ticks, and the tick of the stop in force. -/
structure Sol where
  stopAt : W64 := 0
  arm : Bool := false
  stopped : Bool := false
  dies : BitVec 16 := 0
  resumeAt : W64 := 0
  resuming : Bool := false
  tick : Nat := 0
  deriving DecidableEq, Repr

/-- The Lenmus port (23 R452): instruction register, boundary-scan cells, the value that the next DCRACC capture returns, the
selected chain, and the bits last shifted out. Log 23 (PRESUMED). Log 122 (PRESUMED). -/
structure Lenmus where
  ir : BitVec 8 := 0x01
  cells : List Bool := []
  pins : List Bool := []
  data : W64 := 0
  sel : W32 := 0
  out : List Byte := []
  bypass : Bool := false
  deriving DecidableEq, Repr

/-- What the state blob of a set holds (24 R467), as data: its bytes have no stated layout. Log 110 (DESIGN CHOICE). -/
structure CkBlob where
  epoch : W32
  /-- Partition registers by die and offset, and the regions that the partition owns. -/
  regs : List ((Nat × Nat) × W64)
  owners : List Nat
  /-- Gangs, held segments, post queues, device launch queues and launch heads by die, gangs to commit again. -/
  gangs : List Gang
  segs : List Seg
  posts : List (Nat × List (Nat × List (BitVec 512)))
  dlq : List (Nat × List Nat)
  heads : List (Nat × List LaunchHead)
  requeue : List (Nat × List (Nat × Nat))
  tensors : List ((Nat × Nat) × List Tensor)
  barriers : List Barrier
  /-- Freeze counts by granule, and freeze tables by die. -/
  counts : List (Nat × Nat)
  frozen : List (Nat × List FrzEntry)
  deriving DecidableEq, Repr

/-- The checkpoint engine of a partition (24 R463): its registers, and the content of the blob in its own half. -/
structure Ck where
  state : Nat := 0
  result : Nat := 0
  epoch : W32 := 0
  blob : Option CkBlob := none
  /-- Ticks waited for the buddy's acknowledgement. -/
  waited : Nat := 0
  deriving DecidableEq, Repr

/-- The state of the package. -/
structure State where
  cohorts : List (CohKey × Cohort) := []
  cores : List ((Nat × Nat) × Core) := []
  dies : List (Nat × Die) := []
  /-- Contents of device memory, host memory and scratch pages, by the numbering of `Ops`. -/
  mem : List Host.Cell := []
  /-- What an observer's view holds that the homes do not (07 R135): observer, address, value. -/
  views : List ((Nat × Nat) × Byte) := []
  /-- Uncorrectable 32-byte units, by unit number (06 R482). -/
  bad : List Nat := []
  writes : List Write := []
  loads : List Load := []
  atomics : List Atomic := []
  holds : List Hold := []
  segs : List Seg := []
  gangs : List Gang := []
  barriers : List Barrier := []
  matOps : List MatOp := []
  jobs : List Job := []
  qwaits : List QWait := []
  qreqs : List QReq := []
  cuts : List Cut := []
  vault : List VaultSlot := [{}, {}, {}, {}]
  /-- Capsules written over unreleased, saturating at 255 (22 R433, R444). -/
  vaultDropped : Nat := 0
  /-- Non-volatile counters: last capsule SEQ, next XMSS leaf (22 R443, R445). Log 24 (DESIGN CHOICE). -/
  capsuleSeq : Nat := 0
  /-- Log 24 (DESIGN CHOICE). -/
  xmssLeaf : Nat := 0
  /-- Reference ticks since reset (04 R88). -/
  tick : Nat := 0
  /-- Next number of an access, operation or hold. The model's own. Log 136 (DESIGN CHOICE). -/
  nextId : Nat := 1
  issues : Nat := 0
  /-- How often a lane became ready or a cohort left the active set: the ready order (02 R43). The model's own. -/
  readied : Nat := 0
  fibres : Nat := 0
  links : List (LinkId × Link) := []
  /-- Flits sent on links, the youngest first. What leaves an end of a link; the model's own. -/
  wire : List (LinkId × Flit) := []
  hostPairs : List HostPair := []
  hostHeld : List HostWr := []
  /-- Bytes that the last host read returned, and MSIs sent to the host (address, data), the youngest first. What leaves the
  package; the model's own. -/
  hostOut : List Byte := []
  hostMsi : List (Nat × W32) := []
  sec : Sec := {}
  sol : Sol := {}
  lenmus : Lenmus := {}
  /-- Checkpoint engines by partition (24 R463). -/
  cks : List (Nat × Ck) := []
  /-- Ticks since the arbiter's last pass (25 R478). -/
  arbiter : Nat := 0
  issue : Option Issue := none
  /-- Log 1 (DESIGN CHOICE). -/
  agenda : List Turn := []
  /-- Choices that the specification leaves to the machine, and how many were drawn (`Config.freeChoice` after them). -/
  choices : List Nat := []
  drawn : Nat := 0
  /-- Number of free values drawn (`Config.freeValue`). -/
  drawnValues : Nat := 0
  deriving DecidableEq, Repr

/-- The package right after reset. -/
def State.reset : State := {}

end Sys2Proof.Machine
end

