-- ==== Sys2Proof/Machine/Lanes.lean ====
section
/-! DEFINITION. Access to cohorts, lanes, cores and dies; the renamed registers of a lane with their live bits, pending writes and
lookahead windows (04 R80, R81; 08 R174); register growth (04 R83 to R85). -/

namespace Sys2Proof.Machine

/-- The cohort slot of a lane slot. -/
def State.cohort? (s : State) (k : CohKey) : Option Cohort := lookup s.cohorts k
def State.setCohort (s : State) (k : CohKey) (c : Cohort) : State := { s with cohorts := insertKey s.cohorts k c }
def State.dropCohort (s : State) (k : CohKey) : State := { s with cohorts := removeKey s.cohorts k }
def State.modCohort (s : State) (k : CohKey) (f : Cohort → Cohort) : State :=
  match s.cohort? k with
  | some c => s.setCohort k (f c)
  | none => s

def Cohort.lane? (c : Cohort) (n : Nat) : Option Lane := numGet c.lanes n
def Cohort.setLane (c : Cohort) (n : Nat) (l : Lane) : Cohort := { c with lanes := numSet c.lanes n l }
def Cohort.dropLane (c : Cohort) (n : Nat) : Cohort := { c with lanes := numErase c.lanes n }

def State.lane? (s : State) (k : LaneKey) : Option Lane := (s.cohort? k.coh).bind fun c => c.lane? k.lane
def State.setLane (s : State) (k : LaneKey) (l : Lane) : State := s.modCohort k.coh fun c => c.setLane k.lane l
def State.dropLane (s : State) (k : LaneKey) : State := s.modCohort k.coh fun c => c.dropLane k.lane
def State.modLane (s : State) (k : LaneKey) (f : Lane → Lane) : State :=
  match s.lane? k with
  | some l => s.setLane k (f l)
  | none => s

def State.core (s : State) (d c : Nat) : Core := (lookup s.cores (d, c)).getD {}
def State.modCore (s : State) (d c : Nat) (f : Core → Core) : State :=
  { s with cores := insertKey s.cores (d, c) (f (s.core d c)) }
def State.die (s : State) (d : Nat) : Die := (lookup s.dies d).getD {}
def State.modDie (s : State) (d : Nat) (f : Die → Die) : State := { s with dies := insertKey s.dies d (f (s.die d)) }

/-- Ticks of a relock (01 R18). -/
def relockTicks : Nat := 1500

/-- The core clock of a die is stopped by a relock; one that begins with the next tick does not stop it yet (25 R478). -/
def Die.relocking (x : Die) : Bool := match x.relock with
  | some r => r.left ≤ relockTicks
  | none => false

/-- A die is powered and not stopped (23 R450). -/
def State.clocked (s : State) (d : Nat) : Bool := s.sec.powered && !(s.die d).stopped

/-- The core clock of a die runs: what stands on it may act (01 R18, 15 R341). -/
def State.awake (s : State) (d : Nat) : Bool := s.clocked d && !(s.die d).relocking

/-- A choice below n that the specification leaves to the machine: the next listed one, or a free one. Log 2 (DESIGN CHOICE). -/
def State.choose (s : State) (n : Nat) : Nat × State :=
  if n ≤ 1 then (0, s) else
  match s.choices with
  | c :: cs => (c % n, { s with choices := cs, drawn := s.drawn + 1 })
  | [] => (Config.freeChoice s.drawn % n, { s with drawn := s.drawn + 1 })

/-- A value that the specification does not state. Log 2 (DESIGN CHOICE). -/
def State.drawValue (s : State) : W64 × State :=
  (Config.freeValue s.drawnValues, { s with drawnValues := s.drawnValues + 1 })

/-- A fresh number for an access, operation or hold. -/
def State.fresh (s : State) : Nat × State := (s.nextId, { s with nextId := s.nextId + 1 })

/-- Observer number of a core (07 R135). -/
def observerOf (k : CohKey) : Nat := Config.cores * k.die + k.core

/-! Registers of a lane. -/

def Pend.covers (p : Pend) (n : Nat) : Bool := p.first ≤ n && n < p.first + p.count && !p.dead.contains n

def Lane.pending (l : Lane) (n : Nat) : Bool := l.pend.any fun p => p.covers n

def Lane.shadow? (l : Lane) (n : Nat) : Option Shadow := l.shadows.find? fun x => x.reg = n

/-- A source that names register n has to wait: a pending result, outside its window (08 R174). Log 5 (DESIGN CHOICE). -/
def Lane.waitsFor (l : Lane) (n : Nat) : Bool := l.pending n && (l.shadow? n).isNone

/-- The value a source reads (04 R80 rule 2, 08 R174). -/
def Lane.reg (l : Lane) (n : Nat) : W32 :=
  match l.shadow? n with
  | some x => x.old
  | none => (numGet l.v n).getD 0

def Lane.regPair (l : Lane) (n : Nat) : W64 := l.reg (n + 1) ++ l.reg n

/-- Whether the lane's live bit of `v`n is set (04 R80). -/
def Lane.live (l : Lane) (n : Nat) : Bool := (numGet l.v n).isSome

def Pend.kill (n : Nat) (p : Pend) : Pend := if p.covers n then { p with dead := n :: p.dead } else p

/-- Write a register: the live bit is set, and a pending result for it is superseded (04 R80, 08 R174). Log 12 (DEDUCED). -/
def Lane.setReg (l : Lane) (n : Nat) (x : W32) : Lane :=
  { l with v := numSet l.v n x, pend := l.pend.map (Pend.kill n), shadows := l.shadows.filter fun y => y.reg ≠ n }

def Lane.setPair (l : Lane) (n : Nat) (x : W64) : Lane :=
  (l.setReg n (x.setWidth 32)).setReg (n + 1) ((x >>> 32).setWidth 32)

/-- Write consecutive registers. -/
def Lane.setRegs (l : Lane) (n : Nat) : List W32 → Lane
  | [] => l
  | x :: xs => (l.setReg n x).setRegs (n + 1) xs

/-- REL of one register: the live bit clears, a pending write is discarded (09 R206). -/
def Lane.release (l : Lane) (n : Nat) : Lane :=
  { l with v := numErase l.v n, pend := l.pend.map (Pend.kill n), shadows := l.shadows.filter fun y => y.reg ≠ n }

/-- A last read of one register (04 R81). Inside a window it ends the old value only. -/
def Lane.lastRead (l : Lane) (n : Nat) : Lane :=
  match l.shadow? n with
  | some _ =>
    { l with
      v := if l.pending n then numErase l.v n else l.v
      shadows := l.shadows.map fun y => if y.reg = n then { y with old := 0 } else y }
  | none => { l with v := numErase l.v n }

/-- Consecutive registers written by a result that lands; windows stay as they are. -/
def landRegs (dead : List Nat) (v : List (Nat × W32)) (n : Nat) : List W32 → List (Nat × W32)
  | [] => v
  | x :: xs => landRegs dead (if dead.contains n then v else numSet v n x) (n + 1) xs

/-- A long-latency result lands (04 R80). -/
def Lane.land (l : Lane) (id : Nat) (xs : List W32) : Lane :=
  match l.pend.find? fun p => p.id = id with
  | some p => { l with v := landRegs p.dead l.v p.first (xs.take p.count), pend := l.pend.filter fun q => q.id ≠ id }
  | none => l

/-- A pending write ends with its destination unwritten (03 R59). -/
def Lane.unpend (l : Lane) (id : Nat) : Lane := { l with pend := l.pend.filter fun q => q.id ≠ id }

/-- One instruction of the lane has issued: open windows shorten (08 R174). -/
def Lane.tickWindows (l : Lane) : Lane :=
  { l with shadows := (l.shadows.map fun y => { y with left := y.left - 1 }).filter fun y => y.left ≠ 0 }

/-- A long-latency instruction issues: its destination is pending, and with la > 0 a window opens (08 R174), which the end of the
issue shortens to la. Log 12 (DEDUCED). -/
def Lane.addPend (l : Lane) (id first count la : Nat) : Lane :=
  let regs := (List.range count).map (first + ·)
  let olds := regs.map fun n => (⟨n, l.reg n, la + 1⟩ : Shadow)
  let l' := { l with
    pend := (l.pend.map fun p => regs.foldl (fun q n => Pend.kill n q) p) ++ [⟨id, first, count, []⟩]
    shadows := l.shadows.filter fun y => !regs.contains y.reg }
  if la = 0 then l' else { l' with shadows := l'.shadows ++ olds }

/-- A pending result and its window are given up: the instruction will execute again. -/
def Lane.unissue (l : Lane) (id : Nat) : Lane :=
  match l.pend.find? fun p => p.id = id with
  | none => l
  | some p =>
    { l with pend := l.pend.filter fun q => q.id ≠ id
             shadows := l.shadows.filter fun y => !(p.first ≤ y.reg && y.reg < p.first + p.count) }

/-- Predicate registers. -/
def Lane.pred (l : Lane) (n : Nat) : Bool := l.p.getLsbD n
def Lane.setPred (l : Lane) (n : Nat) (b : Bool) : Lane :=
  { l with p := if b then l.p ||| (1#8 <<< n) else l.p &&& ~~~(1#8 <<< n) }

/-- `k` registers. -/
def Lane.kreg (l : Lane) (n : Nat) : W64 := l.k.getD n 0
def Lane.setK (l : Lane) (n : Nat) (x : W64) : Lane := { l with k := l.k.set n x }

/-- Every register of the lane released: no live bit, no window (capture, EXIT, RESUME). A pending write stays, which only REL drops
(04 R80). -/
def Lane.releaseAll (l : Lane) : Lane := { l with v := [], shadows := [], keeps := [] }

/-! Growth (04 R83 to R85). -/

/-- (cohort, `v`n) has a physical register: some lane's live bit is set, or a lane's write is pending, or is that of a held instruction. -/
def Cohort.mapped (c : Cohort) (n : Nat) : Bool := c.lanes.any fun x => x.2.live n || x.2.pending n || x.2.keeps.contains n

/-- Physical registers held. -/
def Cohort.held (c : Cohort) : Nat := ((List.range 128).filter c.mapped).length

def State.coreCohorts (s : State) (d c : Nat) : List (CohKey × Cohort) :=
  s.cohorts.filter fun x => x.1.die = d && x.1.core = c

/-- F, U and P of 04 R84. -/
def State.freeRegs (s : State) (d c : Nat) : Nat :=
  Config.physRegs - ((s.coreCohorts d c).map fun x => x.2.held).sum
def State.unfilled (s : State) (d c : Nat) : Nat := ((s.coreCohorts d c).map fun x => x.2.minR - x.2.held).sum
def State.maxPeak (s : State) (d c : Nat) : Nat := (s.coreCohorts d c).foldl (fun m x => max m x.2.peak) 0

/-- Whether n further registers may be allocated to the cohort, decided one after another: `extra` were granted so far. -/
def State.mayGrow (s : State) (k : CohKey) (extra : Nat) : Nat → Bool
  | 0 => true
  | n + 1 =>
    match s.cohort? k with
    | none => false
    | some co =>
      let a := co.held + extra
      let f := s.freeRegs k.die k.core - extra
      let u := s.unfilled k.die k.core - min extra (co.minR - co.held)
      let need := match (s.core k.die k.core).reserve with
        | .granted g _ =>
          match s.cohort? ⟨k.die, k.core, g⟩ with
          | some h => h.peak - h.held
          | none => s.maxPeak k.die k.core
        | _ => s.maxPeak k.die k.core
      let granted := match (s.core k.die k.core).reserve with
        | .granted g _ => g = k.slot
        | _ => false
      (a < co.minR || granted || u + need < f) && s.mayGrow k (extra + 1) n

/-- Registers of a list that the cohort has no physical register for, without repeats. -/
def Cohort.missing (c : Cohort) : List Nat → List Nat
  | [] => []
  | n :: ns => if c.mapped n || ns.contains n then c.missing ns else n :: c.missing ns

/-- Whether the growth that writing these registers needs is granted. -/
def State.growOk (s : State) (k : CohKey) (regs : List Nat) : Bool :=
  match s.cohort? k with
  | none => false
  | some co => s.mayGrow k 0 (co.missing regs).length

/-- Growth is served: the holder of a grant has more than its minimum. -/
def State.noteGrown (s : State) (k : CohKey) (regs : List Nat) : State :=
  match s.cohort? k, (s.core k.die k.core).reserve with
  | some co, .granted g _ =>
    if g = k.slot && decide (co.minR < co.held + (co.missing regs).length) then
      s.modCore k.die k.core fun x => { x with reserve := .granted g true }
    else s
  | _, _ => s

def Cohort.parkedOnGrowth (c : Cohort) : Bool :=
  c.lanes.any fun x => match x.2.status with | .parked 7 _ => true | _ => false

/-- After a refusal, a free reserve goes to the oldest cohort with a fibre parked on growth (04 R84). Log 29 (DEDUCED). -/
def State.grantReserve (s : State) (d c : Nat) : State :=
  match (s.core d c).reserve with
  | .free =>
    let cs := (s.coreCohorts d c).filter fun x => x.2.parkedOnGrowth
    match cs.foldl (fun (best : Option (CohKey × Cohort)) x =>
        match best with
        | none => some x
        | some b => if x.2.order < b.2.order then some x else some b) none with
    | some b => s.modCore d c fun x => { x with reserve := .granted b.1.slot false }
    | none => s
  | _ => s

/-- A fibre of the cohort is parked on growth that is still refused. -/
def State.growthRefused (s : State) (k : CohKey) (c : Cohort) : Bool :=
  c.lanes.any fun x => match x.2.status with
    | .parked 7 _ => !s.growOk k x.2.want
    | _ => false

/-- The reserve of a core after its registers changed (04 R84): a grant ends when its holder, once above its minimum, is back at it, or is
below it; the reserve is free again once F ≥ U + P, and goes on to a cohort that waits for it. Log 29 (DEDUCED). -/
def State.settleReserve (s : State) (d c : Nat) : State :=
  let refill (t : State) : State :=
    if t.unfilled d c + t.maxPeak d c ≤ t.freeRegs d c then
      let t1 := t.modCore d c fun x => { x with reserve := .free }
      if (t1.coreCohorts d c).any fun x => t1.growthRefused x.1 x.2 then t1.grantReserve d c else t1
    else t.modCore d c fun x => { x with reserve := .draining }
  match (s.core d c).reserve with
  | .free => s
  | .draining => refill s
  | .granted g above =>
    match s.cohort? ⟨d, c, g⟩ with
    | none => refill s
    | some co =>
      if decide (co.held < co.minR) || (above && decide (co.held ≤ co.minR)) then refill s
      else if above || decide (co.held ≤ co.minR) then s
      else s.modCore d c fun x => { x with reserve := .granted g true }

end Sys2Proof.Machine
end

