-- ==== Sys2Proof/Machine/Frontier.lean ====
section
/-! DEFINITION. The frontier of a cohort (02 R31 to R36, R42, R46): its order, insertion, removal and selection. -/

namespace Sys2Proof.Machine

/-- Order of 02 R32: higher priority first, then lower PC. -/
def Entry.before (a b : Entry) : Bool := b.prio < a.prio || (a.prio = b.prio && a.pc < b.pc)

def Entry.samePair (e : Entry) (prio : BitVec 8) (pc : Nat) : Bool := e.prio = prio && e.pc = pc

/-- Insert lanes at a pair (02 R33): an entry of that pair takes them and keeps its age, or a new entry of the given age is made. -/
def insertEntry (fr : List Entry) (prio : BitVec 8) (pc : Nat) (mask : W64) (age : Nat) : List Entry :=
  match fr with
  | [] => [⟨prio, pc, mask, age⟩]
  | e :: es =>
    if e.samePair prio pc then { e with mask := e.mask ||| mask } :: es
    else if (Entry.mk prio pc mask age).before e then ⟨prio, pc, mask, age⟩ :: e :: es
    else e :: insertEntry es prio pc mask age

/-- Insert lanes with age 0; an empty mask inserts nothing. -/
def insertLanes (fr : List Entry) (prio : BitVec 8) (pc : Nat) (mask : W64) : List Entry :=
  if mask = 0 then fr else insertEntry fr prio pc mask 0

/-- Remove lanes from every entry; an entry without lanes is gone. -/
def removeLanes (fr : List Entry) (mask : W64) : List Entry :=
  (fr.map fun e => { e with mask := e.mask &&& ~~~mask }).filter fun e => e.mask ≠ 0

/-- The entry of a lane. -/
def entryOf (fr : List Entry) (lane : Nat) : Option Entry := fr.find? fun e => e.mask.getLsbD lane

def Cohort.insert (c : Cohort) (prio : BitVec 8) (pc : Nat) (mask : W64) : Cohort :=
  { c with frontier := insertLanes c.frontier prio pc mask }

/-- A lane enters the frontier at a pair; a cohort that becomes ready so joins the end of the ready order (02 R43). -/
def State.insertReady (s : State) (k : LaneKey) (prio : BitVec 8) (pc : Nat) : State :=
  { s with readied := s.readied + 1 }.modCohort k.coh fun c =>
    { c.insert prio pc (1#64 <<< k.lane) with readyAt := if c.frontier.isEmpty && !c.active then s.readied else c.readyAt }

/-- A lane becomes ready at a pair. -/
def State.readyLane (s : State) (k : LaneKey) (prio : BitVec 8) (pc : Nat) : State :=
  (s.modLane k fun l => { l with status := .ready, prio := prio, pc := pc, parkedCycles := 0, want := [], arrival := none }).insertReady
    k prio pc

/-- A lane leaves the frontier. -/
def State.unreadyLane (s : State) (k : LaneKey) : State :=
  s.modCohort k.coh fun c => { c with frontier := removeLanes c.frontier (1#64 <<< k.lane) }

def agedAt : Nat := 1024

/-- The aged entry of greatest age, the first in order among equals (02 R36). -/
def oldestAged (fr : List Entry) : Option Entry :=
  fr.foldl (fun best e =>
    if e.age < agedAt then best
    else match best with
      | none => some e
      | some b => if b.age < e.age then some e else some b) none

/-- Whether a lane of the entry has still to receive its PREEMPT (02 R42). -/
def Cohort.entryOwesPreempt (c : Cohort) (e : Entry) : Bool :=
  c.lanes.any fun x => e.mask.getLsbD x.1 && x.2.preemptDue

/-- The entry the cohort would issue (02 R34, R36, R42). -/
def Cohort.select (c : Cohort) : Option Entry :=
  if c.preempting then
    match c.frontier.find? c.entryOwesPreempt with
    | some e => some e
    | none => c.frontier.head?
  else
    match oldestAged c.frontier with
    | some e => some e
    | none => c.frontier.head?

/-- Core cycles pass: the ages of entries other than the one that issues or stalls at the head count (02 R36). -/
def Cohort.ageBy (c : Cohort) (cycles : Nat) : Cohort :=
  { c with frontier := c.frontier.map fun e => if c.select = some e then e else { e with age := e.age + cycles } }

/-- A frontier entry image (02 R46). -/
def Entry.image (e : Entry) : List Byte :=
  toBytes ((if agedAt ≤ e.age then 1 else 0) + 2 * (e.pc / 4 % 2 ^ 55) + 2 ^ 56 * e.prio.toNat) 8 ++ toBytes e.mask.toNat 8

end Sys2Proof.Machine
end

