-- ==== Sys2Proof/Machine/Registers.lean ====
section
/-! DEFINITION. The device control registers (17 R360 to R362): offsets, reset values, plain reads and writes of a stored
register, and the Almanac's rings of records (22 R426 to R429). What a DCRW may change is in `Dcr`. -/

namespace Sys2Proof.Machine

/-- Offsets of registers that other parts of the machine read (17 R361, R362; 19; 25). -/
def offFHBASE : Nat := 0x100000
def offFHSIZE : Nat := 0x100008
def offFHRSV : Nat := 0x100010
def offATP : Nat := 0x100018
def offSFHBASE : Nat := 0x100020
def offSFHSIZE : Nat := 0x100028
def offFRQSTAT : Nat := 0x100030
def offPART : Nat := 0x100038
def offROTBASE : Nat := 0x100040
def offHOT : Nat := 0x100070
def offIDENT : Nat := 0x600000
def offMEMTOP : Nat := 0x600010
def offALMCTL : Nat := 0x200000
def offPRST : Nat := 0x80

/-- Reset values other than 0 of stored registers (17 R362, 19 R406, 22 R433, 23 R461, 25 R477). Log 7 (DESIGN CHOICE). -/
def dcrReset (off : Nat) : W64 :=
  if off = offIDENT then 0x0F162100
  else if off = offHOT then 0x64
  else if off = offALMCTL then 0x120
  else if off = 0x300440 then 0x1000
  else if off = 0x500000 then 0x36B0
  else if off = 0x500008 then 0x80
  else 0

/-- The stored value of a register of a die. Log 7 (DESIGN CHOICE). -/
def State.dcr (s : State) (d off : Nat) : W64 := (lookup (s.die d).dcr off).getD (dcrReset off)

def State.setDcr (s : State) (d off : Nat) (x : W64) : State :=
  s.modDie d fun y => { y with dcr := insertKey y.dcr off x }

/-- Bits [hi:lo] of a stored register. -/
def State.dcrBits (s : State) (d off hi lo : Nat) : Nat := bits (s.dcr d off).toNat hi lo

/-- Partition of a die; 0 none (19 R407). -/
def State.pid (s : State) (d : Nat) : Nat := s.dcrBits d offPART 11 0

/-- SEC_MEMTOP of a die (25 R471). -/
def State.memTop (s : State) (d : Nat) : Nat := (s.dcr d offMEMTOP).toNat

/-- STATE of the checkpoint engine of a partition (24 R463). Log 114 (DEDUCED). -/
def State.ckState (s : State) (pid : Nat) : Nat := match lookup s.cks pid with
  | some c => c.state
  | none => 0

/-- Registers of the host block (21 R422). -/
def offSTRCTL : Nat := 0x700040
def offFRZREJ : Nat := 0x700048
def offFRZADDR : Nat := 0x700050
def offERRMSI : Nat := 0x700058
def offERRADDR : Nat := 0x700060
def offPKGID : Nat := 0x7000F0

/-! The Almanac. -/

def coreAlmSize : Nat := 8192
def schedAlmSize : Nat := 65536

def almHeader (type slot lane tick : Nat) (a : Nat) (b : W64) : BitVec 128 :=
  BitVec.ofNat 128 (type % 256 + 2 ^ 8 * (slot % 16) + 2 ^ 12 * (lane % 64) + 2 ^ 18 * (tick % 2 ^ 24) + 2 ^ 42 * (a % 2 ^ 22)
    + 2 ^ 64 * b.toNat)

def almExt (p : Nat) : BitVec 128 := BitVec.ofNat 128 (2 + 2 ^ 8 * p)

/-- Write one record, overwriting the oldest when the ring is full. -/
def AlmRing.push (r : AlmRing) (size : Nat) (x : AlmRec) : AlmRing :=
  { r with recs := (x :: r.recs).take size, next := r.next + 1 }

/-- The SYNC that stands at index `next`. Log 149 (DEDUCED). -/
def AlmRing.pushSync (r : AlmRing) (size tick owner : Nat) : AlmRing :=
  { r.push size ⟨owner, 1, almHeader 0x01 0 0 tick (r.next % 2 ^ 22) (BitVec.ofNat 64 tick)⟩ with sync := some tick }

/-- A SYNC stands before a record 2^23 ticks or more after the last one, and at every multiple of 256 (22 R429). An EXT that
falls on the multiple stands there, since it follows its record directly (22 R427), and the SYNC follows it. Log 30 (DEDUCED). -/
def AlmRing.syncIfDue (r : AlmRing) (size tick owner : Nat) : AlmRing :=
  let late := match r.sync with
    | none => true
    | some t => t + 2 ^ 23 ≤ tick
  let ext := match r.recs with
    | x :: _ => x.word.toNat % 256 = 2
    | [] => false
  let r1 := if (r.next % 256 = 1 && ext) || late then r.pushSync size tick owner else r
  if r1.next % 256 = 0 then r1.pushSync size tick owner else r1

/-- Stamp a record with the tick at which it is written (22 R426, R427). -/
def almStamp (tick : Nat) (x : BitVec 128) : BitVec 128 :=
  BitVec.ofNat 128 (x.toNat % 2 ^ 18 + 2 ^ 18 * (tick % 2 ^ 24) + 2 ^ 42 * (x.toNat / 2 ^ 42))

/-- Write one record with the SYNC that is due before it. -/
def AlmRing.put (r : AlmRing) (size tick owner : Nat) (x : BitVec 128) : AlmRing :=
  (r.syncIfDue size tick owner).push size ⟨owner, x.toNat % 256, almStamp tick x⟩

/-- Write a record that has waited, or has not: the LOST before it, the record, its EXT (22 R427, R428). -/
def AlmRing.putStaged (r : AlmRing) (size tick : Nat) (x : AlmStaged) : AlmRing :=
  let r1 := match x.lost with
    | none => r
    | some (n, t) => r.put size tick x.owner (almHeader 0x03 0 0 tick n (BitVec.ofNat 64 t))
  let r2 := r1.put size tick x.owner x.word
  match x.ext with
  | none => r2
  | some p => r2.push size ⟨x.owner, x.word.toNat % 256, almExt p⟩

/-- The ring at a cycle of its recorder, which accepts `rate` records in each: those that waited go first (22 R428). Log 35 (DESIGN CHOICE). -/
def AlmRing.catchUp (r : AlmRing) (size rate cyc tick : Nat) : AlmRing :=
  let room := rate * (cyc - r.cyc) + (if cyc = r.cyc then rate - r.used else 0)
  let now := r.staged.take room
  let left := if cyc = r.cyc then r.used else 0
  { foldState (fun (t : AlmRing) x => t.putStaged size tick x) now r with
    staged := r.staged.drop room, cyc := cyc, used := max left (now.length - (room - rate)) }

/-- A record arises at a cycle: it is written, or staged, or discarded and counted, which the flag says; a frozen ring drops it (22 R428,
R435, R437). Log 30 (DEDUCED). Log 35 (DESIGN CHOICE). -/
def AlmRing.write (r : AlmRing) (size rate cyc tick owner : Nat) (x : BitVec 128) (ext : Option Nat) : AlmRing × Bool :=
  if r.frozen.isSome then (r, false)
  else
    let r1 := r.catchUp size rate cyc tick
    let rec_ : AlmStaged := ⟨owner, x, ext, if r1.lost = 0 then none else some (r1.lost, r1.lostAt)⟩
    let r2 := { r1 with lost := 0 }
    if r1.staged.isEmpty && decide (r1.used < rate) then ({ r2.putStaged size tick rec_ with used := r1.used + 1 }, false)
    else if r1.staged.length < 64 then ({ r2 with staged := r1.staged ++ [rec_] }, false)
    else ({ r1 with lost := min (2 ^ 22 - 1) (r1.lost + 1), lostAt := if r1.lost = 0 then tick else r1.lostAt }, true)

def coreAlmRate : Nat := 2
def schedAlmRate : Nat := 1
def offALMLOST : Nat := 0x200020

/-- The cycle of a core's recorder: cycles that passed with the ticks, and those that its issues took. Log 35 (DESIGN CHOICE). -/
def State.almCycle (s : State) (d c : Nat) : Nat := (s.die d).cyc.toNat + 2 * (s.core d c).issues

/-- ALM_LOST counts a discarded record (22 R433). -/
def State.countLost (s : State) (d : Nat) (lost : Bool) : State :=
  if lost then s.setDcr d offALMLOST (BitVec.ofNat 64 (min (2 ^ 32 - 1) ((s.dcr d offALMLOST).toNat + 1))) else s

/-- A record arises for the Almanac of a core (22 R430). -/
def State.almPut (s : State) (d c owner : Nat) (x : BitVec 128) (ext : Option Nat) : State :=
  let r := (s.core d c).alm.write coreAlmSize coreAlmRate (s.almCycle d c) s.tick owner x ext
  (s.modCore d c fun y => { y with alm := r.1 }).countLost d r.2

/-- A record arises for the scheduler Almanac of a die (22 R431). -/
def State.almPutSched (s : State) (d owner : Nat) (x : BitVec 128) (ext : Option Nat) : State :=
  let r := (s.die d).schedAlm.write schedAlmSize schedAlmRate (s.die d).cyc.toNat s.tick owner x ext
  (s.modDie d fun y => { y with schedAlm := r.1 }).countLost d r.2

/-- Staged records of every Almanac whose clock has run are written (22 R428). -/
def State.almCatchUp (s : State) : State :=
  let due (r : AlmRing) : Bool := r.frozen.isNone && !r.staged.isEmpty
  { s with
    cores := s.cores.map fun x => if due x.2.alm then
        (x.1, { x.2 with alm := x.2.alm.catchUp coreAlmSize coreAlmRate (s.almCycle x.1.1 x.1.2) s.tick }) else x
    dies := s.dies.map fun x => if due x.2.schedAlm then
        (x.1, { x.2 with schedAlm := x.2.schedAlm.catchUp schedAlmSize schedAlmRate x.2.cyc.toNat s.tick }) else x }

/-- The partition that owns a record written for a slot of a core (22 R440): none for a supervisor slot. -/
def State.recordOwner (s : State) (d c slot : Nat) : Nat := if slot = 15 && (c = 0 || c = 24) then 0 else s.pid d

/-- The tick has come at which the Almanacs of a die freeze for a cut (22 R435). -/
def State.freezeDue (s : State) (d : Nat) : Bool :=
  s.cuts.any fun c => c.started && c.dies.contains d && !c.frozen.contains d && decide (c.t0 + 256 ≤ s.tick)

/-- A record in a core's Almanac (22 R430). -/
def State.alm (s : State) (d c type slot lane a : Nat) (b : W64) (ext : Option Nat := none) : State :=
  if s.freezeDue d then s else s.almPut d c (s.recordOwner d c slot) (almHeader type slot lane s.tick a b) ext

/-- A record in a die's scheduler Almanac (22 R431). -/
def State.almSched (s : State) (d type a : Nat) (b : W64) : State :=
  if s.freezeDue d then s else s.almPutSched d (s.pid d) (almHeader type 0 0 s.tick a b) none

/-- A record about a lane, in its core's Almanac. -/
def State.almLane (s : State) (k : LaneKey) (type a : Nat) (b : W64) (ext : Option Nat := none) : State :=
  s.alm k.coh.die k.coh.core type k.coh.slot k.lane a b ext

end Sys2Proof.Machine
end

