-- ==== Sys2Proof/Machine/Translate.lean ====
section
/-! DEFINITION. Views of memory and home writes (07 R135), uncorrectable units (06 R482), Sv57 translation with its TLB and
freeze marks (19 R388 to R392), and scratch addresses (06 R116, R117). -/

namespace Sys2Proof.Machine

/-! Locations. A device or host physical address of 56 bits is its own location; byte `off` of scratch page `id` lies above. -/

def scratchBase : Nat := 2 ^ 60
def pageBytes : Nat := 16384
def scratchLoc (id off : Nat) : Nat := scratchBase + pageBytes * id + off
def isHostPa (a : Nat) : Bool := a < scratchBase && a.testBit 55
def isDevicePa (a : Nat) : Bool := a < 2 ^ 55

/-- Home die of a device physical address (06 R119). -/
def homeDie (pa : Nat) : Nat := bits pa 24 21

/-- What a core's or the host's view holds at a location (07 R135); scratch has one observer, its home (07 R139). Log 8 (DEDUCED). -/
def State.coreView (s : State) (o a : Nat) : Byte :=
  if scratchBase ≤ a then Memory.read s.mem a else (lookup s.views (o, a)).getD (Memory.read s.mem a)

/-- From this number up, the plane engines of each core observe: they may lack a copy's bytes that their core has (16 R347). Log 147 (DEDUCED). -/
def engineBase : Nat := 1024

/-- What an observer's view holds at a location: a core's, the host's, or that of a core's plane engines. -/
def State.view (s : State) (o a : Nat) : Byte :=
  if engineBase ≤ o then (lookup s.views (o, a)).getD (s.coreView (o - engineBase) a) else s.coreView o a

def State.viewN (s : State) (o a : Nat) : Nat → List Byte
  | 0 => []
  | n + 1 => s.view o a :: s.viewN o (a + 1) n

/-- Bytes at their homes. -/
def State.home (s : State) (a n : Nat) : List Byte := Memory.readN s.mem a n
def State.homeNat (s : State) (a n : Nat) : Nat := ofBytes (s.home a n)

/-- Whether an access reads an uncorrectable unit (06 R482). -/
def State.badAt (s : State) (a n : Nat) : Bool := s.bad.any fun u => decide (u * 32 < a + n) && decide (a < u * 32 + 32)

/-- A unit of memory becomes uncorrectable (06 R482; 25 R483). Log 160 (DESIGN CHOICE). -/
def State.spoil (s : State) (unit : Nat) : State := { s with bad := if s.bad.contains unit then s.bad else unit :: s.bad }

/-- A write makes a unit good when it covers all of it (06 R482). -/
def State.goodUnits (s : State) (a n : Nat) : State :=
  { s with bad := s.bad.filter fun u => !(a ≤ u * 32 && u * 32 + 32 ≤ a + n) }

/-- The data of a write that has been applied at its home, where later bytes have replaced some of it: observers that still lack the
write take the later bytes. -/
def Write.replaced (w : Write) (a : Nat) (data : List Byte) : Write :=
  if w.home && decide (w.pa < a + data.length) && decide (a < w.pa + w.data.length) then
    let byte (i : Nat) : Byte := if a ≤ w.pa + i then data.getD (w.pa + i - a) (w.data.getD i 0) else w.data.getD i 0
    { w with data := (List.range w.data.length).map byte }
  else w

/-- Write at the home and at every observer at once. Log 31 (DESIGN CHOICE). -/
def State.storeAll (s : State) (a : Nat) (data : List Byte) : State :=
  { s.goodUnits a data.length with
    mem := Memory.writeN s.mem a data
    writes := s.writes.map fun w => w.replaced a data
    views := s.views.filter fun v => !(a ≤ v.1.2 && v.1.2 < a + data.length) }

/-- ECC record of an access of a core (22 R430): uncorrectable data that it read, or a write to a part of an uncorrectable unit (06
R482). Log 144 (DESIGN CHOICE). -/
def State.eccEvent (s : State) (k : LaneKey) (pa : Nat) (uncorrectable : Bool) : State :=
  s.almLane k 0x51 ((if uncorrectable then 1 else 0) + 2 * (Config.eccStructure pa % 16)) (BitVec.ofNat 64 pa)

def State.eccRecord (s : State) (k : LaneKey) (pa : Nat) : State := s.eccEvent k pa true

/-- `storeAll` for a lane's access, an engine or the host: a write that covers a part of an uncorrectable unit is recorded (06 R482). -/
def State.storeAs (s : State) (k : LaneKey) (a : Nat) (data : List Byte) : State :=
  let s1 := s.storeAll a data
  if s1.badAt a data.length then s1.eccEvent k a false else s1

/-! Freeze accounting and region owners in memory (19 R408, R409). -/

def offFRZMAPBASE : Nat := 0x400000
def granuleBytes : Nat := 65536

/-- Where the freeze count of a granule is: a byte per granule, 32 per region of 2 MiB of its home die. -/
def State.frzByte (s : State) (pa : Nat) : Nat :=
  2 ^ 20 * s.dcrBits (homeDie pa) offFRZMAPBASE 56 20 + 32 * bits pa 56 25 + pa / granuleBytes % 32

/-- Freeze count of a granule, at its home (11 R271). Log 140 (DESIGN CHOICE). -/
def State.frzCount (s : State) (pa : Nat) : Nat :=
  if isDevicePa pa then (Memory.read s.mem (s.frzByte pa)).toNat else 0

def State.setFrzCount (s : State) (pa n : Nat) : State := s.storeAll (s.frzByte pa) (toBytes n 1)

/-- An engine of the die writes bytes of one granule, which keeps its image when it is frozen (06 R133). Log 142 (DEDUCED). -/
def State.engineStore (s : State) (k : LaneKey) (a : Nat) (data : List Byte) : State :=
  if s.frzCount a ≠ 0 then s else s.storeAs k a data

/-- Whether the granule is being collected after a thaw (07 R160). -/
def State.collecting (s : State) (pa : Nat) : Bool :=
  isDevicePa pa && (s.die (homeDie pa)).frzTable.any fun e => e.region = pa / 2097152 && e.collecting.getLsbD (pa / granuleBytes % 32)

/-- A granule that keeps its image: frozen, or being collected. -/
def State.keepsImage (s : State) (pa : Nat) : Bool := s.collecting pa || s.frzCount pa ≠ 0

/-- Where the owner entry of a region is: 16 bits per region of its home die. -/
def State.ownerWord (s : State) (pa : Nat) : Nat := 2 ^ 15 * s.dcrBits (homeDie pa) offROTBASE 56 15 + 2 * bits pa 56 25

/-- Owner of the region of a device address; 0 none, also outside the populated map (19 R408). Log 102 (DEDUCED). Log 140 (DESIGN CHOICE). -/
def State.regionOwner (s : State) (pa : Nat) : Nat :=
  if isDevicePa pa && decide (pa < s.memTop (homeDie pa)) then s.homeNat (s.ownerWord pa) 2 else 0

/-- Memory of the device itself (19 R408). -/
def deviceOwner : Nat := 0xFFF

/-! Translation. -/

/-- Kinds of access, as the ACC field of a fault record codes them (19 R394). -/
inductive Acc where
  | fetch | load | store | atomic | reduction | copyRead | copyWrite | stashFill | writeBack
  deriving DecidableEq, Repr

def Acc.code : Acc → Nat
  | .fetch => 0 | .load => 1 | .store => 2 | .atomic => 3 | .reduction => 4 | .copyRead => 5 | .copyWrite => 6
  | .stashFill => 7 | .writeBack => 8

def Acc.needsR : Acc → Bool
  | .load | .copyRead | .stashFill | .atomic | .reduction => true
  | _ => false
def Acc.needsW : Acc → Bool
  | .store | .copyWrite | .writeBack | .atomic | .reduction => true
  | _ => false
def Acc.needsX (a : Acc) : Bool := a = .fetch

/-- A 57-bit address as a global address, whose bits [63:57] equal bit 56 (06 R116). -/
def va57 (a : Nat) : W64 := (BitVec.ofNat 57 a).signExtend 64

/-- Bits [63:57] equal bit 56 (06 R116). -/
def canonical (va : W64) : Bool := (va.toNat >>> 56) = 0 || (va.toNat >>> 56) = 255

structure Xlt where
  pa : Nat
  level : Nat
  pte : W64
  /-- Granules of the page are marked frozen in the TLB: the granule of this address is. -/
  marked : Bool := false
  deriving DecidableEq, Repr

structure XFault where
  cause : Nat
  level : Nat
  pte : W64
  deriving DecidableEq, Repr

def pteV (p : W64) : Bool := p.getLsbD 0
def pteR (p : W64) : Bool := p.getLsbD 1
def pteW (p : W64) : Bool := p.getLsbD 2
def pteX (p : W64) : Bool := p.getLsbD 3
def pteU (p : W64) : Bool := p.getLsbD 4
def pteG (p : W64) : Bool := p.getLsbD 5
def ptePpn (p : W64) : Nat := bits p.toNat 53 10
def ptePbmt (p : W64) : Nat := bits p.toNat 62 61
def pteLeaf (p : W64) : Bool := pteR p || pteX p || pteW p

def vpn (va : Nat) (level : Nat) : Nat := bits va (12 + 9 * level + 8) (12 + 9 * level)
def pageSize (level : Nat) : Nat := 2 ^ (12 + 9 * level)

/-- Cause 3 of a PTE at a level (19 R389). -/
def pteMalformed (p : W64) (level : Nat) : Bool :=
  (pteLeaf p && level = 4) || (level = 0 && !pteLeaf p) || (pteLeaf p && ptePpn p % 2 ^ (9 * level) ≠ 0)
    || (pteW p && !pteR p) || bits p.toNat 60 54 ≠ 0 || p.getLsbD 63 || ptePbmt p = 3

def permits (p : W64) (acc : Acc) : Bool :=
  pteU p && (!acc.needsR || pteR p) && (!acc.needsW || pteW p) && (!acc.needsX || pteX p)

/-- Whether the partition of die d owns the region of a device physical address (19 R408). -/
def State.owns (s : State) (d pa : Nat) : Bool := s.pid d ≠ 0 && s.homeNat (s.ownerWord pa) 2 = s.pid d

/-- A home refuses a user's request from another die whose partition does not own the region (19 R408). -/
def State.homeRefuses (s : State) (d gang pa : Nat) : Bool := gang ≠ 0 && isDevicePa pa && homeDie pa ≠ d && !s.owns d pa

/-- What a walk found: the translation, where its leaf lies, and the non-leaf PTEs that it read. -/
structure Walk where
  xlt : Xlt
  at_ : Nat
  path : List TlbEntry
  deriving DecidableEq, Repr

def State.asid (s : State) (d : Nat) : BitVec 16 := BitVec.ofNat 16 (s.dcrBits d offATP 59 44)

/-- The walk from a table down the levels (19 R389); `last` is the PTE read before. -/
def State.walkFrom (s : State) (d va : Nat) (acc : Acc) (table : Nat) (last : W64) (path : List TlbEntry) :
    List Nat → Except XFault Walk
  | [] => .error ⟨1, 0, last⟩
  | l :: ls =>
    let at_ := table + 8 * vpn va l
    if isDevicePa at_ && s.memTop d ≤ at_ then .error ⟨6, l, last⟩
    else if s.badAt at_ 8 then .error ⟨8, l, last⟩
    else
      let pte := BitVec.ofNat 64 (s.homeNat at_ 8)
      if !pteV pte then .error ⟨1, l, pte⟩
      else if pteMalformed pte l then .error ⟨3, l, pte⟩
      else if !pteLeaf pte then
        s.walkFrom d va acc (ptePpn pte * 4096) pte
          (⟨s.asid d, pteG pte, va / pageSize l * pageSize l, l, pte, 0⟩ :: path) ls
      else
        let pa := ptePpn pte * 4096 + va % pageSize l
        if !permits pte acc then .error ⟨2, l, pte⟩
        else if ptePbmt pte = 2 then .error ⟨5, l, pte⟩
        else if isDevicePa pa && (s.memTop d ≤ pa || !s.owns d pa) then .error ⟨6, l, pte⟩
        else .ok ⟨⟨pa, l, pte, false⟩, at_, path⟩

/-- An entry is for an address of an ASID (19 R388). -/
def TlbEntry.tagged (e : TlbEntry) (asid : BitVec 16) (va : Nat) : Bool :=
  e.vbase = va / pageSize e.level * pageSize e.level && (e.global || e.asid = asid)

/-- The entry of the walkers' cache that takes a walk furthest down. -/
def State.deepest (s : State) (d va : Nat) : Option TlbEntry :=
  ((s.die d).walks.filter fun e => e.tagged (s.asid d) va).foldl (fun (b : Option TlbEntry) e =>
    match b with
    | some x => if e.level < x.level then some e else b
    | none => some e) none

/-- The walk of a user access of die d (19 R388, R389, R391). -/
def State.walk (s : State) (d : Nat) (va : W64) (acc : Acc) : Except XFault Walk :=
  if !canonical va then .error ⟨4, 4, 0⟩
  else if s.dcrBits d offATP 63 60 ≠ 10 then .error ⟨7, 4, 0⟩
  else
    let v := va.toNat % 2 ^ 57
    match s.deepest d v with
    | some e => s.walkFrom d v acc (ptePpn e.pte * 4096) e.pte [] (List.range e.level).reverse
    | none => s.walkFrom d v acc (s.dcrBits d offATP 43 0 * 4096) 0 [] [4, 3, 2, 1, 0]

/-- Freeze marks that a TLB fill takes (19 R392). -/
def State.fillMarks (s : State) (base level : Nat) : BitVec 32 :=
  if level = 0 then (if s.frzCount base = 0 then 0 else 1)
  else if level = 1 then
    (List.range 32).foldl (fun m i => if s.frzCount (base + granuleBytes * i) = 0 then m else m ||| (1#32 <<< i)) 0
  else 0

def TlbEntry.mark (e : TlbEntry) (va : Nat) : Bool :=
  if e.level = 0 then e.marks.getLsbD 0
  else if e.level = 1 then e.marks.getLsbD ((ptePpn e.pte * 4096 + va % pageSize 1) / granuleBytes % 32)
  else false

def TlbEntry.hits (e : TlbEntry) (asid : BitVec 16) (va : Nat) (acc : Acc) : Bool :=
  e.tagged asid va && permits e.pte acc && (!acc.needsW || e.pte.getLsbD 7)

/-- Sizes of the structures of 19 R391: entries of an L1 TLB per page size, of an L2 TLB, of a die's cache of non-leaf entries. -/
def l1Size : Nat := 128
def l2Size : Nat := 16384
def walkCacheSize : Nat := 256

/-- The core number of a request that no core makes: it has no L1 TLB. -/
def noCore : Nat := Config.cores

def sameTag (e o : TlbEntry) : Bool := o.vbase = e.vbase && o.level = e.level && o.asid = e.asid

/-- An entry comes first in a list; where that would exceed the size, the machine chooses which leaves. Log 13 (DESIGN CHOICE). -/
def State.enterTlb (s : State) (e : TlbEntry) (size : Nat) (es : List TlbEntry) : List TlbEntry × State :=
  let rest := es.filter fun o => !sameTag e o
  if rest.length < size then (e :: rest, s)
  else
    let (i, s1) := s.choose rest.length
    (e :: rest.eraseIdx i, s1)

def State.fillL1 (s : State) (d c : Nat) (e : TlbEntry) : State :=
  if c < Config.cores then
    let all := (s.core d c).tlb
    let (es, s1) := s.enterTlb e l1Size (all.filter fun o => o.level = e.level)
    s1.modCore d c fun x => { x with tlb := es ++ all.filter fun o => o.level ≠ e.level }
  else s

def State.fillL2 (s : State) (d : Nat) (e : TlbEntry) : State :=
  let (es, s1) := s.enterTlb e l2Size (s.die d).tlb
  s1.modDie d fun x => { x with tlb := es }

def State.fillWalks (s : State) (d : Nat) (path : List TlbEntry) : State :=
  path.foldr (fun e (t : State) =>
    let (es, t1) := t.enterTlb e walkCacheSize (t.die d).walks
    t1.modDie d fun x => { x with walks := es }) s

/-- A translation that a TLB entry gives. A page of 1 GiB or more spans regions, so its owner is checked at every use (19 R408). -/
def State.fromTlb (s : State) (d v : Nat) (e : TlbEntry) : Except XFault Xlt :=
  let pa := ptePpn e.pte * 4096 + v % pageSize e.level
  if 2 ≤ e.level && isDevicePa pa && (s.memTop d ≤ pa || !s.owns d pa) then .error ⟨6, e.level, e.pte⟩
  else .ok ⟨pa, e.level, e.pte, e.mark v⟩

/-- Set A and D in a leaf (19 R390), but for a leaf whose granule keeps its image: it stays as it is, and is not cached. Log 13 (DESIGN CHOICE). -/
def State.walked (s : State) (d c v : Nat) (acc : Acc) (w : Walk) : Except XFault Xlt × State :=
  let x := w.xlt
  let pte := x.pte ||| 0x40 ||| (if acc.needsW then 0x80 else 0)
  if pte ≠ x.pte && s.keepsImage w.at_ then (.ok x, s)
  else
    let s1 := if pte = x.pte then s else s.storeAll w.at_ (toBytes pte.toNat 8)
    let e : TlbEntry :=
      ⟨s.asid d, pteG pte, v / pageSize x.level * pageSize x.level, x.level, pte, s1.fillMarks (ptePpn pte * 4096) x.level⟩
    (.ok { x with pte := pte, marked := e.mark v }, ((s1.fillWalks d w.path).fillL2 d e).fillL1 d c e)

/-- Translate a user access of a core: by its L1 TLB, by the die's L2 TLB, or by a walk that sets A and D and fills them (19 R388 to
R392). Log 13 (DESIGN CHOICE). -/
def State.translate (s : State) (d c : Nat) (va : W64) (acc : Acc) : Except XFault Xlt × State :=
  let v := va.toNat % 2 ^ 57
  let hit (e : TlbEntry) : Bool := e.hits (s.asid d) v acc
  let early := !canonical va || s.dcrBits d offATP 63 60 ≠ 10
  let l1 := if early || Config.cores ≤ c then none else (s.core d c).tlb.find? hit
  let l2 := if early then none else (s.die d).tlb.find? hit
  match l1, l2 with
  | some e, _ => (s.fromTlb d v e, s)
  | none, some e => (s.fromTlb d v e, s.fillL1 d c e)
  | none, none =>
    match s.walk d va acc with
    | .error f => (.error f, s)
    | .ok w => s.walked d c v acc w

/-- A physical address that privileged code may use (17 R355, 25 R483). -/
def State.physOk (s : State) (d a : Nat) : Bool := decide (a < 2 ^ 56) && (a.testBit 55 || decide (a < s.memTop d))

/-- What an address of an engine's request of a core comes to: a privileged one is physical, and refused outside the populated map
(17 R355, 19 R388). -/
inductive Reached where
  | at (x : Xlt)
  | fault (f : XFault)
  | refused
  deriving DecidableEq, Repr

/-- Reach a global address for a user or a supervisor (19 R388). -/
def State.reach (s : State) (d c : Nat) (priv : Bool) (va : W64) (acc : Acc) : Reached × State :=
  if priv then (if s.physOk d va.toNat then .at ⟨va.toNat, 0, 0, false⟩ else .refused, s)
  else match s.translate d c va acc with
    | (.ok x, s1) => (.at x, s1)
    | (.error f, s1) => (.fault f, s1)

/-! Fault records on their way to a die's queue (19 R393 to R395, R401). -/

def offDMR : Nat := 0x100100

/-- Whether an address lies in a device-managed range of a die (19 R401). -/
def State.inDmr (s : State) (d va : Nat) : Bool :=
  (List.range 16).any fun n =>
    let r := (s.dcr d (offDMR + 16 * n)).toNat
    let size := match r % 4 with
      | 1 => 2 ^ 21
      | 2 => 2 ^ 30
      | _ => 2 ^ 39
    r % 4 ≠ 0 && bits r 56 21 * 2 ^ 21 / size = va % 2 ^ 57 / size

/-- PSIZE of a fault (19 R398): the leaf's level where the walk read one; 0 at the last level; else 4, unknown. Log 53 (DESIGN CHOICE). -/
def XFault.psize (f : XFault) : Nat :=
  if pteV f.pte && pteLeaf f.pte && f.cause ≠ 3 && f.level < 4 then f.level else if f.level = 0 then 0 else 4

/-- Base of the page of a faulting address; an unknown page counts as 4 KiB. Log 53 (DESIGN CHOICE). -/
def XFault.page (f : XFault) (va : Nat) : Nat :=
  let n := if f.psize = 4 then 4096 else pageSize f.psize
  va / n * n

/-- A faulting access asks for a record. FAULT_RECORD_WRITE gives it its RID and TICK when the queue has a slot. -/
def State.postFault (s : State) (d : Nat) (r : FaultRec) : State :=
  s.modDie d fun x => { x with frWait := x.frWait ++ [{ r with die := d, dm := s.inDmr d r.va.toNat }] }

/-- The record of a fault found by the translation of an access. -/
def faultRec (f : XFault) (acc path : Nat) (va : W64) (mask : W64) (pc gang : Nat) (k : CohKey) (w : Waiter) : FaultRec :=
  { rid := 0, cause := f.cause, acc := acc, path := path, level := f.level, dm := false, cw := 0, va := va, mask := mask,
    pc := pc, gang := gang, die := k.die, core := k.core, slot := k.slot, tick := 0, pte := f.pte, waiter := w }

/-- A home has refused an access in flight: its requester takes cause 6, which is always answered *fatal* (19 R393, R408). Log 141 (DEDUCED). -/
def State.homeFault (s : State) (k : LaneKey) (gang pc va acc path : Nat) : State :=
  s.postFault k.coh.die (faultRec ⟨6, 0, 0⟩ acc path (BitVec.ofNat 64 va) (1#64 <<< k.lane) pc gang k.coh (.home k pc))

/-! Scratch (06 R116, R117, R122). -/

/-- The pages granted to a group. -/
def Core.page? (c : Core) (gang role member index : Nat) : Option ScratchPage :=
  c.pages.find? fun p => p.gang = gang && p.role = role && p.member = member && p.index = index

def Core.modPage (c : Core) (id : Nat) (f : ScratchPage → ScratchPage) : Core :=
  { c with pages := c.pages.map fun p => if p.id = id then f p else p }

/-- The page that a scratch address names in a group; none is a fatal access. -/
def State.scratchPage (s : State) (d c gang role member : Nat) (va : Nat) : Option ScratchPage :=
  if va / 2 ^ 20 ≠ 0 then none else (s.core d c).page? gang role member (bits va 19 14)

/-- Sector of an offset. -/
def sectorOf (off : Nat) : Nat := off / 128

/-- The location of a byte of a page: its own contents, or the global location of a present stash sector. -/
def ScratchPage.loc (p : ScratchPage) (off : Nat) : Nat :=
  match p.stash with
  | none => scratchLoc p.id off
  | some _ =>
    match p.sectors.find? fun x => x.idx = sectorOf off with
    | some x => x.pa + off % 128
    | none => scratchLoc p.id off

end Sys2Proof.Machine
end

