-- ==== Sys2Proof/Machine/Heap.lean ====
section
/-! DEFINITION. The frame heap (03 R50 to R57): segments and their shares, frames, handler matching, and the continuation record
(03 R65 to R68). An action either completes, finds the frame heap altered or unreadable, or finds too few segments. -/

namespace Sys2Proof.Machine

inductive HeapErr where
  /-- A failed header check, an uncorrectable header or an address that does not translate: the gang is aborted (03 R51, R59). -/
  | corrupt
  /-- A reserved field of a header or frame is not 0 (00 R12). -/
  | reserved
  /-- The home of an address cannot take the access yet: its die is stopped, or it collects the granule (15 R341, 07 R160). -/
  | wait
  /-- Too few free segments (03 R55): the number needed. -/
  | full (n : Nat)
  deriving DecidableEq, Repr

/-- A frame-heap action. -/
abbrev HeapM (α : Type) := State → Except HeapErr (α × State)

def HeapM.pure (a : α) : HeapM α := fun s => .ok (a, s)
def HeapM.bind (m : HeapM α) (f : α → HeapM β) : HeapM β := fun s =>
  match m s with
  | .error e => .error e
  | .ok (a, s') => f a s'
def HeapM.fail (e : HeapErr) : HeapM α := fun _ => .error e

/-- Whose heap an action uses: a partition's, by virtual address, or a die's supervisor heap, by physical address (17 R355); and for
which lane slot, gang and fibre it acts. -/
structure HeapCtx where
  key : LaneKey
  priv : Bool
  gang : Nat
  fibre : Nat
  deriving DecidableEq, Repr

def HeapCtx.die (c : HeapCtx) : Nat := c.key.coh.die

def HeapCtx.heapId (c : HeapCtx) (s : State) : Nat := if c.priv then 4096 + c.die else s.pid c.die
def HeapCtx.base (c : HeapCtx) (s : State) : Nat :=
  if c.priv then (s.dcr c.die offSFHBASE).toNat else (s.dcr c.die offFHBASE).toNat
def HeapCtx.count (c : HeapCtx) (s : State) : Nat :=
  if c.priv then s.dcrBits c.die offSFHSIZE 31 0 else s.dcrBits c.die offFHSIZE 31 0
def HeapCtx.reserve (c : HeapCtx) (s : State) : Nat := if c.priv then 0 else s.dcrBits c.die offFHRSV 15 0

/-- The location of a heap address, whose home is awake. Log 11 (DEDUCED). -/
def heapLoc (c : HeapCtx) (va : Nat) : HeapM Nat := fun s =>
  let reached (pa : Nat) (t : State) : Except HeapErr (Nat × State) :=
    if isDevicePa pa && !t.awake (homeDie pa) then .error .wait else .ok (pa, t)
  if c.priv then (if va < s.memTop c.die then reached va s else .error .corrupt)
  else match s.translate c.die noCore (va57 va) .store with
    | (.ok x, s') => if s'.homeRefuses c.die c.gang x.pa then .error .corrupt else reached x.pa s'
    | (.error _, _) => .error .corrupt

/-- Read n bytes of the heap as a number. The bytes lie in one segment. Log 34 (DEDUCED). -/
def heapRead (c : HeapCtx) (va n : Nat) : HeapM Nat :=
  HeapM.bind (heapLoc c va) fun pa s => if s.badAt pa n then .error .corrupt else .ok (s.homeNat pa n, s)

/-- Write bytes of the heap, within one segment. A frozen granule keeps its image (06 R133), so the heap is lost. Log 34 (DEDUCED). Log 142 (DEDUCED). -/
def heapStore (c : HeapCtx) (va : Nat) (bs : List Byte) : HeapM Unit :=
  HeapM.bind (heapLoc c va) fun pa s =>
    if s.collecting pa then .error .wait
    else if s.frzCount pa ≠ 0 then .error .corrupt
    else .ok ((), s.storeAs c.key pa bs)

def heapWrite (c : HeapCtx) (va n x : Nat) : HeapM Unit := heapStore c va (toBytes x n)

/-- A segment header (03 R51). -/
structure SegHdr where
  top : Nat := 32
  splitOff : Nat := 0
  split : Bool := false
  capArea : Bool := false
  owners : Nat := 1
  gen : Nat := 0
  next : Nat := 0
  bounds : Nat := 0
  deriving DecidableEq, Repr

def boolNat (b : Bool) : Nat := if b then 1 else 0

def SegHdr.encode (h : SegHdr) : Nat :=
  h.top + 2 ^ 10 * h.splitOff + 2 ^ 20 * boolNat h.split + 2 ^ 21 * boolNat h.capArea + 2 ^ 24 * h.owners + 2 ^ 48 * h.gen
    + 2 ^ 64 * h.next + 2 ^ 121 * h.bounds

def SegHdr.decode (x : Nat) : SegHdr :=
  ⟨bits x 9 0, bits x 19 10, bit x 20, bit x 21, bits x 28 24, bits x 63 48, bits x 120 64, bits x 152 121⟩

/-- The highest set bit of a share-boundary mask; 0 when none is set. -/
def highBit (x : Nat) : Nat → Nat
  | 0 => 0
  | n + 1 => if x.testBit n then n else highBit x n

/-- The checks of 03 R51 on a header that is read. -/
def SegHdr.ok (h : SegHdr) : Bool :=
  let n := popcountNat h.bounds 32
  1 ≤ h.owners && h.owners ≤ 30 && (h.owners = n || h.owners = n + 1) && 32 ≤ h.top && h.top ≤ 512
    && h.split = (h.bounds ≠ 0 : Bool) && h.bounds % 8 = 0
    && (!h.split || (h.splitOff = 16 * highBit h.bounds 32 && h.splitOff < h.top && !h.capArea))

def segOf (va : Nat) : Nat := va / 512 * 512

/-- The reserved bits of a segment header hold 0 (03 R51). -/
def hdrReserved (x : Nat) : Bool := bits x 255 153 = 0 && bits x 47 29 = 0 && bits x 23 22 = 0

/-- Read and check the header of a segment (03 R51, 00 R12). Log 11 (DEDUCED). Log 143 (DEDUCED). -/
def readHdr (c : HeapCtx) (seg : Nat) : HeapM SegHdr :=
  HeapM.bind (heapRead c seg 32) fun x =>
    if !(SegHdr.decode x).ok then HeapM.fail .corrupt
    else if !hdrReserved x then HeapM.fail .reserved
    else HeapM.pure (.decode x)

def writeHdr (c : HeapCtx) (seg : Nat) (h : SegHdr) : HeapM Unit := heapWrite c seg 32 h.encode

/-- The first segment number from i up, round the heap, that is not held; `fuel` exceeds the number held. Log 9 (DESIGN CHOICE). -/
def firstFree (held : List Nat) (n i : Nat) : Nat → Nat
  | 0 => i
  | fuel + 1 => if held.contains i then firstFree held n ((i + 1) % n) fuel else i

/-- Free segments of the heap. -/
def HeapCtx.freeCount (c : HeapCtx) (s : State) : Nat :=
  c.count s - (s.segs.filter fun x => x.heap = c.heapId s).length

/-- Take a free segment, leaving at least `reserve` free (03 R50, R55): the allocator chooses which. The header keeps GEN, and the
fibre holds the one share. Log 9 (DESIGN CHOICE). -/
def takeSeg (c : HeapCtx) (reserve : Nat) (h : SegHdr) : HeapM Nat := fun s =>
  if c.freeCount s < reserve + 1 then .error (.full 1)
  else
    let held := (s.segs.filter fun x => x.heap = c.heapId s).map fun x => (x.addr - c.base s) / 512
    let (k, s1) := s.choose (c.count s)
    let seg := c.base s + 512 * firstFree held (c.count s) k (held.length + 1)
    let s2 := { s1 with segs := ⟨c.heapId s, seg, [⟨32, c.gang, .fibre c.fibre⟩]⟩ :: s1.segs }
    HeapM.bind (heapRead c seg 32) (fun x => writeHdr c seg { h with gen := (SegHdr.decode x).gen }) s2 |>.map fun r => (seg, r.2)

/-- Change the shares of a held segment. -/
def modShares (c : HeapCtx) (seg : Nat) (f : List Share → List Share) : HeapM Unit := fun s =>
  .ok ((), { s with segs := s.segs.map fun x => if x.addr = seg && x.heap = c.heapId s then { x with shares := f x.shares } else x })

/-- The share that begins at an offset passes to a holder, for the gang of the action. -/
def passShare (c : HeapCtx) (h : Holder) (seg start : Nat) : HeapM Unit :=
  modShares c seg fun xs => xs.map fun x => if x.start = start then { x with gang := c.gang, holder := h } else x

def passShares (c : HeapCtx) (h : Holder) : List (Nat × Nat) → HeapM Unit
  | [] => HeapM.pure ()
  | (seg, start) :: rest => HeapM.bind (passShare c h seg start) fun _ => passShares c h rest

/-- The shares that a party holds, each by its segment and offset. -/
def HeapCtx.sharesOf (c : HeapCtx) (s : State) (h : Holder) : List (Nat × Nat) :=
  (s.segs.filter fun x => x.heap = c.heapId s).flatMap fun x => (x.shares.filter fun y => y.holder = h).map fun y => (x.addr, y.start)

/-- Free a segment: GEN rises by 1 (03 R51). -/
def freeSeg (c : HeapCtx) (seg : Nat) (h : SegHdr) : HeapM Unit :=
  HeapM.bind (writeHdr c seg { gen := (h.gen + 1) % 65536, owners := 0 }) fun _ s =>
    .ok ((), { s with segs := s.segs.filter fun x => !(x.addr = seg && x.heap = c.heapId s) })

/-- Place F bytes above the fibre's frames (03 R53): the address of the frame. -/
def placeFrame (c : HeapCtx) (sp f : Nat) : HeapM Nat :=
  let seg := segOf sp
  HeapM.bind (readHdr c seg) fun h =>
    let t := if h.split && decide (sp % 512 < h.splitOff) then 512 else h.top
    if t + f ≤ 512 then
      HeapM.bind (writeHdr c seg { h with top := t + f }) fun _ => HeapM.pure (seg + t)
    else fun s =>
      HeapM.bind (takeSeg c (c.reserve s) { top := 32 + f }) (fun g => HeapM.pure (g + 32)) s

/-- A share that begins at offset o ends (03 R53): its boundary goes, OWNERS falls, the segment is freed with the last. -/
def endShare (c : HeapCtx) (seg o : Nat) (h : SegHdr) : HeapM Unit :=
  let bounds := if h.bounds.testBit (o / 16) then h.bounds - 2 ^ (o / 16) else h.bounds
  let h' := { h with bounds := bounds, owners := h.owners - 1, split := bounds ≠ 0,
                     splitOff := if bounds = 0 then 0 else 16 * highBit bounds 32 }
  if h'.owners = 0 then freeSeg c seg h'
  else HeapM.bind (modShares c seg fun xs => xs.filter fun x => x.start ≠ o) fun _ => writeHdr c seg h'

/-- Pop the frame at an address (03 R53). -/
def popFrame (c : HeapCtx) (va : Nat) : HeapM Unit :=
  let seg := segOf va
  let o := va % 512
  HeapM.bind (readHdr c seg) fun h =>
    let h' := if h.split && decide (o < h.splitOff) then h else { h with top := o }
    if o = 32 || h.bounds.testBit (o / 16) then endShare c seg o h' else writeHdr c seg h'

/-- The offset at which the share that holds an offset begins. -/
def shareStart (h : SegHdr) (o : Nat) : Nat :=
  let below := h.bounds % 2 ^ (o / 16 + 1)
  if below = 0 then 32 else 16 * highBit below 32

/-- Release a share without popping its frames (03 R53, R54, R72). -/
def releaseShare (c : HeapCtx) (seg start : Nat) : HeapM Unit :=
  HeapM.bind (readHdr c seg) fun h =>
    let top := if h.split then h.splitOff = start else start = 32
    endShare c seg start (if top then { h with top := start } else h)

/-! Frames (03 R52, R56, R70). -/

structure Frame where
  csp : Nat
  kind : Nat
  rpc : Nat
  rprio : BitVec 8
  deriving DecidableEq, Repr

def Frame.encode (f : Frame) : Nat := f.csp + 2 ^ 62 * f.kind + 2 ^ 65 * (f.rpc / 4) + 2 ^ 120 * f.rprio.toNat
def Frame.decode (x : Nat) : Frame := ⟨bits x 56 0, bits x 63 62, 4 * bits x 119 65, BitVec.ofNat 8 (bits x 127 120)⟩

/-- The reserved bits of a frame header hold 0 (03 R52). -/
def frameReserved (x : Nat) : Bool := !bit x 64 && bits x 61 57 = 0

def readFrame (c : HeapCtx) (va : Nat) : HeapM Frame :=
  HeapM.bind (heapRead c va 16) fun x => if frameReserved x then HeapM.pure (.decode x) else HeapM.fail .reserved
def writeFrame (c : HeapCtx) (va : Nat) (f : Frame) : HeapM Unit := heapWrite c va 16 f.encode

/-- The second 16 bytes of a handler or resume frame. -/
structure Handler where
  prev : Nat
  mask : BitVec 8
  hpc : Nat
  tag : BitVec 8
  deriving DecidableEq, Repr

def Handler.encode (h : Handler) : Nat :=
  h.prev / 16 + 2 ^ 56 * h.mask.toNat + 2 ^ 65 * (h.hpc / 4) + 2 ^ 120 * h.tag.toNat
def Handler.decode (x : Nat) : Handler :=
  ⟨16 * bits x 52 0, BitVec.ofNat 8 (bits x 63 56), 4 * bits x 119 65, BitVec.ofNat 8 (bits x 127 120)⟩

/-- The reserved bits of the second 16 bytes of a handler or resume frame hold 0 (03 R56, R70). -/
def handlerReserved (x : Nat) : Bool := !bit x 64 && bits x 55 53 = 0

def readHandler (c : HeapCtx) (va : Nat) : HeapM Handler :=
  HeapM.bind (heapRead c (va + 16) 16) fun x => if handlerReserved x then HeapM.pure (.decode x) else HeapM.fail .reserved

/-- The reserved bits of the last 32 bytes of a resume frame hold 0 (03 R70). -/
def resumeReserved (x : Nat) : Bool :=
  bits x 255 213 = 0 && bits x 207 203 = 0 && bits x 199 197 = 0

/-- The last 32 bytes of a resume frame: the resumer's state. -/
def readResumer (c : HeapCtx) (va : Nat) : HeapM Nat :=
  HeapM.bind (heapRead c (va + 32) 32) fun x => if resumeReserved x then HeapM.pure x else HeapM.fail .reserved
def writeHandler (c : HeapCtx) (va : Nat) (h : Handler) : HeapM Unit := heapWrite c (va + 16) 16 h.encode

/-- Steps that bound a walk over frames that the hardware placed. -/
def walkFuel (s : State) : Nat := 64 * (s.segs.length + 1)

/-- Whether a frame of the chain catches a tag raised with this `sp` (03 R57, R70). -/
def catches (t : BitVec 8) (sp : Nat) (f : Frame) (h : Handler) : Bool :=
  (t &&& h.mask) = (h.tag &&& h.mask) && (f.kind = 2 || sp ≠ f.csp)

/-- The catcher of a tag (03 R57): the first frame of the chain, from an address through PREV, that matches; before it, the frames
passed over, youngest first. The search reads no frame beyond the catcher. Log 51 (DEDUCED). -/
def findCatcher (c : HeapCtx) (t : BitVec 8) (sp va : Nat) :
    Nat → HeapM (List (Nat × Frame × Handler) × Option (Nat × Frame × Handler))
  | 0 => HeapM.pure ([], none)
  | fuel + 1 =>
    if va = 0 then HeapM.pure ([], none)
    else
      HeapM.bind (readFrame c va) fun f => HeapM.bind (readHandler c va) fun h =>
        if catches t sp f h then HeapM.pure ([], some (va, f, h))
        else HeapM.bind (findCatcher c t sp h.prev fuel) fun r => HeapM.pure ((va, f, h) :: r.1, r.2)

/-- The frames from `sp` through CSP, youngest first, down to the first whose CSP is given (03 R59): none when a CSP of 0 comes
first. The walk reads no frame beyond it. -/
def framesTo (c : HeapCtx) (target va : Nat) : Nat → HeapM (Option (List Nat))
  | 0 => HeapM.pure none
  | fuel + 1 =>
    if va = 0 then HeapM.pure none
    else HeapM.bind (readFrame c va) fun f =>
      if f.csp = target then HeapM.pure (some [va])
      else HeapM.bind (framesTo c target f.csp fuel) fun r => HeapM.pure (r.map (va :: ·))

/-! The continuation record (03 R65 to R68). -/

structure ContRec where
  gang : Nat
  wic : W32
  unwk : Nat := 0
  bks : Bool := false
  unwp : Bool := false
  unwv : Bool := false
  unwr : Nat := 0
  nsh : Nat
  tcount : Nat
  fenable : BitVec 5
  frm : BitVec 3
  fflags : BitVec 5
  oldh : Nat
  head : Nat
  basef : Nat
  sp : Nat
  pc : Nat
  state : Nat
  prio : BitVec 8
  htag : BitVec 8
  hmask : BitVec 8
  nseg : Nat
  nv : Nat
  deriving DecidableEq, Repr

def ContRec.encode (r : ContRec) : Nat :=
  2 ^ 8 * r.nv + 2 ^ 16 * r.nseg + 2 ^ 32 * r.hmask.toNat + 2 ^ 40 * r.htag.toNat + 2 ^ 48 * r.prio.toNat + 2 ^ 56 * r.state
    + 2 ^ 66 * (r.pc / 4) + 2 ^ 128 * r.sp + 2 ^ 192 * r.basef + 2 ^ 256 * r.head + 2 ^ 320 * r.oldh
    + 2 ^ 384 * r.fflags.toNat + 2 ^ 392 * r.frm.toNat + 2 ^ 400 * r.fenable.toNat + 2 ^ 408 * r.tcount + 2 ^ 416 * r.nsh
    + 2 ^ 424 * r.unwr + 2 ^ 431 * boolNat r.unwv + 2 ^ 432 * boolNat r.unwp + 2 ^ 433 * boolNat r.bks + 2 ^ 434 * r.unwk
    + 2 ^ 448 * r.wic.toNat + 2 ^ 480 * r.gang

def ContRec.decode (x : Nat) : ContRec :=
  { gang := bits x 511 480, wic := BitVec.ofNat 32 (bits x 479 448), unwk := bits x 435 434, bks := bit x 433,
    unwp := bit x 432, unwv := bit x 431, unwr := bits x 430 424, nsh := bits x 420 416, tcount := bits x 413 408,
    fenable := BitVec.ofNat 5 (bits x 404 400), frm := BitVec.ofNat 3 (bits x 394 392),
    fflags := BitVec.ofNat 5 (bits x 388 384), oldh := bits x 376 320, head := bits x 312 256, basef := bits x 248 192,
    sp := bits x 184 128, pc := 4 * bits x 120 66, state := bits x 63 56, prio := BitVec.ofNat 8 (bits x 55 48),
    htag := BitVec.ofNat 8 (bits x 47 40), hmask := BitVec.ofNat 8 (bits x 39 32), nseg := bits x 31 16, nv := bits x 15 8 }

/-- The reserved bits of a descriptor. -/
def contReserved (x : Nat) : Bool :=
  bits x 447 436 = 0 && bits x 423 421 = 0 && bits x 415 414 = 0 && bits x 407 405 = 0 && bits x 399 395 = 0
    && bits x 391 389 = 0 && bits x 383 377 = 0 && bits x 319 313 = 0 && bits x 255 249 = 0 && bits x 191 185 = 0
    && bits x 127 121 = 0 && bits x 65 64 = 0 && bits x 7 0 = 0

/-- A continuation handle (03 R65). -/
def contHandle (seg gen : Nat) : W64 := BitVec.ofNat 64 (seg + gen % 512 + 2 ^ 57 * (gen / 512 % 128))
def handleSeg (k : W64) : Nat := 512 * bits k.toNat 56 9
def handleGen (k : W64) : Nat := bits k.toNat 8 0 + 512 * bits k.toNat 63 57

def padTo (n : Nat) (bs : List Byte) : List Byte := bs ++ List.replicate ((n - bs.length % n) % n) 0

/-- One shadow entry and one ticket entry of the register area (03 R67). -/
def Shadow.encode (x : Shadow) : Nat := x.old.toNat + 2 ^ 32 * x.reg + 2 ^ 40 * x.left
def Ticket.encode (t : Ticket) : Nat := t.addr + 2 ^ 61 * t.kind + 2 ^ 64 * t.value.toNat
def Shadow.decode (x : Nat) : Shadow := ⟨bits x 38 32, BitVec.ofNat 32 (bits x 31 0), bits x 43 40⟩
def Ticket.decode (x : Nat) : Ticket := ⟨bits x 63 61, bits x 56 0, BitVec.ofNat 64 (bits x 127 64)⟩

/-- The mask of the live registers of a lane. -/
def Lane.vmap (l : Lane) : Nat := l.v.foldl (fun m x => m + 2 ^ x.1) 0

/-- The register area of a lane (03 R67). -/
def Lane.area (l : Lane) : List Byte :=
  let head := toBytes l.vmap 16 ++ [l.p] ++ List.replicate 7 0 ++ toBytes (l.kreg 5).toNat 8 ++ toBytes (l.kreg 6).toNat 8
    ++ toBytes (l.kreg 7).toNat 8
  let regs := head ++ (l.v.map fun x => toBytes x.2.toNat 4).flatten
  let shs := padTo 8 regs ++ (l.shadows.map fun x => toBytes x.encode 8).flatten
  if l.tickets.isEmpty then shs else padTo 16 shs ++ (l.tickets.map fun t => toBytes t.encode 16).flatten

/-- Write a byte stream over the bodies of record segments, from an offset of the first (03 R67). -/
def writeStream (c : HeapCtx) (off : Nat) (bs : List Byte) : List Nat → HeapM Unit
  | [] => HeapM.pure ()
  | seg :: segs =>
    let n := 512 - off
    HeapM.bind (heapStore c (seg + off) (bs.take n)) fun _ => writeStream c 32 (bs.drop n) segs

/-- Take n linked record segments; capture may draw on the reserve (03 R55, R59). -/
def takeRecord (c : HeapCtx) : Nat → HeapM (List Nat)
  | 0 => HeapM.pure []
  | n + 1 =>
    HeapM.bind (takeRecord c n) fun rest =>
      HeapM.bind (takeSeg c 0 { top := 512, capArea := true, next := rest.headD 0 }) fun seg => HeapM.pure (seg :: rest)

/-- Take the segments of a record: the continuation holds them. -/
def takeContRecord (c : HeapCtx) (n : Nat) : HeapM (List Nat) :=
  HeapM.bind (takeRecord c n) fun segs =>
    HeapM.bind (passShares c (.cont (segs.headD 0)) (segs.map fun x => (x, 32))) fun _ => HeapM.pure segs

/-- The segments of a record from its first, by NEXT. -/
def recordSegs (c : HeapCtx) (seg : Nat) : Nat → HeapM (List Nat)
  | 0 => HeapM.pure []
  | fuel + 1 =>
    if seg = 0 then HeapM.pure []
    else HeapM.bind (readHdr c seg) fun h =>
      HeapM.bind (recordSegs c h.next fuel) fun rest => HeapM.pure (seg :: rest)

/-- The segments of a record from its first, by NEXT, up to one whose header is uncorrectable, whose location comes second (03 R74). -/
def recordChain (c : HeapCtx) (seg : Nat) : Nat → HeapM (List Nat × Option Nat)
  | 0 => HeapM.pure ([], none)
  | fuel + 1 =>
    if seg = 0 then HeapM.pure ([], none)
    else HeapM.bind (heapLoc c seg) fun pa s =>
      if s.badAt pa 32 then .ok (([], some pa), s)
      else HeapM.bind (readHdr c seg) (fun h =>
        HeapM.bind (recordChain c h.next fuel) fun rest => HeapM.pure (seg :: rest.1, rest.2)) s

def freeRecord (c : HeapCtx) : List Nat → HeapM Unit
  | [] => HeapM.pure ()
  | seg :: segs => HeapM.bind (readHdr c seg) fun h => HeapM.bind (freeSeg c seg h) fun _ => freeRecord c segs

/-- Release the shares that hold the given frames (03 R54, R72). -/
def releaseFrames (c : HeapCtx) : List (Nat × Nat) → HeapM Unit
  | [] => HeapM.pure ()
  | (seg, start) :: rest => HeapM.bind (releaseShare c seg start) fun _ => releaseFrames c rest

/-- The share that holds a frame. -/
def shareOf (c : HeapCtx) (va : Nat) : HeapM (Nat × Nat) :=
  HeapM.bind (readHdr c (segOf va)) fun h => HeapM.pure (segOf va, shareStart h (va % 512))

/-- The shares that hold frames. -/
def sharesAt (c : HeapCtx) : List Nat → HeapM (List (Nat × Nat))
  | [] => HeapM.pure []
  | va :: rest =>
    HeapM.bind (shareOf c va) fun x => HeapM.bind (sharesAt c rest) fun xs => HeapM.pure (x :: xs)

end Sys2Proof.Machine
end

