-- ==== Sys2Proof/Machine/Gang.lean ====
section
/-! DEFINITION. Gangs: cuts of the Almanac (22 R434 to R436, R444), release of cohort slots (18 R382), the end of a gang, and the
gang abort (03 R75). -/

namespace Sys2Proof.Machine

def State.gang? (s : State) (pid id : Nat) : Option Gang := s.gangs.find? fun g => g.id = id && g.pid = pid
def State.modGang (s : State) (pid id : Nat) (f : Gang → Gang) : State :=
  { s with gangs := s.gangs.map fun g => if g.id = id && g.pid = pid then f g else g }

/-- The gang of a cohort on its die. -/
def State.gangOf (s : State) (k : CohKey) : Option Gang :=
  (s.cohort? k).bind fun c => s.gang? (s.pid k.die) c.gang

/-- The gang's number of a cohort; 0 for none. -/
def State.gangNo (s : State) (k : CohKey) : Nat := match s.cohort? k with
  | some c => c.gang
  | none => 0

/-- Dies of a partition; every die for the device, subject 0 (22 R434). -/
def State.subjectDies (s : State) (subj : Nat) : List Nat :=
  (List.range 16).filter fun d => subj = 0 || s.pid d = subj

/-! Cuts. -/

/-- The vault slot a cut takes: the lowest empty one, else the sealed one with the highest SEQ (22 R444). -/
def pickVault (v : List VaultSlot) : Option (Nat × Bool) :=
  match (List.range 4).find? fun i => (v.getD i {}).state = 0 with
  | some i => some (i, false)
  | none =>
    match (List.range 4).foldl (fun (b : Option Nat) i =>
        if (v.getD i {}).state = 2 then
          match b with
          | none => some i
          | some j => if (v.getD j {}).seq < (v.getD i {}).seq then some i else some j
        else b) none with
    | some i => some (i, true)
    | none => none

def Cut.done (c : Cut) : Bool := c.dies.all fun d => c.copied.contains (d, 48)

/-- Registers of the last cut that a die received, and of their number (22 R433). -/
def offALMSTAT : Nat := 0x200008
def offALMT0 : Nat := 0x200010

/-- Distance of two numbers. -/
def absDiff (a b : Nat) : Nat := a - b + (b - a)

/-- Hop count between dies of a package (01 R17). -/
def hops (a b : Nat) : Nat := absDiff (a % 4) (b % 4) + absDiff (a / 4) (b / 4)

/-- The die where a cut arises. -/
def Cut.origin (c : Cut) : Nat := (c.causes.headD ⟨0, 0, 0, 0, 0, 0⟩).die

/-- The Almanacs of a die should have frozen before this tick: its clock has stood still meanwhile (22 R435). -/
def State.freezeMissed (s : State) (d : Nat) : Bool :=
  s.cuts.any fun c => c.started && c.dies.contains d && !c.frozen.contains d && decide (c.t0 + 256 < s.tick)

/-- A cut reaches the Almanacs of a die, which write CUT (22 R430, R431, R435), unless they have frozen. -/
def State.receiveCut (s : State) (d : Nat) (c : Cut) : State :=
  let cause := c.causes.headD ⟨0, 0, 0, 0, 0, 0⟩
  let a := c.subj + 2 ^ 12 * cause.die + 2 ^ 16 * cause.core
  let ext := cause.tag + 2 ^ 8 * cause.pc
  let h := almHeader 0x60 0 0 s.tick a (BitVec.ofNat 64 c.t0)
  let note (x : Cut) : Cut := if x.id = c.id then { x with notified := d :: x.notified } else x
  let s0 := ({ s with cuts := s.cuts.map note }.setDcr d offALMSTAT
    (BitVec.ofNat 64 ((s.dcrBits d offALMSTAT 15 0 + 1) % 2 ^ 16))).setDcr d offALMT0 (BitVec.ofNat 64 c.t0)
  if s.freezeMissed d then s0
  else
    (foldState (fun (x : State) k => x.almPut d k (s.pid d) h (some ext)) (List.range Config.cores) s0).almPutSched d (s.pid d) h (some ext)

/-- A cut takes its vault slot (22 R444), whose reads fail from then on if some of it has been read (R446), and the Almanacs of the die where
it arises write CUT. -/
def State.openCut (s : State) (c : Cut) (slot : Nat) (full : Bool) : State :=
  let c1 := { c with slot := slot, started := true }
  let dropped := if full then min 255 (s.vaultDropped + 1) else s.vaultDropped
  let rest := s.cuts.filter fun x => x.id ≠ c.id
  State.receiveCut { s with
    cuts := rest ++ [c1]
    vault := s.vault.set slot { state := 1, lost := (s.vault.getD slot {}).read || (s.vault.getD slot {}).lost }
    vaultDropped := dropped } c.origin c1

/-- An earlier cut of an overlapping subject has Almanacs that have not resumed. -/
def State.cutWaits (s : State) (c : Cut) : Bool :=
  s.cuts.any fun x => decide (x.id < c.id) && !x.done && x.dies.any c.dies.contains

/-- Start a cut (22 R435), merge it into one whose freeze it falls under, or let it wait (22 R436). With every vault slot busy the
cut waits as well. Log 96 (DEDUCED). -/
def State.startCut (s : State) (subj : Nat) (cause : CutCause) : State :=
  let dies := s.subjectDies subj
  match s.cuts.find? fun c => c.started && !c.done && dies.any c.dies.contains && decide (s.tick ≤ c.t0 + 256) with
  | some c =>
    let add (x : Cut) : Cut :=
      if x.id = c.id && decide (x.causes.length < 8) then { x with causes := x.causes ++ [cause] } else x
    { s with cuts := s.cuts.map add }
  | none =>
    let c : Cut := { id := s.nextId, t0 := s.tick, subj := subj, dies := dies, causes := [cause], slot := 0, started := false }
    let s1 := { s with nextId := s.nextId + 1 }
    match if s.cutWaits c then none else pickVault s.vault with
    | none => { s1 with cuts := s.cuts ++ [c] }
    | some (i, full) => s1.openCut c i full

/-! Pages of a group. -/

/-- The contents of a page become 0. -/
def State.clearPage (s : State) (id : Nat) : State :=
  let lo := scratchLoc id 0
  { s with
    mem := s.mem.filter fun c => !(decide (lo ≤ c.1) && decide (c.1 < lo + pageBytes))
    bad := s.bad.filter fun u => !(decide (lo ≤ 32 * u) && decide (32 * u < lo + pageBytes)) }

/-- Free entries of the scratch page table. -/
def Core.freeNums (c : Core) : List Nat := (List.range 48).filter fun n => c.pages.all fun p => p.num ≠ n

/-- BACK of the area of a number on a die: 16 KiB of HBM homed there, 128 to a region (06 R119, R122, R124). -/
def backArea (d x : Nat) : Nat := x / 128 * 2048 + 128 * d + x % 128

/-- A backing area of the die that no page has. Log 90 (DESIGN CHOICE). -/
def State.freshBack (s : State) (d : Nat) : Nat × State :=
  let held := (s.cores.filter fun c => c.1.1 = d).flatMap fun c => c.2.pages.map fun p => p.back / 2048 * 128 + p.back % 128
  let n := max 1 (s.memTop d / 2 ^ 25 * 128)
  let (v, s1) := s.drawValue
  (backArea d (firstFree held n (v.toNat % n) (held.length + 1)), s1)

/-- Grant pages to a group, by index: physical, pinned, and reading 0 (06 R123). Log 90 (DESIGN CHOICE). -/
def State.grantPages (s : State) (k : CohKey) (gang role member : Nat) : List Nat → State
  | [] => s
  | j :: js =>
    let (back, s1) := s.freshBack k.die
    let id := s1.nextId
    let num := (s1.core k.die k.core).freeNums.headD 0
    let p : ScratchPage := { id := id, gang := gang, role := role, member := member, index := j, num := num, back := back }
    (({ s1 with nextId := id + 1 }.clearPage id).modCore k.die k.core fun c => { c with pages := c.pages ++ [p] }).grantPages k gang role member js

/-! Slots and gangs. -/

/-- A copy in flight covers a page (06 R128). -/
def Core.covers (x : Core) (p : ScratchPage) : Bool :=
  x.ranges.any fun r => decide (r.lo < scratchLoc (p.id + 1) 0) && decide (scratchLoc p.id 0 ≤ r.hi)

/-- A cohort of the group of a page is bound on the core. -/
def State.groupBound (s : State) (d c : Nat) (p : ScratchPage) : Bool :=
  (s.coreCohorts d c).any fun x => x.2.gang = p.gang && x.2.role = p.role && x.2.member = p.member

/-- A group keeps its pages while a cohort of it is bound on the core, or saved from it (17 R375, 18 R382). -/
def State.groupLives (s : State) (d c : Nat) (p : ScratchPage) : Bool :=
  s.groupBound d c p || match s.gang? (s.pid d) p.gang with
    | some g => g.images.any fun x => x.key.die = d && x.key.core = c && x.role = p.role && x.member = p.member
    | none => false

/-- Pages that no group has any more are released, and those of a saved group are unpinned; not one that a copy still covers (18 R382, R386). -/
def State.sweepPages (s : State) : State :=
  let loosen (c : (Nat × Nat) × Core) (p : ScratchPage) : ScratchPage :=
    if s.groupBound c.1.1 c.1.2 p || c.2.covers p then p else { p with pinned := false }
  { s with cores := s.cores.map fun c =>
      (c.1, { c.2 with pages := (c.2.pages.filter fun p => s.groupLives c.1.1 c.1.2 p || c.2.covers p).map (loosen c) }) }

/-- A pre-emption request is done when none of its targets is bound any more (18 R385). -/
def State.settlePreempt (s : State) (d : Nat) : State :=
  match (s.die d).preempt with
  | none => s
  | some p =>
    let left := p.open_.any fun k => match s.cohort? k with
      | some c => c.preempting
      | none => false
    if left then s
    else
      let state := if p.forced = 0 then 2 else 3
      ((s.modDie d fun x => { x with preempt := none }).setDcr d offPRST (BitVec.ofNat 64 (state + 2 ^ 32 * p.forced))).almSched d 0x83
        p.forced p.target

/-- The park entries of a group on a core are cleared, with UNPARK (23 R457, 22 R430). -/
def State.endPark (s : State) (k : CohKey) (gang role member : Nat) : State :=
  let mine (p : Option Park) : Bool := match p with
    | some x => x.gang = gang && x.core = k.core && x.role = role && x.member = member
    | none => false
  if (s.die k.die).parks.any mine then
    (s.modDie k.die fun x => { x with parks := x.parks.map fun p => if mine p then none else p }).alm k.die k.core 0x43 k.slot 0 0
      (BitVec.ofNat 64 gang)
  else s

/-- A park ends with the last cohort of its group on the core. -/
def State.settlePark (s : State) (k : CohKey) (gang role member : Nat) : State :=
  if (s.coreCohorts k.die k.core).any fun x => !x.2.priv && x.2.gang = gang && x.2.role = role && x.2.member = member then s
  else s.endPark k gang role member

/-- INFO of an UNBIND record (22 R430): the group, and NFIB of the bind record. -/
def Cohort.unbindInfo (c : Cohort) : Nat := c.member + 64 * c.role + 256 * bits c.bind.toNat 348 342

/-- A cohort slot is released (18 R382). -/
def State.releaseSlot (s : State) (k : CohKey) : State :=
  match s.cohort? k with
  | none => s
  | some c =>
    let s1 := (s.dropCohort k).alm k.die k.core 0x41 k.slot 0 c.unbindInfo (BitVec.ofNat 64 c.gang)
    ((s1.settlePark k c.gang c.role c.member).sweepPages.settleReserve k.die k.core).settlePreempt k.die

/-- The Calends of a die write a doubleword of a partition's memory, if it translates; a frozen granule keeps its image (06 R133). -/
def State.calendsStore (s : State) (d va x : Nat) : State :=
  match s.translate d noCore (va57 va) .store with
  | (.ok y, s1) => s1.engineStore ⟨⟨d, 0, 0⟩, 0⟩ y.pa (toBytes x 8)
  | (.error _, s1) => s1

/-- Write STATE and CAUSE into the status doubleword of a launch record (18 R378, R379). -/
def State.launchStatus (s : State) (g : Gang) (state cause : Nat) : State :=
  match g.launch with
  | none => s
  | some va => s.calendsStore g.launchDie (va + 56) (state + 256 * cause + 2 ^ 32 * g.id)

/-- What a gang holds besides its cohorts is released (18 R382); what its barriers count stays until their IDs are granted again (13 R322). -/
def State.dropGang (s : State) (g : Gang) : State :=
  State.sweepPages { s with
    gangs := s.gangs.filter fun x => !(x.id = g.id && x.pid = g.pid)
    cores := s.cores.map fun c => if s.pid c.1.1 = g.pid then (c.1, { c.2 with tensors := c.2.tensors.filter fun t => t.gang ≠ g.id }) else c }

/-- The shares of a gang in a segment are given up: the segment is freed when no other gang holds one in it. An altered header does not
keep it (03 R75). Log 69 (DEDUCED). -/
def endSeg (c : HeapCtx) (gang : Nat) (s : State) (x : Seg) : State :=
  let mine := x.shares.filter fun y => y.gang = gang
  let all := mine.length = x.shares.length
  let this (y : Seg) : Bool := y.addr = x.addr && y.heap = x.heap
  let forget (t : State) : State :=
    if all then { t with segs := t.segs.filter fun y => !this y }
    else { t with segs := t.segs.map fun y => if this y then { y with shares := y.shares.filter fun z => z.gang ≠ gang } else y }
  let act : HeapM Unit :=
    if all then HeapM.bind (heapRead c x.addr 32) fun h => freeSeg c x.addr (.decode h)
    else releaseFrames c (mine.map fun y => (x.addr, y.start))
  match act s with
  | .ok (_, t) => forget t
  | .error _ => forget s

/-- Every segment that a gang holds in a heap is freed (03 R75). -/
def freeSegs (c : HeapCtx) (s : State) : State :=
  foldState (endSeg c c.gang) (s.segs.filter fun x => x.heap = c.heapId s && x.shares.any fun y => y.gang = c.gang) s

/-- Accesses and waits of the lanes of a cohort end with them. -/
def State.forgetCohort (s : State) (k : CohKey) : State :=
  let mine := (s.holds.filter fun h => h.coh = k).map fun h => h.id
  { s with
    loads := s.loads.filter fun x => x.src.coh ≠ k
    atomics := s.atomics.filter fun x => x.src.coh ≠ k
    holds := s.holds.filter fun x => x.coh ≠ k
    qwaits := s.qwaits.filter fun x => x.key.coh ≠ k
    qreqs := s.qreqs.filter fun x => x.key.coh ≠ k
    matOps := s.matOps.filter fun x => x.key ≠ k
    cores := s.cores.map fun c => (c.1, { c.2 with
      sfu := c.2.sfu.filter fun x => x.key.coh ≠ k, sideWait := c.2.sideWait.filter fun x => !mine.contains x.1 }) }

def State.endCohorts (s : State) : List CohKey → State
  | [] => s
  | k :: ks => ((s.forgetCohort k).releaseSlot k).endCohorts ks

/-- Every fibre of a gang ends, and every segment it holds is freed (03 R75 steps 1 and 2). A supervisor's gang is the
supervisor cohorts of its die. -/
def State.abortCohorts (s : State) (d gang : Nat) (priv : Bool) (tag : Nat) : State :=
  let pid := s.pid d
  let mine := s.cohorts.filter fun x => x.2.gang = gang && x.2.priv = priv
    && (if priv then x.1.die = d else s.pid x.1.die = pid)
  let s1 := s.endCohorts (mine.map fun x => x.1)
  let s2 := freeSegs { key := ⟨⟨d, 0, 0⟩, 0⟩, priv := priv, gang := gang, fibre := 0 } s1
  match if priv then none else s2.gang? pid gang with
  | some g => ((s2.launchStatus g 5 tag).dropGang g).almSched d 0x88 (1 + 2 * tag) (BitVec.ofNat 64 gang)
  | none => s2

/-- Gang abort (03 R75) for an effect of a lane: a capsule is taken with the tag and the causing PC. -/
def State.abortGang (s : State) (k : LaneKey) (tag pc : Nat) : State :=
  match s.cohort? k.coh with
  | none => s
  | some co =>
    (s.abortCohorts k.coh.die co.gang co.priv tag).startCut (s.pid k.coh.die)
      ⟨pc, tag, k.coh.die, k.coh.core, k.coh.slot, k.lane⟩

/-- An engine finds the work of a gang fatal (06 R117): the gang is aborted, unless it has ended. Log 39 (DESIGN CHOICE). -/
def State.abortEngine (s : State) (key : LaneKey) (gang pc : Nat) : State :=
  if gang ≠ 0 && (s.gang? (s.pid key.coh.die) gang).isNone then s else
  let (v, s1) := s.drawValue
  (s1.abortCohorts key.coh.die gang (gang = 0) (v.toNat % 256)).startCut (s.pid key.coh.die)
    ⟨pc, v.toNat % 256, key.coh.die, key.coh.core, key.coh.slot, key.lane⟩

/-- A write-back or eviction that reads an uncorrectable dirty sector (06 R134): its gang is aborted; memory of the device itself gives
a cut of the device (22 R434). -/
def State.writeBackFails (s : State) (d c gang pa : Nat) : State :=
  let k : LaneKey := ⟨⟨d, c, 0⟩, 0⟩
  let s1 := s.eccRecord k pa
  if s.regionOwner pa = deviceOwner then s1.startCut 0 ⟨0, 10, d, c, 0, 0⟩ else s1.abortEngine k gang 0

end Sys2Proof.Machine
end

