-- ==== Sys2Proof/Machine/Access.lean ====
section
/-! DEFINITION. Accesses in flight (07): writes applied at their homes and observers, loads whose value is fixed when their data
returns, atomics performed at their homes, and the orders that hold among them. -/

namespace Sys2Proof.Machine

/-! Scopes (07 R135; 01 R15): the instance of a scope that holds a core. -/

def quadOf (core : Nat) : Nat := core / 4

/-- Whether observer o is in the instance of a scope that holds the core of a cohort. One package is modelled, so `.POD` holds
the same observers as `.PKG`. Log 10 (DESIGN CHOICE). -/
def inScope (scope : Nat) (k : CohKey) (o : Nat) : Bool :=
  match scope with
  | 0 => o = observerOf k
  | 1 => o < 768 && o / 48 = k.die && quadOf (o % 48) = quadOf k.core
  | 2 => o < 768 && o / 48 = k.die
  | 3 | 4 => o < 768
  | _ => o ≤ Config.hostObserver

def overlap (a n b m : Nat) : Bool := a < b + m && b < a + n

def Write.size (w : Write) : Nat := w.data.length

/-- Whether the write is in the view of observer o. -/
def Write.appliedAt (w : Write) (o : Nat) : Bool := (w.home && !w.left.contains o) || w.early.contains o

/-- Performed at a scope (07 R135): applied at the home and at every observer in the scope. -/
def Write.performedAt (w : Write) (scope : Nat) (k : CohKey) : Bool := w.home && w.left.all fun o => !inScope scope k o

/-- The plane engines of the cores in a scope have the write (16 R347). Log 147 (DEDUCED). -/
def Write.inEngines (w : Write) (scope : Nat) (k : CohKey) : Bool :=
  w.left.all fun o => o < engineBase || !inScope scope k (o - engineBase)

/-- Observers that causality within the package does not bind: the host, and the plane engines for copied bytes. -/
def unbound (o : Nat) : Bool := Config.hostObserver ≤ o

def State.write? (s : State) (id : Nat) : Option Write := s.writes.find? fun w => w.id = id
def State.modWrite (s : State) (id : Nat) (f : Write → Write) : State :=
  { s with writes := s.writes.map fun w => if w.id = id then f w else w }

def State.inFlight (s : State) (id : Nat) : Bool := s.writes.any fun w => w.id = id

/-- Width in bytes of a size code (08 R170). -/
def sizeBytes (ty : Nat) : Nat :=
  match ty with
  | 0 => 4 | 1 => 8 | 2 => 16 | 3 => 1 | _ => 2

def Load.size (l : Load) : Nat := sizeBytes l.ty
def Atomic.size (a : Atomic) : Nat := if a.wide then 8 else 4

/-- The fibre of a lane slot observes writes (07 R141). -/
def State.observe (s : State) (k : LaneKey) (ids : List Nat) : State :=
  s.modLane k fun l => { l with obs := (l.obs.filter s.inFlight) ++ ids.filter fun i => !l.obs.contains i }

/-- A late or fence effect of a fibre; nothing if its slot has been vacated. -/
def State.addLate (s : State) (k : LaneKey) (e : Effect) : State := s.modLane k fun l => { l with late := l.late ++ [{ e with cls := .late }] }
def State.addFence (s : State) (k : LaneKey) (e : Effect) : State := s.modLane k fun l => { l with fenceFx := l.fenceFx ++ [{ e with cls := .fence }] }

def hwBit : Nat := 2 ^ 63
/-- `k3` of a hardware effect with a detail (03 R61). -/
def hwDetail (d : Nat) : W64 := BitVec.ofNat 64 (hwBit + d % 2 ^ 63)

/-- Width code of a destination of n registers (03 R66). -/
def widthCode (n : Nat) : Nat := match n with | 2 => 1 | 4 => 2 | 14 => 3 | _ => 0

/-- MEMERR of a read (03 R61): the destination is recorded unwritten. -/
def memErr (va pc first count : Nat) (cpc : Option Nat) : Effect :=
  { tag := 10, k2 := BitVec.ofNat 64 va,
    k3 := hwDetail (if count = 0 then 0 else first + 128 + 512 * widthCode count), cpc := cpc, xpc := pc,
    unwritten := if count = 0 then none else some (first, widthCode count) }

/-- WFROZEN (03 R61): detail 0 at issue, 1 late. -/
def wfrozen (va pc : Nat) (late : Bool) (cpc : Option Nat) : Effect :=
  { tag := 5, k2 := BitVec.ofNat 64 va, k3 := hwDetail (if late then 1 else 0), cpc := cpc, xpc := pc }

/-! Atomic operations (11 R258). -/

def atomOp (op : Nat) (wide : Bool) (old b : Nat) : Nat :=
  let n := if wide then 64 else 32
  let f := if wide then f64 else f32
  match op with
  | 0 => (old + b) % 2 ^ n
  | 1 => if sextNat b n < sextNat old n then b else old
  | 2 => min old b
  | 3 => if sextNat old n < sextNat b n then b else old
  | 4 => max old b
  | 5 => old &&& b
  | 6 => old ||| b
  | 7 => old ^^^ b
  | 8 => b
  | 9 => (fadd f 0 old b).1
  | 10 => (fminmax f false true old b).1
  | _ => (fminmax f true true old b).1

/-! Writes. -/

/-- The number of the fibre in a lane slot. -/
def State.fibreOf (s : State) (k : LaneKey) : Nat := match s.lane? k with
  | some l => l.fibre
  | none => 0

/-- A write of the fibre in a lane slot, on a path: a matrix write counts for every lane of its octet. -/
def State.ownWrite (s : State) (k : LaneKey) (p : Path) (w : Write) : Bool :=
  w.path = p && w.src.coh = k.coh
    && (if p = .mtx then w.src.lane / 8 = k.lane / 8
        else (w.src.lane, w.fibre) = (k.lane, s.fibreOf k) || w.also.contains (k.lane, s.fibreOf k))

/-- A write that a fence of the fibre which names a path waits for: its own, or one that its write-backs carry (11 R270). -/
def State.pathWrite (s : State) (k : LaneKey) (p : Path) (w : Write) : Bool :=
  s.ownWrite k p w || (p = .lsu && match s.lane? k with
    | some l => l.backs.contains w.id
    | none => false)

/-- What a fibre has observed and is still in flight. -/
def State.observed (s : State) (k : LaneKey) : List Nat := match s.lane? k with
  | some l => l.obs.filter s.inFlight
  | none => []

/-- A write in flight that a new one of a lane, to bytes of its own, follows in the order of its path (07 R137, R138): one of its fibre on
the LSU path, or of a lower lane of its issue (11 R250); on the MTX path one of its octet, or of any product, which reads what it updates (12 R296). Log 148 (DESIGN CHOICE). -/
def State.pathBefore (s : State) (k : LaneKey) (path : Path) (batch : Nat) (w : Write) : Bool :=
  match path with
  | .lsu => s.ownWrite k .lsu w || (w.path = .lsu && w.src.coh = k.coh && w.batch = batch)
  | .mtx => w.path = .mtx
  | _ => false

/-- In-flight writes that a new access of lanes follows: what their fibres have observed, and overlapping writes that its path orders.
Log 148 (DESIGN CHOICE). -/
def State.depsOf (s : State) (ks : List LaneKey) (path : Path) (pa n batch : Nat) : List Nat :=
  dedup (ks.flatMap s.observed
    ++ (s.writes.filter fun w => overlap w.pa w.size pa n && ks.any fun k => s.pathBefore k path batch w).map fun w => w.id)

/-- Number shared by the writes of the issue that is running. -/
def State.batch (s : State) : Nat := 2 * s.issues + 2

/-- The scope at which the next LSU access of a lane acquires (13 R321). -/
def State.acquiresNext (s : State) (k : LaneKey) : Option Nat := (s.lane? k).bind fun l => l.acquires

/-- Lanes have made an LSU access: a posted fibre's first one takes its mark. -/
def State.noteAccess (s : State) (ks : List LaneKey) : State :=
  ks.foldl (fun (t : State) k => if (t.acquiresNext k).isSome then t.modLane k fun l => { l with acquires := none } else t) s

/-- A write leaves its fibre (07 R135), with what it has to follow (07 R141). -/
def State.addWrite (s : State) (w : Write) : State :=
  let keys := w.src :: w.also.map fun x => ⟨w.src.coh, x.1⟩
  let made (k : LaneKey) : List Nat := match s.lane? k with
    | some l => l.made.filter s.inFlight
    | none => []
  let first := if w.path = .lsu then keys.findSome? s.acquiresNext else none
  let s1 : State := { s with
    writes := s.writes ++ [{ w with
      id := s.nextId, fibre := s.fibreOf w.src, batch := s.batch, after := keys.flatMap made, acq := first
      deps := s.depsOf keys w.path w.pa w.size s.batch }]
    nextId := s.nextId + 1 }
  if w.path = .lsu then s1.noteAccess keys else s1

/-- An earlier load or atomic of the fibre to the same bytes is outstanding (07 R137). -/
def State.sameBytesAhead (s : State) (src : LaneKey) (id pa n : Nat) : Bool :=
  (s.loads.any fun l => l.src = src && decide (l.id < id) && overlap l.pa l.size pa n)
    || s.atomics.any fun a => a.src = src && decide (a.id < id) && a.reply.isNone && overlap a.pa a.size pa n

/-- Scopes of earlier accesses of the fibre that acquire and are outstanding (07 R145, R156; 13 R321). -/
def State.acquiring (s : State) (src : LaneKey) (id : Nat) : List Nat :=
  ((s.writes.filter fun w => w.src = src && decide (w.id < id)).filterMap fun w => w.acq.filter fun sc => !w.performedAt sc src.coh) ++
  ((s.loads.filter fun l => l.src = src && decide (l.id < id) && l.acq).map fun l => l.scope)
    ++ ((s.atomics.filter fun a => a.src = src && decide (a.id < id) && a.acq && a.reply.isNone).map fun a => a.scope)
    ++ (s.qwaits.filter fun q => q.key = src && decide (q.id < id)).map fun q => q.scope

/-- Whether a read or atomic of the fibre has to wait for an earlier access: its own core lies in every scope. Log 56 (DEDUCED). -/
def State.heldBack (s : State) (src : LaneKey) (id pa n : Nat) : Bool :=
  s.sameBytesAhead src id pa n || !(s.acquiring src id).isEmpty

/-- An LSU write may be performed at an observer: no earlier access of its fibre whose scope holds the observer acquires (07 R145). Log 56 (DEDUCED). -/
def State.acquiredFor (s : State) (w : Write) (o : Nat) : Bool :=
  w.path ≠ .lsu || (s.acquiring w.src w.id).all fun sc => !inScope sc w.src.coh o

/-- A write may be applied at its home, where the observers `lag` do not yet apply it (07 R142, R150). A causal predecessor is applied
wherever it is, but at the host; one of another home may come later, if no core applies this write before it. Log 32 (DESIGN CHOICE). -/
def State.homeDue (s : State) (w : Write) (lag : List Nat) : Bool :=
  let cores := List.range Config.hostObserver
  !w.home && !s.collecting w.pa && (w.path ≠ .lsu || !s.sameBytesAhead w.src w.id w.pa w.size)
    && ((w.path ≠ .lsu || (s.acquiring w.src w.id).isEmpty) || (isDevicePa w.pa && cores.all fun o => lag.contains o || s.acquiredFor w o))
    && w.deps.all fun d => match s.write? d with
      | none => true
      | some p =>
        if p.home then p.left.all fun o => unbound o || lag.contains o
        else isDevicePa w.pa && isDevicePa p.pa && homeDie p.pa ≠ homeDie w.pa && cores.all lag.contains

/-- A predecessor binds an observer (07 R142): at the host, only the fibre's own order of one location does (07 R137, R150). -/
def Write.binds (p w : Write) (o : Nat) : Bool :=
  !unbound o || (overlap p.pa p.size w.pa w.size && (p.src, p.fibre) = (w.src, w.fibre))

/-- A write may be applied at an observer: after its home, or, in host memory, before it. Log 32 (DESIGN CHOICE). -/
def State.observerDue (s : State) (w : Write) (o : Nat) : Bool :=
  !w.appliedAt o && (w.home || (isHostPa w.pa && w.red.isNone && !s.sameBytesAhead w.src w.id w.pa w.size)) && s.acquiredFor w o
    && w.deps.all fun d => match s.write? d with
      | none => true
      | some p => p.appliedAt o || !p.binds w o

/-- Keep the present view of an observer at the bytes of a write. Log 28 (DEDUCED). -/
def keepView (s : State) (o a : Nat) : Nat → List ((Nat × Nat) × Byte)
  | 0 => []
  | n + 1 => ((o, a), s.view o a) :: keepView s o (a + 1) n

def setViews (vs : List ((Nat × Nat) × Byte)) : List ((Nat × Nat) × Byte) → List ((Nat × Nat) × Byte)
  | [] => vs
  | (k, b) :: rest => setViews (insertKey vs k b) rest

/-- A write keeps an observer's view from following the home: it is applied at one of them, and its fibre has completed no fence that
names its path at a scope with the observer in it (07 R136). -/
def Write.unsettled (w : Write) (o a : Nat) : Bool :=
  (w.home || w.early.contains o) && decide (w.pa ≤ a) && decide (a < w.pa + w.size)
    && match w.fenced with
      | some sc => !inScope sc w.src.coh o
      | none => true

/-- What the view of an observer is without an overlay of its own: the home, or for the plane engines of a core the core's view. -/
def State.baseView (s : State) (o a : Nat) : Byte := if engineBase ≤ o then s.coreView (o - engineBase) a else Memory.read s.mem a

/-- Overlays that make no difference, or that no write keeps, are gone: the view is the home's (07 R136). Log 28 (DEDUCED). -/
def State.settleViews (s : State) : State :=
  { s with views := s.views.filter fun v => v.2 ≠ s.baseView v.1.1 v.1.2 && s.writes.any fun w => w.unsettled v.1.1 v.1.2 }

/-- A write that is applied everywhere leaves the list. -/
def State.retireWrites (s : State) : State :=
  { s with writes := s.writes.filter fun w => !(w.home && w.left.isEmpty) }.settleViews

/-- The lane slots of the octet of a lane (02 R30). -/
def octetLanes (lane : Nat) : List Nat := (List.range 8).map (8 * (lane / 8) + ·)

/-- SLOG record of an entry (22 R430). -/
def State.slogRecord (s : State) (k : CohKey) (e : SideEntry) (exited : Bool) : State :=
  let lane := match e.lanes with
    | x :: _ => x.lane
    | [] => 0
  s.alm k.die k.core 0x22 e.slot lane (e.idx + 2 ^ 8 * e.state + 2 ^ 12 * (e.cause % 256) + 2 ^ 20 * (if exited then 1 else 0))
    (BitVec.ofNat 64 (e.page % 2 ^ 57)) (some e.pc)

/-- The fibre of a number is still in a lane slot. -/
def State.fibreIs (s : State) (k : LaneKey) (fibre : Nat) : Bool := match s.lane? k with
  | some l => l.fibre = fibre
  | none => false

/-- The lane slot that a fibre is in, when it has been restored into another one. -/
def State.fibreSlot (s : State) (fibre : Nat) : Option LaneKey :=
  s.cohorts.findSome? fun c => (c.2.lanes.find? fun x => x.2.fibre = fibre).map fun x => ⟨c.1, x.1⟩

/-- A fence effect for a fibre, which was in a lane slot when it made the access: none is lost when the fibre has been saved or restored
elsewhere meanwhile (03 R58; 17 R375). One that has ended takes none (13 R319). -/
def State.addFenceTo (s : State) (k : LaneKey) (fibre : Nat) (e : Effect) : State :=
  if s.fibreIs k fibre then s.addFence k e
  else match s.fibreSlot fibre with
    | some k' => s.addFence k' e
    | none =>
      let take (l : SavedLane) : SavedLane :=
        if l.fibre = fibre then { l with fenceFx := l.fenceFx ++ [{ e with cls := .fence }] } else l
      { s with gangs := s.gangs.map fun (g : Gang) => { g with images := g.images.map fun (x : SavedImage) => { x with lanes := x.lanes.map take } } }

def State.modSide (s : State) (d c id : Nat) (f : SideEntry → SideEntry) : State :=
  s.modCore d c fun x => { x with sideLog := x.sideLog.map fun e => if e.id = id then f e else e }

def State.side? (s : State) (d c id : Nat) : Option SideEntry := (s.core d c).sideLog.find? fun e => e.id = id

/-- A replayed access is applied: its lane leaves the entry, which is freed with the last lane that stores (19 R399). -/
def State.sideApplied (s : State) (w : Write) : State :=
  match w.side with
  | none => s
  | some id =>
    let leave (e : SideEntry) : SideEntry := { e with lanes := e.lanes.filter fun x => x.lane ≠ w.src.lane }
    let done (e : SideEntry) : Bool := e.id = id && (e.lanes.isEmpty || (e.state = 2 && e.lanes.all fun x => x.data.isEmpty))
    (s.modSide w.src.coh.die w.src.coh.core id leave).modCore w.src.coh.die w.src.coh.core fun c =>
      { c with sideLog := c.sideLog.filter fun e => !done e }

/-- A replayed access is rejected at a frozen granule: its entry takes STATE 4 (19 R399). -/
def State.sideRejected (s : State) (w : Write) : State :=
  match w.side.bind fun id => s.side? w.src.coh.die w.src.coh.core id with
  | none => s
  | some e =>
    let e1 := { e with state := 4, lanes := e.lanes.filter fun x => s.fibreIs ⟨w.src.coh, x.lane⟩ x.fibre }
    ((s.modSide w.src.coh.die w.src.coh.core e.id fun _ => e1).modCore w.src.coh.die w.src.coh.core fun c =>
      { c with sideLog := c.sideLog.filter fun x => !(x.id = e.id && x.lanes.isEmpty) }).slogRecord w.src.coh e1 false

/-- A rejected write (07 R158): late WFROZEN on the LSU path at the next fence of its fibre, on the matrix path at the
next boundary of each lane of the octet (12 R300); a copy is marked (11 R266). -/
def State.rejectWrite (s : State) (w : Write) : State :=
  let s1 := State.sideRejected { s with writes := s.writes.filter fun x => x.id ≠ w.id } w
  let e := wfrozen w.va w.pc true none
  if w.job.isSome then
    { s1 with jobs := s1.jobs.map fun (j : Job) => if w.job = some j.id then { j with bad := true } else j }
  else if w.path = .mtx then (octetLanes w.src.lane).foldl (fun t n => t.addLate ⟨w.src.coh, n⟩ e) s1
  else
    let all := (w.src.lane, w.fibre) :: w.also
    all.foldl (fun (t : State) x => t.addFenceTo ⟨w.src.coh, x.1⟩ x.2 e) s1

/-- A home refuses a write for its partition (19 R408): the copy engine waits, or the fibre's gang has a fatal fault. Log 141 (DEDUCED). -/
def State.refuseWrite (s : State) (w : Write) : State :=
  let s1 := State.sideApplied { s with writes := s.writes.filter fun x => x.id ≠ w.id } w
  match w.job with
  | some id =>
    { s1 with jobs := s1.jobs.map fun (j : Job) => if j.id = id then { j with waiting := true } else j }.postFault w.src.coh.die
      (faultRec ⟨6, 0, 0⟩ 6 1 (BitVec.ofNat 64 w.va) 0 w.pc w.gang { w.src.coh with slot := 0 } (.engine id))
  | none => s1.homeFault w.src w.gang w.pc w.va (if w.red.isSome then 4 else 2) (if w.path = .mtx then 2 else 0)

/-- A reduction whose old value is uncorrectable writes nothing, and its fibre has a MEMERR (06 R134). Log 145 (DEDUCED). -/
def State.failReduction (s : State) (w : Write) : State :=
  let s1 := (State.sideApplied { s with writes := s.writes.filter fun x => x.id ≠ w.id } w).eccRecord w.src w.pa
  if s1.fibreIs w.src w.fibre then s1.addLate w.src (memErr w.va w.pc 0 0 none) else s1

/-- Stash sectors are taken from their pages: written back and not present (06 R125). One whose dirty data is uncorrectable cannot be
written back (06 R134). -/
def State.takeSectors (s : State) (gone : Nat × Nat → StashSector → Bool) : State :=
  let lost := s.cores.flatMap fun c => c.2.pages.flatMap fun p =>
    (p.sectors.filter fun x => gone c.1 x && x.dirty && s.badAt x.pa 128).map fun x => (c.1, p.gang, x.pa)
  let drop (c : Nat × Nat) (p : ScratchPage) : ScratchPage := { p with sectors := p.sectors.filter fun x => !gone c x }
  let s1 := { s with cores := s.cores.map fun c => (c.1, { c.2 with pages := c.2.pages.map (drop c.1) }) }
  lost.foldl (fun (t : State) x => t.writeBackFails x.1.1 x.1.2 x.2.1 x.2.2) s1

/-- Whether a home takes a sector back when a party accesses its global location (06 R125): `via` is the core of the stash page that the
access goes through, and `key` the core of the access. -/
def recalls (pa : Nat) (key : CohKey) (via : Option (Nat × Nat)) (c : Nat × Nat) (x : StashSector) : Bool :=
  decide (x.pa ≤ pa) && decide (pa < x.pa + 128) && (match via with
    | some v => c ≠ v
    | none => c ≠ (key.die, key.core))

/-- What a write at a location does to scratch pages (06 R124, R125): it marks the sector of a page, or of the stash page that it goes
through, DIRTY; another party's makes the home recall a stash sector. -/
def State.touchPages (s : State) (pa : Nat) (key : CohKey) (via : Option (Nat × Nat)) : State :=
  let mark (c : Nat × Nat) (p : ScratchPage) : ScratchPage :=
    if scratchBase ≤ pa then
      let sec := (pa - scratchBase) % pageBytes / 128
      if p.id = (pa - scratchBase) / pageBytes && !p.dirty.contains sec then { p with dirty := sec :: p.dirty } else p
    else if via = some c then
      { p with sectors := p.sectors.map fun x => if x.pa ≤ pa && pa < x.pa + 128 then { x with dirty := true } else x }
    else p
  let s1 := { s with cores := s.cores.map fun c => (c.1, { c.2 with pages := c.2.pages.map (mark c.1) }) }
  if scratchBase ≤ pa then s1 else s1.takeSectors (recalls pa key via)

/-- The address of a piece of 16 bytes of a copy. -/
def Job.addr (base rowBytes stride space p : Nat) : Nat :=
  let a := base + 16 * p / rowBytes * stride + 16 * p % rowBytes
  if space = 1 then a % 2 ^ 64 else a % 2 ^ 32

def Job.srcAt (j : Job) (p : Nat) : Nat := Job.addr j.src j.rowBytes j.srcStride j.srcSpace p
def Job.dstAt (j : Job) (p : Nat) : Nat := Job.addr j.dst j.rowBytes j.dstStride j.dstSpace p

/-- The copy's destination holds the other half of the unit of 32 bytes in which its piece p lies. Log 26 (DEDUCED). -/
def Job.wholeUnit (j : Job) (p : Nat) : Bool :=
  (List.range j.count).any fun q => j.dstAt q = j.dstAt p ^^^ 16

/-- What a write at its home does to an uncorrectable unit (06 R482): one access that covers all of it, or a copy that has written
every byte of it, makes it good; a write that covers a part of it only is recorded. Log 26 (DEDUCED). -/
def State.coverUnits (s : State) (w : Write) : State :=
  let record (s : State) : State := s.eccEvent w.src w.pa false
  match w.job.bind fun id => s.jobs.find? fun j => j.id = id with
  | none =>
    let s1 := s.goodUnits w.pa w.size
    if s1.badAt w.pa w.size then record s1 else s1
  | some j =>
    if !s.badAt w.pa w.size then s
    else
      let now := j.covered ++ (List.range w.size).map (w.pa + ·)
      let full (u : Nat) : Bool := (List.range 32).all fun i => now.contains (32 * u + i)
      let s1 := { s with
        bad := s.bad.filter fun u => !full u
        jobs := s.jobs.map fun (k : Job) => if k.id = j.id then { k with covered := now } else k }
      if j.wholeUnit w.piece || w.pa % 16 ≠ 0 then s1 else record s1

/-- A write is applied at its home (07 R135, R136), and at every observer but those in `lag` and those that came first. A frozen
granule rejects it (07 R158). A reduction that names `.SYS` is recorded here. Log 8 (DEDUCED). Log 93 (DEDUCED). -/
def State.applyHome (s : State) (w : Write) (lag : List Nat) : State :=
  if s.homeRefuses w.src.coh.die w.gang w.pa then s.refuseWrite w
  else if s.frzCount w.pa ≠ 0 then s.rejectWrite w
  else if w.red.isSome && s.badAt w.pa w.size then s.failReduction w
  else
    let data := match w.red with
      | none => w.data
      | some (op, ty) => toBytes (atomOp op (ty = 1) (s.homeNat w.pa w.size) (ofBytes w.data)) w.size
    let keep := (dedup (lag ++ w.early)).flatMap fun o => keepView s o w.pa w.size
    let s1 := s.coverUnits w
    let s2 := { s1 with
      mem := Memory.writeN s1.mem w.pa data
      views := setViews (s1.views.filter fun v => !(w.pa ≤ v.1.2 && v.1.2 < w.pa + w.size)) keep
      writes := s1.writes.map fun (x : Write) =>
        if x.id = w.id then { x with home := true, data := data, left := lag.filter fun o => !x.early.contains o } else x }
    let s3 := if w.sys && w.red.isSome then
        s2.almLane w.src 0x24 ((w.red.getD (0, 0)).1 + 256) (BitVec.ofNat 64 w.va) (some (ofBytes w.data)) else s2
    ((s3.touchPages w.pa w.src.coh w.stash).sideApplied w).retireWrites

/-- A write is applied at one observer. Log 8 (DEDUCED). -/
def State.applyObserver (s : State) (w : Write) (o : Nat) : State :=
  let s1 := { s with
    views := setViews s.views ((List.range w.size).map fun i => ((o, w.pa + i), w.data.getD i 0))
    writes := s.writes.map fun (x : Write) =>
      if x.id = w.id then
        (if x.home then { x with left := x.left.filter fun y => y ≠ o } else { x with early := o :: x.early })
      else x }
  s1.retireWrites

/-! Loads. -/

/-- Extension of a narrow datum (11 R249): C 4 to 7. -/
def extendDatum (ext x : Nat) : Nat :=
  match ext with
  | 4 => truncInt (sextNat x 8) 32
  | 6 => truncInt (sextNat x 16) 32
  | _ => x

def wordsOf (x : Nat) : Nat → List W32
  | 0 => []
  | n + 1 => BitVec.ofNat 32 x :: wordsOf (x / 2 ^ 32) n

def loadWords (ty ext x : Nat) : List W32 :=
  match ty with
  | 1 => wordsOf x 2
  | 2 => wordsOf x 4
  | 0 => wordsOf x 1
  | _ => [BitVec.ofNat 32 (extendDatum ext x)]

/-- The fibre's own latest earlier store of a byte that its observer has not applied (07 R137). -/
def State.ownStore (s : State) (src : LaneKey) (id a : Nat) : Option Write :=
  (s.writes.filter fun w => s.ownWrite src .lsu w && decide (w.id < id) && !w.appliedAt (observerOf src.coh)
      && decide (w.pa ≤ a) && decide (a < w.pa + w.size)).getLast?

/-- What an access of a fibre reads: its own earlier stores, else its core's view. -/
def State.fibreView (s : State) (src : LaneKey) (id a : Nat) : Nat → List Byte
  | 0 => []
  | n + 1 =>
    (match s.ownStore src id a with
      | some w => w.data.getD (a - w.pa) 0
      | none => s.view (observerOf src.coh) a) :: s.fibreView src id (a + 1) n

/-- Writes in flight whose value an access of a fibre may return (07 R141): its own store of a byte, else those that its observer has
applied there. -/
def State.seenWrites (s : State) (src : LaneKey) (id a : Nat) : Nat → List Nat
  | 0 => []
  | n + 1 =>
    (match s.ownStore src id a with
      | some w => [w.id]
      | none => (s.writes.filter fun w => w.appliedAt (observerOf src.coh) && decide (w.pa ≤ a) && decide (a < w.pa + w.size)).map
          fun w => w.id) ++ s.seenWrites src id (a + 1) n

/-- A load may be performed: no earlier access that it must follow is outstanding (07 R137, R145). -/
def State.loadDue (s : State) (l : Load) : Bool :=
  !s.heldBack l.src l.id l.pa l.size
    && s.writes.all fun w => !(w.src = l.src && decide (w.id < l.id) && w.red.isSome && overlap w.pa w.size l.pa l.size)
        || w.appliedAt (observerOf l.src.coh)

/-- A load is performed and lands (11 R256); uncorrectable data gives MEMERR (06 R134). -/
def State.performLoad (s : State) (l : Load) : State :=
  let s1 := { s with loads := s.loads.filter fun x => x.id ≠ l.id }
  let words := loadWords l.ty l.ext (ofBytes (s.fibreView l.src l.id l.pa l.size))
  if s.homeRefuses l.src.coh.die l.gang l.pa then s1.homeFault l.src l.gang l.pc l.va 1 0
  else if s.badAt l.pa l.size then
    ((s1.modLane l.src fun x => x.unpend l.id).addLate l.src (memErr l.va l.pc l.first words.length none)).eccRecord l.src l.pa
  else
    (s1.modLane l.src fun x => x.land l.id words).observe l.src (dedup (s.seenWrites l.src l.id l.pa l.size))

/-! Atomics. -/

/-- An atomic may be performed: its predecessors are applied everywhere, but for the host, and the earlier overlapping atomics of its fibre
and of the lower lanes of its issue are performed (11 R250). -/
def State.atomicDue (s : State) (a : Atomic) : Bool :=
  a.reply.isNone && !s.collecting a.pa && !s.heldBack a.src a.id a.pa a.size
    && (a.deps.all fun d => match s.write? d with
      | none => true
      | some p => p.home && p.left.all unbound)
    && s.atomics.all fun b =>
      !(b.src.coh = a.src.coh && (b.src = a.src || b.batch = a.batch) && decide (b.id < a.id) && b.reply.isNone
        && overlap b.pa b.size a.pa a.size)

/-- A home rejects an ATOM or ACAS at a frozen granule (11 R260): the lane raises WFROZEN at the atomic, ahead of anything else that is
due to it, and has issued nothing since. Log 139 (DESIGN CHOICE). -/
def State.rejectAtomic (s : State) (a : Atomic) : State :=
  { s with atomics := s.atomics.filter fun x => x.id ≠ a.id }.modLane a.src fun l =>
    { l.unpend a.id with late := wfrozen a.va a.pc false (some a.pc) :: l.late }

/-- The value that an atomic leaves at its location (11 R258, R259). -/
def Atomic.result (a : Atomic) (old : Nat) : Nat :=
  match a.cmp with
  | some c => if old = c.toNat % 2 ^ (8 * a.size) then a.b.toNat % 2 ^ (8 * a.size) else old
  | none => atomOp a.op a.wide old (a.b.toNat % 2 ^ (8 * a.size))

/-- The reply of an atomic lands in its fibre (11 R259): the old value, and the writes that its home had applied. -/
def State.landAtomic (s : State) (a : Atomic) (old : Nat) (seen : List Nat) : State :=
  let s1 := { s with atomics := s.atomics.filter fun x => x.id ≠ a.id }
  let s2 := (s1.modLane a.src fun x => x.land a.id (wordsOf old (if a.wide then 2 else 1))).observe a.src seen
  if a.scope = 5 then
    s2.almLane a.src 0x24 (a.op + (if a.cmp.isSome then 128 else 0)) (BitVec.ofNat 64 a.va) (some a.b.toNat)
  else s2

/-- The home of an atomic gives it no old value: it refuses it, rejects it, or the data is uncorrectable. -/
def State.atomicFails (s : State) (a : Atomic) : Bool :=
  s.homeRefuses a.src.coh.die a.gang a.pa || s.frzCount a.pa ≠ 0 || s.badAt a.pa a.size

/-- What an atomic does at its home, as one step (11 R259, R260). A global one that writes nothing makes the home recall a stash
sector as well (07 R149). Log 31 (DESIGN CHOICE). -/
def State.atomicHome (s : State) (a : Atomic) : State :=
  let old := s.homeNat a.pa a.size
  let new := a.result old
  if a.cmp.isSome && new = old then
    (if a.stash.isNone && isDevicePa a.pa then s.takeSectors (recalls a.pa a.src.coh none) else s)
  else (s.storeAs a.src a.pa (toBytes new a.size)).touchPages a.pa a.src.coh a.stash

/-- An atomic is performed at its home. Its reply lands at once, or waits for a die whose clock is stopped (15 R341). -/
def State.performAtomic (s : State) (a : Atomic) : State :=
  let s1 := { s with atomics := s.atomics.filter fun x => x.id ≠ a.id }
  if s.homeRefuses a.src.coh.die a.gang a.pa then s1.homeFault a.src a.gang a.pc a.va 3 0
  else if s.frzCount a.pa ≠ 0 then s.rejectAtomic a
  else if s.badAt a.pa a.size then
    ((s1.modLane a.src fun x => x.unpend a.id).addLate a.src (memErr a.va a.pc a.first (if a.wide then 2 else 1) none)).eccRecord a.src a.pa
  else
    let old := s.homeNat a.pa a.size
    let seen := (s.writes.filter fun w => w.home && overlap w.pa w.size a.pa a.size).map fun w => w.id
    let s2 := s.atomicHome a
    if s.awake a.src.coh.die then s2.landAtomic a old seen
    else { s2 with atomics := s2.atomics.map fun x => if x.id = a.id then { x with reply := some (old, seen) } else x }

/-- The lanes of a cohort are about to issue: the home of each atomic that they have under way has taken it, or rejects it (11 R260).
Log 139 (DESIGN CHOICE). -/
def State.takeAtomics (s : State) (k : CohKey) (mask : W64) : State :=
  let mine := s.atomics.filter fun a => a.src.coh = k && mask.getLsbD a.src.lane && !a.taken && a.reply.isNone
  let one (t : State) (a : Atomic) : State :=
    if t.frzCount a.pa ≠ 0 then t.rejectAtomic a
    else { t with atomics := t.atomics.map fun x => if x.id = a.id then { x with taken := true } else x }
  foldState one mine s

/-- The numbers of the writes of a list and of their predecessors in flight. -/
def State.withDeps (s : State) (ids : List Nat) : Nat → List Nat
  | 0 => ids
  | fuel + 1 =>
    let more := (s.writes.filter fun w => ids.contains w.id).flatMap fun w => (w.deps ++ w.after).filter fun d => !ids.contains d && s.inFlight d
    if more.isEmpty then ids else s.withDeps (ids ++ more) fuel

/-! Which dies act (15 R341, 23 R450). -/

/-- The dies whose cores hold a sector that an access recalls (06 R125). A load recalls none, and a dirty one serves it. -/
def State.holderDies (s : State) (pa : Nat) (key : CohKey) (via : Option (Nat × Nat)) (load : Bool) : List Nat :=
  (s.cores.filter fun c => c.2.pages.any fun p => p.sectors.any fun x => recalls pa key via c.1 x && (!load || x.dirty)).map fun c => c.1.1

/-- A host link is trained. -/
def State.hostLinkUp (s : State) (link : Nat) : Bool := s.sec.links.getD link 0 ≠ 0

/-- The host link by which a die's accesses to host memory leave: the trained one nearest by hops, the lower die on a tie (21 R416, 25 R483). -/
def State.hostPath (s : State) (d : Nat) : Option Nat :=
  ((List.range 4).filter s.hostLinkUp).foldl (fun best l => match best with
    | none => some l
    | some b => if hops d (5 * l) < hops d (5 * b) then some l else best) none

/-- A die's access to host memory may leave by its link; with none trained it waits. Log 162 (DEDUCED). -/
def State.hostReach (s : State) (d : Nat) : Bool :=
  match s.hostPath d with
  | some l => s.awake (5 * l)
  | none => false

/-- What an access meets at its home may act: the home die or the link to the host, a stash page that it goes through, the holders of its
sector; the die of the page for scratch. -/
def State.homeAwake (s : State) (pa : Nat) (key : CohKey) (via : Option (Nat × Nat)) (load : Bool) : Bool :=
  if scratchBase ≤ pa then
    s.cores.all fun c => s.awake c.1.1 || c.2.pages.all fun p => p.id ≠ (pa - scratchBase) / pageBytes
  else (if isHostPa pa then s.hostReach key.die else s.awake (homeDie pa))
    && (match via with
      | some v => s.awake v.1
      | none => true)
    && (s.holderDies pa key via load).all s.awake

/-- The die of an observer. -/
def observerAwake (s : State) (o : Nat) : Bool :=
  o = Config.hostObserver || s.awake ((if engineBase ≤ o then o - engineBase else o) / Config.cores)

/-- What a write does at its home reaches back to its core: a rejection, a refusal, a MEMERR, a replay's end, an Almanac record. -/
def State.writeReplies (s : State) (w : Write) : Bool :=
  s.homeRefuses w.src.coh.die w.gang w.pa || s.frzCount w.pa ≠ 0 || w.side.isSome
    || (w.red.isSome && (w.sys || s.badAt w.pa w.size))

/-- A write's home may apply it, at every observer but those in `lag`: their dies' clocks run, and its own die's where a reply goes back. -/
def State.writeAwake (s : State) (w : Write) (lag : List Nat) : Bool :=
  s.homeAwake w.pa w.src.coh w.stash false && (s.awake w.src.coh.die || !s.writeReplies w)
    && (decide (scratchBase ≤ w.pa) || (List.range Config.dies).all fun d =>
      s.awake d || (List.range Config.cores).all fun c => lag.contains (d * Config.cores + c) || w.early.contains (d * Config.cores + c))

end Sys2Proof.Machine
end

