-- ==== Sys2Proof/Machine/Faults.lean ====
section
/-! DEFINITION. What a fatal fault brings (03 R75, 06 R117, 17 R370, 19 R393): the abort of the gang, failed side-log entries, dropped
engine work, and the record's end. -/

namespace Sys2Proof.Machine

/-- Abort after a fatal fault, a fatal scratch access or altered frame heap outside a capture: no effect was raised, so the tag is
one that no rule states. Log 11 (DEDUCED). Log 39 (DESIGN CHOICE). -/
def State.abortFatal (s : State) (k : LaneKey) (pc : Nat) : State :=
  let (v, s1) := s.drawValue
  s1.abortGang k (v.toNat % 256) pc

/-! Held lanes. -/

def State.dropHold (s : State) (id : Nat) : State := { s with holds := s.holds.filter fun h => h.id ≠ id }
def State.modHold (s : State) (id : Nat) (f : Hold → Hold) : State :=
  { s with holds := s.holds.map fun h => if h.id = id then f h else h }

/-- The lanes that a hold still has. -/
def State.holdLanesOf (s : State) (h : Hold) : List LaneKey :=
  (maskList h.mask).filterMap fun n => match s.lane? ⟨h.coh, n⟩ with
    | some l => if l.status = .held h.id then some ⟨h.coh, n⟩ else none
    | none => none

/-- The gang of a cohort is aborted after a fatal reply (17 R370). -/
def State.fatalHold (s : State) (h : Hold) : State :=
  match s.holdLanesOf h with
  | k :: _ => s.abortFatal k h.pc
  | [] => s

/-! Side-log entries. -/

/-- The entry covers an address. -/
def SideEntry.holds (e : SideEntry) (va : Nat) : Bool :=
  let n := if e.psize = 4 then 4096 else pageSize e.psize
  e.page ≤ va && va < e.page + n

/-- A side-log entry that waits or replays, of a fibre of the core (step 3). Log 54 (DEDUCED). -/
def SideEntry.openFor (e : SideEntry) (fibre : Nat) : Bool := (e.state = 1 || e.state = 2) && e.fibres.contains fibre

/-- The open side-log entry of a fibre for the page of an address (07 R161). Log 54 (DEDUCED). -/
def State.loggedFor (s : State) (k : LaneKey) (va : Nat) : Option SideEntry :=
  let fibre := s.fibreOf k
  (s.core k.coh.die k.coh.core).sideLog.find? fun e => e.openFor fibre && e.holds va

/-- WFAULT of a failed entry (03 R61). -/
def wfault (va : Nat) (cause pc : Nat) : Effect :=
  { tag := 4, k2 := BitVec.ofNat 64 va, k3 := hwDetail cause, cpc := none, xpc := pc, cls := .fence }

/-- An entry fails: WFAULT falls due to its fibres; lanes whose fibre has ended leave it. -/
def State.failSide (s : State) (d c : Nat) (e : SideEntry) (cause : Nat) : State :=
  let k : CohKey := ⟨d, c, e.slot⟩
  let alive := e.lanes.filter fun x => s.fibreIs ⟨k, x.lane⟩ x.fibre
  let e1 := { e with state := 3, cause := cause, word := none }
  let s1 := (s.modSide d c e.id fun _ => { e1 with lanes := alive }).slogRecord k e1 alive.isEmpty
  let s2 := foldState (fun (t : State) x => t.addFenceTo ⟨k, x.lane⟩ x.fibre (wfault x.va cause e.pc)) e.lanes s1
  s2.modCore d c fun x => { x with sideLog := x.sideLog.filter fun y => !(y.id = e.id && y.lanes.isEmpty) }

/-- Entries of a core that wait, of the page of an address. -/
def State.waitingSide (s : State) (d c va : Nat) : List SideEntry :=
  (s.core d c).sideLog.filter fun e => e.state = 1 && e.holds va

/-- Entries that wait on a record: those that it was written for, and those of their fibres that followed them into the log. Log 55 (DEDUCED). -/
def State.recordSide (s : State) (d c : Nat) (r : FaultRec) : List SideEntry :=
  let es := s.waitingSide d c r.va.toNat
  let own := es.filter fun e => e.rid = r.rid
  es.filter fun e => e.rid = r.rid || (e.rid = 0 && own.any fun o => o.fibres.any e.fibres.contains)

/-! Engines. -/

def State.modJob (s : State) (j : Job) : State := { s with jobs := s.jobs.map fun x => if x.id = j.id then j else x }
def State.dropJob (s : State) (j : Job) : State := { s with jobs := s.jobs.filter fun x => x.id ≠ j.id }

def State.waitingJob (s : State) (id : Nat) : Option Job := s.jobs.find? fun j => j.id = id && j.waiting
def State.waitingOp (s : State) (id : Nat) : Option MatOp := s.matOps.find? fun x => x.id = id && x.waiting

def State.engineFatal (s : State) (id : Nat) : State :=
  match s.waitingJob id, s.waitingOp id with
  | some j, _ => (s.dropJob j).abortEngine j.key j.gang j.pc
  | none, some x => s.abortEngine ⟨x.key, x.owner⟩ x.gang x.pc
  | none, none => s

/-! The fatal reply. -/

/-- A record that asks for no reply (19 R395). -/
def FaultRec.oneWay (r : FaultRec) : Bool := r.path = 6 || r.path = 7

/-- *fatal*: the record's entries fail, and its gang is aborted. Log 55 (DEDUCED). -/
def State.replyFatal (s : State) (d : Nat) (r : FaultRec) : State :=
  match r.waiter with
  | .lanes id => match s.holds.find? fun h => h.id = id with
    | some h => s.fatalHold h
    | none => s
  | .side c _ =>
    let es := s.recordSide d c r
    let s1 := foldState (fun (t : State) e => t.failSide d c e r.cause) es s
    if es.isEmpty then s1 else s1.abortEngine ⟨⟨d, c, r.slot⟩, (maskList r.mask).headD 0⟩ r.gang r.pc
  | .engine id => s.engineFatal id
  | .home key pc => s.abortEngine key r.gang pc
  | .none => s

/-- A record retires with its reply (17 R370, 22 R430). -/
def State.retireFault (s : State) (d : Nat) (r : FaultRec) (outcome : Nat) : State :=
  (s.modDie d fun x => { x with out := x.out.filter fun y => y.rid ≠ r.rid, frq := x.frq.filter fun y => y.rid ≠ r.rid }).alm d r.core 0x21 r.slot
    0 outcome (r.rid.setWidth 64)

/-- Every record of a die that is outstanding is answered *fatal* (17 R359). -/
def State.answerFatal (s : State) (d : Nat) : State :=
  foldState (fun (t : State) r => (t.retireFault d r 2).replyFatal d r)
    (((s.die d).frq ++ (s.die d).out).filter fun r => !r.oneWay) s

end Sys2Proof.Machine
end

