-- ==== Sys2Proof/Machine/Stash.lean ====
section
/-! DEFINITION. Touching scratch pages (06 R123, R125, R127): refill of an evicted page, fill of a stash sector, and where the
bytes of a scratch address are. -/

namespace Sys2Proof.Machine

/-- A touch gives an evicted page a physical page and pins it (06 R123). The page's sectors then refill at their first touch. -/
def ScratchPage.touchPhysical (p : ScratchPage) : ScratchPage :=
  if p.physical then p else { p with physical := true, pinned := true, absent := List.range 128 }

/-- Why a stash sector is not filled: its translation faults, or a supervisor's address, which is physical, is refused (17 R355). -/
inductive FillErr where
  | fault (f : XFault)
  | refused
  deriving DecidableEq, Repr

/-- The pages of a supervisor's cohort are those of no gang. -/
def ScratchPage.priv (p : ScratchPage) : Bool := p.gang = 0

/-- The global address of a byte of a stash page; a supervisor's is physical (19 R388). -/
def ScratchPage.globalAt (p : ScratchPage) (off : Nat) : W64 :=
  let a := p.stash.getD 0 + off
  if p.priv then BitVec.ofNat 64 (a % 2 ^ 57) else va57 a

/-- Fill the sector of a stash page (06 R125): a translated copy of the sector, with the permissions found. A sector that is
present stays; a plain page's sector refills. -/
def State.touchSector (s : State) (d c : Nat) (p : ScratchPage) (sec : Nat) : Except FillErr ScratchPage × State :=
  let p1 := p.touchPhysical
  let p2 := { p1 with absent := p1.absent.filter fun x => x ≠ sec }
  let put (q : ScratchPage) (t : State) : State := t.modCore d c fun x => x.modPage p.id fun _ => q
  if p.stash.isNone || p.sectors.any fun x => x.idx = sec then (if p2 = p then (.ok p, s) else (.ok p2, put p2 s))
  else
    match s.reach d c p.priv (p.globalAt (128 * sec)) .stashFill with
    | (.fault f, s1) => (.error (.fault f), s1)
    | (.refused, s1) => (.error .refused, s1)
    | (.at x, s1) =>
      let q := { p2 with sectors := ⟨sec, x.pa, p.priv || pteW x.pte, s1.frzCount x.pa ≠ 0, false⟩ :: p2.sectors }
      (.ok q, put q s1)

/-- The first sector of a byte range of a page to the last. -/
def sectorsOf (off n : Nat) : List Nat := (List.range ((off + n - 1) / 128 + 1 - off / 128)).map (off / 128 + ·)

def State.touchSectors (s : State) (d c : Nat) (p : ScratchPage) : List Nat → Except (FillErr × Nat) ScratchPage × State
  | [] => (.ok p, s)
  | sec :: rest =>
    match s.touchSector d c p sec with
    | (.error f, s1) => (.error (f, (p.globalAt (128 * sec)).toNat), s1)
    | (.ok q, s1) => s1.touchSectors d c q rest

/-- What a party finds at a scratch address of a group. -/
inductive ScratchAt where
  | fatal
  | fault (f : XFault) (va : Nat)
  | refused (va : Nat)
  /-- A location; the core whose page names it by a stash sector; the sector's write permission and frozen mark; and the global address. -/
  | at (pa : Nat) (stash : Option (Nat × Nat)) (writable frozen : Bool) (va : Nat)
  deriving DecidableEq, Repr

/-- Touch n bytes at a scratch address, within one sector of a page, and find their location. -/
def State.scratchAt (s : State) (d c gang role member va n : Nat) : ScratchAt × State :=
  match s.scratchPage d c gang role member va with
  | none => (.fatal, s)
  | some p =>
    let off := va % pageBytes
    match s.touchSectors d c p (sectorsOf off n) with
    | (.error (.fault f, g), s1) => (.fault f g, s1)
    | (.error (.refused, g), s1) => (.refused g, s1)
    | (.ok q, s1) =>
      match q.sectors.find? fun x => x.idx = sectorOf off && q.stash.isSome with
      | some x => (.at (q.loc off) (some (d, c)) x.writable x.frozen (q.globalAt off).toNat, s1)
      | none => (.at (q.loc off) none true false va, s1)

end Sys2Proof.Machine
end

