-- ==== Sys2Proof/Machine/MatrixCore.lean ====
section
/-! DEFINITION. The plane engines' arithmetic (05 R106 to R114, 12 R281 to R304): tensor descriptors, where elements lie, one
k-step of a product, and the tiles of MZERO, QUANT, DEQ and SPZ, as reads of scratch bytes and lists of byte writes. -/

namespace Sys2Proof.Machine

/-! Tensor descriptors (12 R281). -/

def tKind (t : Nat) : Nat := bits t 3 0
def tFmt (t : Nat) : Nat := bits t 6 4
def tP (t : Nat) : Nat := bits t 11 8
def tRP (t : Nat) : Nat := bits t 15 12
def tBlk (t : Nat) : Nat := 16 * 2 ^ bits t 17 16
def tSC (t : Nat) : Bool := bit t 18
def tN (t : Nat) : Nat := [2, 3, 4, 6].getD (bits t 22 20) 6
def tBase (t : Nat) : Nat := bits t 63 32
def tSBase (t : Nat) : Nat := bits t 95 64
def tMBase (t : Nat) : Nat := bits t 127 96
def tL (t : Nat) : Nat := bits t 144 128
def tK (t : Nat) : Nat := bits t 184 160
def tStride (t : Nat) : Nat := bits t 223 192

def ceilDiv (a b : Nat) : Nat := (a + b - 1) / b

/-- Stored elements of a line: K, or K' for KIND 2 (05 R110). -/
def tStored (t : Nat) : Nat := if tKind t = 2 then ceilDiv (tK t) 12 * tN t else tK t

/-- Bytes of an element of KIND 3 or 4. -/
def tSize (t : Nat) : Nat :=
  if tKind t = 4 then (if tFmt t = 1 then 8 else 4) else (fmtOf (tFmt t)).width / 8

/-- The block length for scales: 128 where there is no scale table (12 R294). -/
def tUnit (t : Nat) : Nat := if tSC t then tBlk t else 128

/-- The checks of TDEF (12 R282). -/
def tensorOk (t : Nat) : Bool :=
  let k := tKind t
  let scratch (a al : Nat) : Bool := a % al = 0 && a < 2 ^ 20
  1 ≤ k && k ≤ 4
    && t / 2 ^ 224 = 0 && bits t 191 185 = 0 && bits t 159 145 = 0 && bits t 31 23 = 0 && !bit t 19 && !bit t 7
    && 1 ≤ tL t && tL t ≤ 65536 && 1 ≤ tK t && tK t ≤ 2 ^ 24
    && scratch (tBase t) 64
    && (if k ≤ 2 then
          2 ≤ tP t && tP t ≤ 8 && 2 ≤ tRP t && tRP t ≤ tP t && tFmt t = 0 && tStride t = 0
            && (if tSC t then scratch (tSBase t) 16 else tSBase t = 0 && bits t 17 16 = 0)
        else
          bits t 18 8 = 0 && tSBase t = 0 && tStride t % 16 = 0
            && (if k = 3 then tFmt t ≤ 5 else tFmt t ≤ 2) && tK t * tSize t ≤ tStride t)
    && (if k = 2 then bits t 22 20 ≤ 3 && scratch (tMBase t) 16 else bits t 22 20 = 0 && tMBase t = 0)

/-! Element addresses. -/

/-- The byte of a plane that holds stored element k of a line (05 R107). -/
def planeAddr (t line k j : Nat) : Nat := tBase t + ((k / 256 * tP t + j) * tL t + line) * 32 + k % 256 / 8
/-- The scale byte of a block (05 R108). -/
def scaleAddr (t line b : Nat) : Nat :=
  tSBase t + line * (ceilDiv (ceilDiv (tStored t) (tBlk t)) 16 * 16) + b
/-- The index byte of a stored element (05 R110). -/
def metaAddr (t line m : Nat) : Nat := tMBase t + line * (ceilDiv (ceilDiv (tStored t) 2) 16 * 16) + m / 2
/-- An element of KIND 3 or 4 (12 R283). -/
def elemAddr (t line k : Nat) : Nat := tBase t + line * tStride t + k * tSize t

/-- The plane value of the first p planes (05 R106). -/
def pniRead (rd : Nat → Nat) (t line k p : Nat) : Int :=
  sextNat ((List.range p).foldl (fun v j => 2 * v + rd (planeAddr t line k j) / 2 ^ (k % 8) % 2) 0) p

def elemRead (rd : Nat → Nat) (t line k : Nat) : Nat :=
  (List.range (tSize t)).foldl (fun v i => v + rd (elemAddr t line k + i) * 2 ^ (8 * i)) 0

/-- The scale of a stored element: 127 without a table. -/
def scaleRead (rd : Nat → Nat) (t line k : Nat) : Nat := if tSC t then rd (scaleAddr t line (k / tBlk t)) else 127

def nibble (rd : Nat → Nat) (t line m : Nat) : Nat := rd (metaAddr t line m) / 16 ^ (m % 2) % 16

/-! Products (12 R294). -/

/-- An input flushed to zero: its scaled value is subnormal in binary32 (05 R105). Log 36 (DEDUCED). -/
def flushIn (ftz : Bool) (v : Int) (e : Nat) : Int :=
  if ftz && decide ((bitLen v.natAbs : Int) - 1 + e - 127 < -126) then 0 else v

/-- One unit of a block-scaled product (05 R109): the sum, its scales, the accumulator. -/
def scaledUnit (mode : Nat) (ftz : Bool) (sum : Int) (ea eb : Nat) (acc : FRes) : FRes :=
  let c : FRes := if ea = 255 || eb = 255 then (qnan f32, flagNV)
    else roundVal f32 mode (ofInt sum ((ea : Int) - 127 + ((eb : Int) - 127)) false) ftz
  let r := exactSum mode [fvalue f32 acc.1, fvalue f32 c.1]
  let r := join f32 mode r ftz
  (r.1, acc.2 ||| c.2 ||| r.2)

/-- MMA under a binary32 accumulator, for the units that lie in a k-step. -/
def mmaScaled (rd : Nat → Nat) (ta tb la lb s mode : Nat) (ftz : Bool) (acc : Nat) : FRes :=
  let u := min (tUnit ta) (tUnit tb)
  (List.range (256 / u)).foldl (fun (r : FRes) i =>
    let k0 := 256 * s + i * u
    if tK tb ≤ k0 then r
    else
      let ea := scaleRead rd ta la k0
      let eb := scaleRead rd tb lb k0
      let ks := (List.range u).filter fun q => k0 + q < tK tb
      let sum := (ks.map fun q => flushIn ftz (pniRead rd ta la (k0 + q) (tRP ta)) ea
        * flushIn ftz (pniRead rd tb lb (k0 + q) (tRP tb)) eb).sum
      scaledUnit mode ftz sum ea eb r) (acc, 0)

/-- MMA under an integer accumulator. -/
def mmaInt (rd : Nat → Nat) (ta tb la lb s acc : Nat) : Nat :=
  let ks := (List.range 256).filter fun q => 256 * s + q < tK tb
  truncInt (acc + (ks.map fun q => pniRead rd ta la (256 * s + q) (tRP ta) * pniRead rd tb lb (256 * s + q) (tRP tb)).sum) 32

/-- A stored element of an N-of-12 line: its number, dense index and whether it contributes (05 R111). -/
def sparseElem (rd : Nat → Nat) (ta la m : Nat) : Nat × Nat × Bool :=
  let i := nibble rd ta la m
  let d := 12 * (m / tN ta) + i
  (m, d, i ≤ 11 && d < tK ta)

def mmsTerm (rd : Nat → Nat) (ta tb la lb : Nat) (x : Nat × Nat × Bool) : Int :=
  if x.2.2 then pniRead rd ta la x.1 (tRP ta) * pniRead rd tb lb x.2.1 (tRP tb) else 0

def mmsInt (rd : Nat → Nat) (ta tb la lb s acc : Nat) : Nat :=
  let ms := (List.range 256).filter fun q => 256 * s + q < tStored ta
  truncInt (acc + (ms.map fun q => mmsTerm rd ta tb la lb (sparseElem rd ta la (256 * s + q))).sum) 32

/-- Runs of stored elements in one block of A and, by dense index, one block of B (12 R294). -/
def sparseRuns (ua ub : Nat) : List (Nat × Nat × Bool) → List (List (Nat × Nat × Bool))
  | [] => []
  | x :: xs =>
    match sparseRuns ua ub xs with
    | [] => [[x]]
    | [] :: rest => [x] :: rest
    | (y :: ys) :: rest =>
      if x.1 / ua = y.1 / ua && x.2.1 / ub = y.2.1 / ub then (x :: y :: ys) :: rest else [x] :: (y :: ys) :: rest

/-- MMS under a binary32 accumulator. A unit none of whose elements contributes is skipped when its block of B begins at or beyond K, and
else adds c = +0. Log 146 (DEDUCED). -/
def mmsScaled (rd : Nat → Nat) (ta tb la lb s mode : Nat) (ftz : Bool) (acc : Nat) : FRes :=
  let ms := (List.range 256).filter fun q => 256 * s + q < tStored ta
  let runs := sparseRuns (tUnit ta) (tUnit tb) (ms.map fun q => sparseElem rd ta la (256 * s + q))
  runs.foldl (fun (r : FRes) run =>
    match run with
    | [] => r
    | x :: _ =>
      if tK tb ≤ x.2.1 / tUnit tb * tUnit tb then r
      else
        let ea := scaleRead rd ta la x.1
        let eb := if tSC tb then rd (scaleAddr tb lb (x.2.1 / tBlk tb)) else 127
        let term (y : Nat × Nat × Bool) : Int :=
          if y.2.2 then flushIn ftz (pniRead rd ta la y.1 (tRP ta)) ea * flushIn ftz (pniRead rd tb lb y.2.1 (tRP tb)) eb
          else 0
        scaledUnit mode ftz (run.map term).sum ea eb r) (acc, 0)

/-- An element operand, flushed where the tensor operation selects it. Log 36 (DEDUCED). -/
def elemVal (f : Fmt) (ftz : Bool) (x : Nat) : FVal :=
  if ftz && x / 2 ^ f.tw % 2 ^ f.ew = 0 then .zero (x.testBit (f.ew + f.tw)) else fvalue f x

/-- MMF: 16 chunks of 16 (05 R112). -/
def mmfStep (rd : Nat → Nat) (ta tb la lb s mode : Nat) (ftz : Bool) (acc : Nat) : FRes :=
  let f := fmtOf (tFmt ta)
  (List.range 16).foldl (fun (r : FRes) i =>
    let ks := (List.range 16).filter fun q => 256 * s + 16 * i + q < tK ta
    if ks.isEmpty then r
    else
      let terms := ks.map fun q =>
        let k := 256 * s + 16 * i + q
        exactMul (elemVal f ftz (elemRead rd ta la k)) (elemVal f ftz (elemRead rd tb lb k))
      let fl := terms.foldl (fun (x : BitVec 5) t => x ||| t.2) 0
      let t := join f mode (exactSum mode (terms.map fun t => t.1)) ftz
      let a := join f mode (exactSum mode [fvalue f r.1, fvalue f t.1]) ftz
      (a.1, r.2 ||| fl ||| t.2 ||| a.2)) (acc, 0)

/-- One element of a k-step (12 R294). -/
def productElem (op : MatOp) (rd : Nat → Nat) (s la lb acc : Nat) : FRes :=
  match op.kind with
  | 3 => mmfStep rd op.a op.b la lb s op.mode op.ftz acc
  | 2 => if tFmt op.d = 2 then (mmsInt rd op.a op.b la lb s acc, 0) else mmsScaled rd op.a op.b la lb s op.mode op.ftz acc
  | _ => if tFmt op.d = 2 then (mmaInt rd op.a op.b la lb s acc, 0) else mmaScaled rd op.a op.b la lb s op.mode op.ftz acc

/-- A write of some bits of a byte of scratch. -/
structure ByteWrite where
  addr : Nat
  mask : Nat
  val : Nat
  deriving DecidableEq, Repr

def bytesAt (a x : Nat) : Nat → List ByteWrite
  | 0 => []
  | n + 1 => ⟨a, 255, x % 256⟩ :: bytesAt (a + 1) (x / 256) n

/-- What a k-step or tile yields: writes, and the flags of each row number of the octet. -/
abbrev TileOut := List ByteWrite × List (Nat × BitVec 5)

def TileOut.append (a b : TileOut) : TileOut := (a.1 ++ b.1, a.2 ++ b.2)

/-- k-step s of a product (12 R292). -/
def productStep (op : MatOp) (rd : Nat → Nat) (s : Nat) : TileOut :=
  let rows := (List.range 8).filter fun i => op.row0 + i < tL op.a
  let cols := (List.range 32).filter fun j => op.col0 + j < tL op.b
  rows.foldl (fun (o : TileOut) i =>
    cols.foldl (fun (o : TileOut) j =>
      let a := elemAddr op.d (op.row0 + i) (op.col0 + j)
      let r := productElem op rd s (op.row0 + i) (op.col0 + j) (elemRead rd op.d (op.row0 + i) (op.col0 + j))
      (o.1 ++ bytesAt a r.1 (tSize op.d), o.2 ++ [(i, r.2)])) o) ([], [])

/-- Number of k-steps of a product's operands (12 R293). -/
def productSteps (kind a b : Nat) : Nat := if kind = 2 then ceilDiv (tStored a) 256 else ceilDiv (tK b) 256

/-- Checks of the products (12 R293). -/
def productOk (op : MatOp) : Bool :=
  let ka := tKind op.a
  let kb := tKind op.b
  (match op.kind with
    | 1 => ka = 1 && kb = 1 && tK op.a = tK op.b && (tFmt op.d = 0 || tFmt op.d = 2)
    | 2 => ka = 2 && kb = 1 && tK op.a = tK op.b && (tFmt op.d = 0 || tFmt op.d = 2)
    | _ => ka = 3 && tFmt op.a ≤ 1 && kb = 3 && tFmt op.b = tFmt op.a && tK op.a = tK op.b && tFmt op.d = tFmt op.a)
    && tKind op.d = 4 && (tFmt op.d ≠ 2 || (!tSC op.a && !tSC op.b))
    && op.done ≤ op.kn && op.ks + op.kn ≤ productSteps op.kind op.a op.b
    && op.row0 % 8 = 0 && op.col0 % 32 = 0 && op.row0 < tL op.a && op.col0 < tL op.b
    && min (op.row0 + 8) (tL op.a) ≤ tL op.d && min (op.col0 + 32) (tL op.b) ≤ tK op.d

/-! Tiles (12 R291, R302 to R304). -/

def mzeroTile (op : MatOp) : TileOut :=
  ((List.range 8).flatMap fun i => (List.range 32).flatMap fun j =>
    if op.row0 + i < tL op.d && op.col0 + j < tK op.d then bytesAt (elemAddr op.d (op.row0 + i) (op.col0 + j)) 0 (tSize op.d)
    else [], [])

/-- The value of an accumulator element (12 R303). -/
def accVal (t x : Nat) : FVal := if tFmt t = 2 then ofInt (sextNat x 32) 0 false else fvalue (if tFmt t = 1 then f64 else f32) x

def FVal.scale (v : FVal) (n : Int) : FVal :=
  match v with
  | .fin s m e => .fin s m (e + n)
  | w => w

def deqTile (op : MatOp) (rd : Nat → Nat) : TileOut :=
  let f := fmtOf (tFmt op.d)
  (List.range 8).foldl (fun (o : TileOut) i =>
    (List.range 32).foldl (fun (o : TileOut) j =>
      let r := op.row0 + i
      let c := op.col0 + j
      if r < tL op.b && c < tK op.b then
        let v := (accVal op.b (elemRead rd op.b r c)).scale op.n
        let y := roundVal f op.mode v op.ftz
        (o.1 ++ bytesAt (elemAddr op.d r c) y.1 (tSize op.d), o.2 ++ [(i, y.2 ||| (if v.isSnan then flagNV else 0))])
      else o) o) ([], [])

/-- Quantise one block of values (12 R302): the scale byte, the values, and each element's flags. -/
def quantBlock (mode : Nat) (xs : List FVal) : Nat × List (Int × BitVec 5) :=
  if xs.any fun x => x.isNan || x = .inf false || x = .inf true then
    (255, xs.map fun x => (0, if x.isNan || x = .inf false || x = .inf true then flagNV else 0))
  else
    let tops := xs.filterMap fun x => match x with
      | .fin _ m e => some (e + (bitLen m : Int) - 1)
      | _ => none
    let e : Nat := match tops with
      | [] => 0
      | t :: ts => (max 0 (min 254 (ts.foldl max t + 121))).toNat
    (e, xs.map fun x => match x with
      | .fin s m ex =>
        let (q, ix) := roundAt mode s m (ex + 127 - e) 0
        let z := signed s q
        let c := max (-127) (min 127 z)
        (c, if ix || c ≠ z then flagNX else 0)
      | _ => (0, 0))

/-- Plane and scale writes of one line of a copy over the k-step that holds element k0: values of consecutive elements. -/
def planeWrites (t line k0 : Nat) (vs : List Int) : List ByteWrite :=
  (List.range (tP t)).flatMap fun j => (List.range 32).map fun b =>
    ⟨planeAddr t line (k0 + 8 * b) j, 255, (List.range 8).foldl (fun x i =>
      x + (truncInt (vs.getD (8 * b + i) 0) 8 / 2 ^ (7 - j) % 2) * 2 ^ i) 0⟩

/-- One line of a copy of QUANT: the elements with their rows, within the geometry. -/
def quantLine (t mode line k0 : Nat) (xs : List (FVal × Nat)) : TileOut :=
  let n := tBlk t
  let blocks := (List.range (256 / n)).map fun b => (b, (xs.drop (b * n)).take n)
  let done := (blocks.filter fun b => !b.2.isEmpty).map fun b => (b.1, b.2, quantBlock mode (b.2.map fun x => x.1))
  (done.map (fun b => ⟨scaleAddr t line (k0 / n + b.1), 255, b.2.2.1⟩)
      ++ planeWrites t line k0 (done.flatMap fun b => b.2.2.2.map fun y => y.1),
    done.flatMap fun b => (b.2.1.zip b.2.2.2).map fun z => (z.1.2 % 8, z.2.2))

def quantTile (op : MatOp) (rd : Nat → Nat) : TileOut :=
  let f := fmtOf (tFmt op.b)
  let val (r c : Nat) : FVal := fvalue f (elemRead rd op.b r c)
  let rows := (List.range 256).filter fun i => op.row0 + i < tL op.b
  let cols := (List.range 256).filter fun j => op.col0 + j < tK op.b
  let rowCopy := rows.foldl (fun (o : TileOut) i =>
    o.append (quantLine op.d op.mode (op.row0 + i) op.col0 (cols.map fun j => (val (op.row0 + i) (op.col0 + j), op.row0 + i))))
    ([], [])
  cols.foldl (fun (o : TileOut) j =>
    o.append (quantLine op.a op.mode (op.col0 + j) op.row0 (rows.map fun i => (val (op.row0 + i) (op.col0 + j), op.row0 + i))))
    rowCopy

/-- Candidates of a group, best first by magnitude, lower position first among equals (12 R304). -/
def spzPick (n : Nat) (xs : List (Nat × Int)) : List (Nat × Int) :=
  match n with
  | 0 => []
  | n + 1 =>
    match xs.foldl (fun (b : Option (Nat × Int)) x =>
        match b with
        | none => some x
        | some y => if y.2.natAbs < x.2.natAbs then some x else some y) none with
    | none => []
    | some b => b :: spzPick n (xs.filter fun x => x.1 ≠ b.1)

def sortByPos (xs : List (Nat × Int)) : List (Nat × Int) :=
  (List.range 12).filterMap fun t => xs.find? fun x => x.1 = t

def spzTile (op : MatOp) (rd : Nat → Nat) : TileOut :=
  let n := tN op.d
  ((List.range 8).flatMap fun i =>
    let line := op.row0 + i
    if line < tL op.b then
      (List.range 64).flatMap fun q =>
        let g := op.col0 + q
        if 12 * g < tK op.b then
          let cand := ((List.range 12).filter fun t => 12 * g + t < tK op.b).map fun t =>
            (t, pniRead rd op.b line (12 * g + t) (tP op.b))
          let best := sortByPos (spzPick n cand)
          (List.range n).flatMap fun m =>
            let e := n * g + m
            let planeBit (j : Nat) : Nat := match best[m]? with
              | some x => rd (planeAddr op.b line (12 * g + x.1) j) / 2 ^ ((12 * g + x.1) % 8) % 2
              | none => 0
            let idx := match best[m]? with
              | some x => x.1
              | none => 15
            ((List.range (tP op.d)).map fun j =>
              (⟨planeAddr op.d line e j, 2 ^ (e % 8), planeBit j * 2 ^ (e % 8)⟩ : ByteWrite))
              ++ [⟨metaAddr op.d line e, 15 * 16 ^ (e % 2), idx * 16 ^ (e % 2)⟩]
        else []
    else [], [])

/-- Checks of the tile operations (12 R291, R302 to R304). -/
def tileOk (op : MatOp) : Bool :=
  match op.kind with
  | 0 => tKind op.d = 4 && op.row0 % 8 = 0 && op.col0 % 32 = 0 && op.row0 < tL op.d && op.col0 < tK op.d
  | 5 =>
    tKind op.b = 3 && (tFmt op.b = 0 || tFmt op.b = 2) && tKind op.d = 1 && tSC op.d && tKind op.a = 1 && tSC op.a
      && tL op.d = tL op.b && tK op.d = tK op.b && tL op.a = tK op.b && tK op.a = tL op.b
      && op.row0 % 256 = 0 && op.col0 % 256 = 0 && op.row0 < tL op.b && op.col0 < tK op.b
  | 6 =>
    tKind op.b = 4 && tKind op.d = 3 && tL op.d = tL op.b && tK op.d = tK op.b
      && op.row0 % 8 = 0 && op.col0 % 32 = 0 && op.row0 < tL op.b && op.col0 < tK op.b
  | _ =>
    tKind op.b = 1 && tKind op.d = 2 && tL op.d = tL op.b && tK op.d = tK op.b && tP op.d ≤ tP op.b
      && op.row0 % 8 = 0 && op.col0 % 64 = 0 && op.row0 < tL op.b && op.col0 < ceilDiv (tK op.b) 12

/-- Whether the operation computes products, k-step by k-step. -/
def MatOp.isProduct (op : MatOp) : Bool := 1 ≤ op.kind && op.kind ≤ 3

/-- Checks at execution (12 R288, R293). -/
def MatOp.ok (op : MatOp) : Bool := if op.isProduct then productOk op else tileOk op

/-- The next k-step, or the tile. -/
def MatOp.compute (op : MatOp) (rd : Nat → Nat) : TileOut :=
  match op.kind with
  | 0 => mzeroTile op
  | 5 => quantTile op rd
  | 6 => deqTile op rd
  | 7 => spzTile op rd
  | _ => productStep op rd (op.ks + op.done)

/-- The lines of a tensor from a first one up, among n. -/
def linesFrom (t l0 n : Nat) : Nat := min (l0 + n) (tL t) - l0

/-- Scratch ranges of planes 0 to p - 1 of some lines, over the k-steps that hold the elements from k0 to k1 - 1. -/
def planeRanges (t p l0 n k0 k1 : Nat) : List (Nat × Nat) :=
  (List.range (ceilDiv k1 256 - k0 / 256)).flatMap fun q => (List.range p).map fun j =>
    (planeAddr t l0 (256 * (k0 / 256 + q)) j, 32 * linesFrom t l0 n)

/-- Scratch ranges of the scales of the blocks that hold elements k0 to k1 - 1. -/
def scaleRanges (t l0 n k0 k1 : Nat) : List (Nat × Nat) :=
  if tSC t then (List.range (linesFrom t l0 n)).map fun i =>
    (scaleAddr t (l0 + i) (k0 / tBlk t), ceilDiv k1 (tBlk t) - k0 / tBlk t) else []

/-- Scratch ranges of the elements k0 to k1 - 1 of n lines of a tensor of KIND 3 or 4. -/
def elemRanges (t l0 n k0 k1 : Nat) : List (Nat × Nat) :=
  (List.range n).map fun i => (elemAddr t (l0 + i) k0, (min k1 (tK t) - k0) * tSize t)

/-- The accumulator elements that a product updates. -/
def accRanges (op : MatOp) : List (Nat × Nat) :=
  elemRanges op.d op.row0 (linesFrom op.a op.row0 8) op.col0 (min (op.col0 + 32) (tL op.b))

/-- What MMS reads of B in k-step s: the dense positions of the groups of its stored elements (12 R294); a scale is read by the block
that an index names. -/
def sparseSource (op : MatOp) (s : Nat) : List (Nat × Nat) :=
  let g0 := 256 * s / tN op.a
  let g1 := (min (256 * s + 256) (tStored op.a) - 1) / tN op.a
  planeRanges op.b (tRP op.b) op.col0 32 (12 * g0) (min (12 * g1 + 12) (tK op.b))
    ++ scaleRanges op.b op.col0 32 (12 * g0) (min (12 * g1 + 16) (tK op.b))

/-- Scratch ranges (address, bytes) that the next k-step or tile reads. -/
def MatOp.reads (op : MatOp) : List (Nat × Nat) :=
  let s := op.ks + op.done
  let stored := min (256 * s + 256) (tStored op.a)
  match op.kind with
  | 0 => []
  | 5 => elemRanges op.b op.row0 (linesFrom op.b op.row0 256) op.col0 (op.col0 + 256)
  | 6 => elemRanges op.b op.row0 (linesFrom op.b op.row0 8) op.col0 (op.col0 + 32)
  | 7 => planeRanges op.b (tP op.b) op.row0 8 (12 * op.col0) (min (12 * op.col0 + 768) (tK op.b))
  | 3 =>
    elemRanges op.a op.row0 (linesFrom op.a op.row0 8) (256 * s) (256 * s + 256)
      ++ elemRanges op.b op.col0 (linesFrom op.b op.col0 32) (256 * s) (256 * s + 256) ++ accRanges op
  | 2 =>
    planeRanges op.a (tRP op.a) op.row0 8 (256 * s) stored ++ scaleRanges op.a op.row0 8 (256 * s) stored
      ++ ((List.range (linesFrom op.a op.row0 8)).map fun i =>
          (metaAddr op.a (op.row0 + i) (256 * s), ceilDiv (stored - 256 * s) 2))
      ++ sparseSource op s ++ accRanges op
  | _ =>
    planeRanges op.a (tRP op.a) op.row0 8 (256 * s) stored ++ planeRanges op.b (tRP op.b) op.col0 32 (256 * s) stored
      ++ scaleRanges op.a op.row0 8 (256 * s) stored ++ scaleRanges op.b op.col0 32 (256 * s) stored ++ accRanges op

end Sys2Proof.Machine
end

