-- ==== Sys2Proof/Machine/MatrixRun.lean ====
section
/-! DEFINITION. The plane engines on the machine's state (12 R287 to R305): one k-step or tile of an executing operation, with its
stash fills, uncorrectable data, frozen sectors and traps; its end; and stops. -/

namespace Sys2Proof.Machine

/-! Touching. -/

inductive Touch where
  | ok | fatal
  | fault (f : XFault) (va : Nat)
  deriving DecidableEq, Repr

/-- Sector numbers of the scratch space that ranges cover, each once. -/
def sectorNumbers (rs : List (Nat × Nat)) : List Nat :=
  dedup (rs.flatMap fun r => if r.2 = 0 then [] else (List.range ((r.1 + r.2 - 1) / 128 + 1 - r.1 / 128)).map (r.1 / 128 + ·))

/-- Touch sectors of a group's scratch, given by number (06 R117, R123, R125). -/
def State.touchAll (s : State) (d c gang role member : Nat) : List Nat → Touch × State
  | [] => (.ok, s)
  | n :: ns =>
    match s.scratchAt d c gang role member (128 * n) 128 with
    | (.fatal, s1) => (.fatal, s1)
    | (.fault f va, s1) => (.fault f va, s1)
    | (.refused _, s1) => (.fatal, s1)
    | (.at .., s1) => s1.touchAll d c gang role member ns

/-- The location of a scratch address of a group that was touched. -/
def State.scratchLocOf (s : State) (d c gang role member a : Nat) : Nat :=
  match s.scratchPage d c gang role member a with
  | some p => p.loc (a % pageBytes)
  | none => scratchLoc 0 0

/-- The stash sector of a scratch address of a group, with the page's global base. -/
def State.stashSectorOf (s : State) (d c gang role member a : Nat) : Option (Nat × StashSector) :=
  match s.scratchPage d c gang role member a with
  | none => none
  | some p =>
    match p.stash with
    | none => none
    | some g => (p.sectors.find? fun x => x.idx = sectorOf (a % pageBytes)).map fun x => (g, x)

def MatOp.die (op : MatOp) : Nat := op.key.die
def MatOp.core (op : MatOp) : Nat := op.key.core

def State.opLoc (s : State) (op : MatOp) (a : Nat) : Nat := s.scratchLocOf op.die op.core op.gang op.role op.member a
def State.opSector (s : State) (op : MatOp) (a : Nat) : Option (Nat × StashSector) :=
  s.stashSectorOf op.die op.core op.gang op.role op.member a

/-- The observer that stands for the plane engines of an operation's core. -/
def MatOp.engine (op : MatOp) : Nat := engineBase + observerOf op.key

/-- A byte as the engines of a core read it: the last matrix write in flight that its core lacks (12 R296), else the view of the core, or
of its engines where a copy's byte may still be missing (16 R347). -/
def State.opByte (s : State) (op : MatOp) (stale : Bool) (a : Nat) : Nat :=
  let loc := s.opLoc op a
  let o := observerOf op.key
  match (s.writes.filter fun w => w.path = .mtx && !w.appliedAt o && decide (w.pa ≤ loc) && decide (loc < w.pa + w.size)).getLast? with
  | some w => (w.data.getD (loc - w.pa) 0).toNat
  | none => (s.view (if stale then op.engine else o) loc).toNat

/-- Addresses that an operation reads whose bytes a copy wrote and no fence has brought to the engines: each reads old or new (16
R347). -/
def State.staleBytes (s : State) (op : MatOp) (addrs : List Nat) : List Nat :=
  let late := s.writes.filter fun w => w.path = .cpy && w.left.contains op.engine
  if late.isEmpty then []
  else addrs.filter fun a => late.any fun w => decide (w.pa ≤ s.opLoc op a) && decide (s.opLoc op a < w.pa + w.size)

/-- The bytes that the next part of an operation reads; the machine chooses for each stale one. Log 147 (DEDUCED). -/
def State.opBytes (s : State) (op : MatOp) (addrs : List Nat) : (Nat → Nat) × State :=
  let stale := s.staleBytes op addrs
  if stale.isEmpty then (s.opByte op false, s)
  else
    let (c, s1) := s.choose (2 ^ stale.length)
    (fun a => s1.opByte op (stale.contains a && c.testBit (stale.idxOf a)) a, s1)

/-- The addresses that the next k-step or tile writes. -/
def MatOp.writeAddrs (op : MatOp) : List Nat := (op.compute fun _ => 0).1.map fun w => w.addr

/-- An earlier operation of the same octet writes a byte that this one's next part reads or writes (12 R305). -/
def State.opBehind (s : State) (op : MatOp) : Bool :=
  let rs := op.reads
  let ws := op.writeAddrs
  s.matOps.any fun x => decide (x.id < op.id) && x.key = op.key && x.octet = op.octet
    && x.writeAddrs.any fun a => ws.contains a || rs.any fun r => r.1 ≤ a && a < r.1 + r.2

/-! Writes. -/

/-- Merge bit writes into bytes by address. -/
def mergeBytes (rd : Nat → Nat) (ws : List ByteWrite) : List (Nat × Nat) :=
  ws.foldl (fun m w =>
    let old := (numGet m w.addr).getD (rd w.addr)
    numSet m w.addr ((old &&& (255 ^^^ w.mask)) ||| (w.val &&& w.mask))) []

/-- Group bytes at consecutive addresses of one 128-byte sector. -/
def byteRuns : List (Nat × Nat) → List (Nat × List Byte)
  | [] => []
  | (a, b) :: rest =>
    match byteRuns rest with
    | (a', bs) :: more =>
      if a + 1 = a' && a' % 128 ≠ 0 then (a, BitVec.ofNat 8 b :: bs) :: more else (a, [BitVec.ofNat 8 b]) :: (a', bs) :: more
    | [] => [(a, [BitVec.ofNat 8 b])]

/-- Enter the writes of a k-step or tile on the MTX path. -/
def State.opWrites (s : State) (op : MatOp) : List (Nat × List Byte) → State
  | [] => s
  | (a, bs) :: rest =>
    let stash := if (s.opSector op a).isSome then some (op.die, op.core) else none
    let va := match s.opSector op a with
      | some (g, _) => g + a % pageBytes
      | none => a
    let w : Write := { id := 0, src := ⟨op.key, op.owner⟩, gang := op.gang, path := .mtx, wic := 0, pc := op.pc, va := va,
                       pa := s.opLoc op a, data := bs, stash := stash }
    (s.addWrite w).opWrites op rest

/-! Lanes of an operation. -/

/-- The lane of row i of the tile. -/
def MatOp.laneOf (op : MatOp) (i : Nat) : Nat := op.single.getD (8 * op.octet + i)

/-- A lane that executed the operation and has neither left nor been captured since. -/
def State.opHas (s : State) (op : MatOp) (lane : Nat) : Bool :=
  match s.lane? ⟨op.key, lane⟩, op.lanes.find? fun x => x.1 = lane with
  | some l, some x => l.stay = x.2
  | _, _ => false

/-- The lanes that an effect of the operation reaches: the octet's fibres, or the resumed fibre (12 R298, R300). -/
def State.opTargets (s : State) (op : MatOp) : List Nat :=
  match op.single with
  | some l => if s.opHas op l then [l] else []
  | none => (octetLanes (8 * op.octet)).filter fun n => (s.lane? ⟨op.key, n⟩).isSome

/-- The operation leaves; the progress register lands with DONE. Log 63 (DEDUCED). -/
def State.endOp (s : State) (op : MatOp) : State :=
  let s1 := { s with matOps := s.matOps.filter fun x => x.id ≠ op.id }
  if op.isProduct && s.opHas op op.owner then
    s1.modLane ⟨op.key, op.owner⟩ fun l => l.land op.id [BitVec.ofNat 32 op.done]
  else s1

/-- The operand image of a stopped product (12 R297). Log 63 (DEDUCED). -/
def MatOp.image (op : MatOp) : W64 := BitVec.ofNat 64 (op.done + 2 ^ 16 * op.row0 + 2 ^ 32 * op.col0)

/-- A running product stops (12 R297): the owner's continuation will hold its entry. -/
def State.stopOp (s : State) (op : MatOp) : State :=
  let s1 := s.endOp op
  if op.isProduct && s.opHas op op.owner then
    s1.modLane ⟨op.key, op.owner⟩ fun l => { l with tickets := l.tickets ++ [⟨4, op.pc, op.image⟩] }
  else s1

def State.modOp (s : State) (op : MatOp) : State :=
  { s with matOps := s.matOps.map fun x => if x.id = op.id then op else x }

/-- What one advance of an operation yields: an effect for its lanes, precise (ATRAP) or late. -/
inductive OpOut where
  | quiet
  | raise (e : Effect)
  | abort
  deriving DecidableEq, Repr

/-- The exceptions enabled in each row's lane that the tile met (12 R299, R300): only an operation issued alone traps. -/
def State.opTraps (s : State) (op : MatOp) (fl : List (Nat × BitVec 5)) : BitVec 5 × W64 :=
  if !op.alone then (0, 0)
  else fl.foldl (fun (r : BitVec 5 × W64) x =>
    match s.lane? ⟨op.key, op.laneOf x.1⟩ with
    | none => r
    | some l =>
      let en := x.2 &&& l.fenable
      if en = 0 || !s.opHas op (op.laneOf x.1) then r else (r.1 ||| en, r.2 ||| (1#64 <<< (op.laneOf x.1 % 8)))) (0, 0)

/-- Accrue the flags of the rows (12 R292). -/
def State.opFlags (s : State) (op : MatOp) : List (Nat × BitVec 5) → State
  | [] => s
  | (i, f) :: rest =>
    let s1 := if s.opHas op (op.laneOf i) then
        s.modLane ⟨op.key, op.laneOf i⟩ fun l => { l with fflags := l.fflags ||| f }
      else s
    s1.opFlags op rest

/-- The engine waits for the supervisor at a stash fill that faults (12 R300). -/
def State.opFault (s : State) (op : MatOp) (f : XFault) (acc va : Nat) : State :=
  let r := faultRec f acc 2 (BitVec.ofNat 64 va) 0 op.pc op.gang { op.key with slot := 0 } (.engine op.id)
  (s.modOp { op with waiting := true }).postFault op.die r

/-- Late effect of a tile that is not written: MEMERR at an address, or WFROZEN (12 R300). Log 42 (DEDUCED). -/
def MatOp.memErr (op : MatOp) (a : Nat) : Effect :=
  { tag := 10, k2 := BitVec.ofNat 64 a, k3 := hwDetail (if op.isProduct then op.first else 0), cpc := none, xpc := op.pc,
    cls := .late }

def frozenEffect (va pc : Nat) : Effect := { wfrozen va pc true none with cls := .late }

/-- A k-step or tile that is neither computed nor written ends the operation: a product stops. -/
def State.opFail (s : State) (op : MatOp) (e : Effect) : State × OpOut := (s.stopOp op, .raise e)

/-- One k-step of a product, or the tile of another operation (12 R292, R300). Log 42 (DEDUCED). -/
def State.opStep (s : State) (op : MatOp) : State × OpOut :=
  if op.isProduct && op.kn ≤ op.done then (s.endOp op, .quiet)
  else
    let waddrs := op.writeAddrs
    let reads := op.reads
    match s.touchAll op.die op.core op.gang op.role op.member (sectorNumbers (reads ++ waddrs.map fun a => (a, 1))) with
    | (.fatal, s1) => (s1, .abort)
    | (.fault f va, s1) => (s1.opFault op f 7 va, .quiet)
    | (.ok, s1) =>
      let addrs := reads.flatMap fun r => (List.range r.2).map (r.1 + ·)
      match addrs.find? fun a => s1.badAt (s1.opLoc op a) 1 with
      | some a => (s1.eccRecord ⟨op.key, op.owner⟩ (s1.opLoc op a)).opFail op (op.memErr a)
      | none =>
        match waddrs.find? fun a => match s1.opSector op a with
            | some (_, x) => !x.writable
            | none => false with
        | some a =>
          let g := ((s1.opSector op a).map fun x => x.1).getD 0
          (s1.opFault op ⟨2, 0, 0⟩ 2 (g + a % pageBytes), .quiet)
        | none =>
          let (rd, s1) := s1.opBytes op addrs
          let out := op.compute rd
          let trap := s1.opTraps op out.2
          if trap.1 ≠ 0 then
            (s1.endOp op, .raise { tag := 6, k2 := trap.1.setWidth 64, k3 := hwDetail trap.2.toNat, cpc := some op.pc, xpc := op.pc })
          else
            match waddrs.find? fun a => match s1.opSector op a with
                | some (_, x) => x.frozen
                | none => false with
            | some a =>
              let g := ((s1.opSector op a).map fun x => x.1).getD 0
              s1.opFail op (frozenEffect (g + a % pageBytes) op.pc)
            | none =>
              let s2 := (s1.opWrites op (byteRuns (mergeBytes rd out.1))).opFlags op out.2
              let op' := { op with done := op.done + 1 }
              if op.isProduct && op'.done < op.kn then (s2.modOp op', .quiet) else (s2.endOp op', .quiet)

/-- The operations of a pass: those fused with one advance with it, k-step by k-step (12 R295). -/
def State.passOf (s : State) (op : MatOp) : List MatOp :=
  s.matOps.filter fun x => x.id = op.id || (x.key = op.key && x.pass = op.pass && x.pass ≠ 0)

/-- A pass may advance: no engine of it waits, and no earlier operation of an octet has still to write what it needs. -/
def State.passReady (s : State) (ops : List MatOp) : Bool := ops.all fun op => !op.waiting && !s.opBehind op

/-- Matrix writes of the octet of a lane that are in flight (07 R141). -/
def State.matrixWrites (s : State) (k : LaneKey) : List Nat := (s.writes.filter fun w => s.ownWrite k .mtx w).map fun w => w.id

/-- Operations that a lane of an entry issued alone still has (12 R299). -/
def State.heldAlone (s : State) (k : CohKey) (mask : W64) : Bool :=
  s.matOps.any fun op => op.alone && op.key = k && op.lanes.any fun x => mask.getLsbD x.1 && s.opHas op x.1

/-- Operations that MWAIT of a lane waits for (12 R301). -/
def State.opsOf (s : State) (k : LaneKey) : List MatOp :=
  s.matOps.filter fun op => op.key = k.coh && s.opHas op k.lane

end Sys2Proof.Machine
end

