-- ==== Sys2Proof/Machine/Ops.lean ====
section
/-! DEFINITION. Taking an effect: draining, capture (03 R59 to R63), traps and double traps (17 R357, R359), the gang abort that
an effect without a catcher brings, and the return from a trap (17 R358). Then what every issue shares: the outcome of each
lane, and how the lanes of the entry advance (02 R34, 04 R81, R84; 08 R174). -/

namespace Sys2Proof.Machine

/-! Starting fibres. -/

/-- The stack of a starting fibre (03 R54): its `sp` and chain head. -/
def startStack (c : HeapCtx) (root : Nat) : HeapM (Nat × Nat) := fun s =>
  if root ≠ 0 then
    HeapM.bind (takeSeg c (c.reserve s) { top := 80 }) (fun g =>
      HeapM.bind (writeFrame c (g + 32) ⟨0, 1, 0, 0⟩) fun _ =>
        HeapM.bind (writeHandler c (g + 32) ⟨0, 0, root, 0⟩) fun _ =>
          HeapM.bind (writeFrame c (g + 64) ⟨0, 0, 0, 0x80⟩) fun _ => HeapM.pure (g + 64, g + 32)) s
  else
    HeapM.bind (takeSeg c (c.reserve s) { top := 48 }) (fun g =>
      HeapM.bind (writeFrame c (g + 32) ⟨0, 0, 0, 0x80⟩) fun _ => HeapM.pure (g + 32, 0)) s

/-- Put a new fibre into an empty lane slot, ready at a pair (02 R28, R33; 04 R76). -/
def State.placeFibre (s : State) (k : LaneKey) (l : Lane) (prio : BitVec 8) (pc : Nat) : State :=
  let l' := { l with status := .ready, prio := prio, pc := pc, fibre := s.fibres, stay := s.fibres }
  let s1 := { s with fibres := s.fibres + 1 }
  (s1.setLane k l').insertReady k prio pc

/-- The fibres of a supervisor slot, each with a stack of the supervisor heap. Log 18 (DEDUCED). -/
def State.superFibres (s : State) (k : CohKey) (start : Nat) : Nat → State
  | 0 => s
  | n + 1 =>
    let t := s.superFibres k start n
    match startStack ⟨⟨k, n⟩, true, 0, t.fibres⟩ 0 t with
    | .ok ((sp, chain), s1) => s1.placeFibre ⟨k, n⟩ { sp := sp, chain := chain } 0x80 start
    | .error _ => t

def superCores : List Nat := [0, 24]

/-- The security controller binds a supervisor slot anew from the supervisor image (17 R354, R359); the slot of core 0 starts with an
empty supervisor heap. Log 18 (DEDUCED). Log 41 (DESIGN CHOICE). -/
def State.bindSupervisor (s : State) (d core : Nat) : State :=
  let k : CohKey := ⟨d, core, 15⟩
  let s1 := ((s.forgetCohort k).dropCohort k).sweepPages
  let s2 := if core = 0 then freeSegs ⟨⟨k, 0⟩, true, 0, 0⟩ s1 else s1
  let start := Config.supervisorStart core % 2 ^ 55 * 4
  let peak := 1 + Config.supervisorPeak core % 128
  let co : Cohort := { minR := 1 + Config.supervisorMin core % peak, peak := peak, start := start, order := s2.issues, priv := true }
  let pages := Config.supervisorPages core % (49 - (s2.core d core).pages.length)
  ((s2.grantPages k 0 0 0 (List.range pages)).setCohort k co).superFibres k start (1 + Config.supervisorFibres core % 64)

/-! Leaving the frontier. -/

/-- A lane stops standing in the frontier; it keeps its pair. -/
def State.pullLane (s : State) (k : LaneKey) : State :=
  match s.cohort? k.coh with
  | none => s
  | some c =>
    match entryOf c.frontier k.lane with
    | some e => (s.modLane k fun l => { l with prio := e.prio, pc := e.pc }).unreadyLane k
    | none => s

/-- A parked lane gives up its partial work (02 R40). -/
def State.withdraw (s : State) (k : LaneKey) : State :=
  let drop (l : Lane) : Lane := match l.arrival.bind fun a => a.pend with
    | some id => l.unissue id
    | none => l
  { s.modLane k fun l => { drop l with arrival := none, want := [], lastReads := [] } with qreqs := s.qreqs.filter fun q => q.key ≠ k }

/-! Draining (03 R59). -/

/-- Special-function results of a lane land. -/
def State.landSfu (s : State) (k : LaneKey) : State :=
  let mine := (s.core k.coh.die k.coh.core).sfu.filter fun r => r.key = k
  let s1 := s.modCore k.coh.die k.coh.core fun x => { x with sfu := x.sfu.filter fun r => r.key ≠ k }
  mine.foldl (fun (t : State) (r : SfuResult) => t.modLane k fun l =>
    { l.land r.id [r.value] with fflags := l.fflags ||| r.flags }) s1

/-- A taken queue entry may land: the producer's writes before its push are performed, or never will be (06 R132). -/
def State.qwaitDue (s : State) (q : QWait) : Bool :=
  (s.writes.all fun w => !q.waits.contains w.id || w.performedAt q.scope q.prod.coh)
    && (s.atomics.all fun a => !q.waits.contains a.id)
    && (s.core q.prod.coh.die q.prod.coh.core).sideLog.all fun e =>
      !(q.near && e.slot = q.prod.coh.slot && (e.state = 1 || e.state = 2)
        && e.lanes.any fun x => x.lane = q.prod.lane && decide ((q.stampWic - x.wic).toNat < 2 ^ 31))

/-- A taken queue entry lands: the payload, and the observation of the producer's writes (07 R141, R156). Log 33 (DEDUCED). -/
def State.landQueue (s : State) (q : QWait) : State :=
  let s1 := { s with qwaits := s.qwaits.filter fun x => x.id ≠ q.id }
  let set (l : Lane) : Lane := match q.pred with
    | some p => l.setPred p true
    | none => l
  (s1.modLane q.key fun l => set (l.land q.id q.words)).observe q.key (q.waits.filter s.inFlight)

/-- Special functions and due queue results of a lane land; it is drained once its loads, atomics and queue results have landed (03 R59),
which other parties' steps bring about. Log 33 (DEDUCED). -/
def State.drainRegs (s : State) (k : LaneKey) : Bool × State :=
  let land (t : State) (q : QWait) : State := if q.key = k && t.qwaitDue q then t.landQueue q else t
  let s1 := foldState land s.qwaits (s.landSfu k)
  (!(s1.loads.any fun l => l.src = k) && !(s1.atomics.any fun a => a.src = k) && !(s1.qwaits.any fun q => q.key = k), s1)

/-- The products that a lane owns stop (12 R297). -/
def State.stopOwn (s : State) (k : LaneKey) : State :=
  foldState State.stopOp (s.matOps.filter fun op => op.isProduct && op.key = k.coh && op.owner = k.lane && s.opHas op k.lane) s

/-- An operation of the lane's octet executes, which a capture of the lane waits for (12 R297). -/
def State.octetBusy (s : State) (k : LaneKey) : Bool :=
  s.matOps.any fun op => op.key = k.coh && op.octet = k.lane / 8 && op.single.isNone

/-- The fibre's own LSU accesses, which its frame traffic follows (03 R64), are performed at home. Log 34 (DEDUCED). -/
def State.heapReady (s : State) (k : LaneKey) : Bool :=
  (s.loads.all fun x => x.src ≠ k) && (s.atomics.all fun x => x.src ≠ k)
    && s.writes.all fun w => !s.ownWrite k .lsu w || w.home

/-- A displaced effect stays due as its class says (12 R297). -/
def Lane.displace (l : Lane) (e : Effect) : Lane :=
  match e.cls with
  | .own => l
  | .late => { l with late := e :: l.late }
  | .fence => { l with fenceFx := e :: l.fenceFx }
  | .boundary =>
    if e.tag = 7 then { l with preemptDue := true }
    else if e.tag = 13 then { l with limitDue := true }
    else l

/-- An effect that displaces another before its capture: the continuation PC is the displaced effect's, or its instruction when it was an
own effect (12 R297). -/
def Effect.instead (x e : Effect) : Effect := { x with cpc := if e.cls = .own then some e.xpc else e.cpc, bks := false }

/-! Capture (03 R59). -/

/-- Tickets that are outstanding: copies and freezes in flight, words of PFAULT not yet written, stopped products (11 R265). Log 43 (DEDUCED). -/
def State.liveTickets (s : State) (d : Nat) (gang : Nat) (ts : List Ticket) : List Ticket :=
  ts.filter fun t =>
    if t.kind = 1 || t.kind = 2 then
      s.jobs.any fun j => j.frz = (t.kind = 2 : Bool) && j.gang = gang && j.pid = s.pid d && !j.complete
        && j.ticket = t.value.toNat && j.word = t.addr
    else if t.kind = 3 then
      match s.walk d (va57 t.addr) .load with
      | .ok w => s.homeNat w.xlt.pa 8 = 0
      | .error _ => true
    else true

/-- Number of segments of a record whose register area has n bytes (03 R67). -/
def recordCount (n : Nat) : Nat := if n ≤ 416 then 1 else 1 + (n - 416 + 479) / 480

/-- A new share begins at the base frame, unless one begins there already (03 R59). -/
def splitAt (c : HeapCtx) (b : Nat) : HeapM Unit :=
  let o := b % 512
  let part (h : SegHdr) (xs : List Share) : List Share :=
    xs ++ ((xs.filter fun x => x.start = shareStart h o).map fun x => { x with start := o })
  HeapM.bind (readHdr c (segOf b)) fun h =>
    if o ≤ 32 || h.bounds.testBit (o / 16) then HeapM.pure ()
    else
      let bounds := h.bounds + 2 ^ (o / 16)
      HeapM.bind (modShares c (segOf b) (part h)) fun _ =>
        writeHdr c (segOf b) { h with bounds := bounds, split := true, owners := h.owners + 1,
                                      splitOff := 16 * highBit bounds 32 }

/-- Handler and resume frames of the chain that are captured: those in the captured part, or installed by a frame in it. -/
def capturedChain (frames : List Nat) (chain : List (Nat × Frame × Handler)) : List (Nat × Frame × Handler) :=
  chain.takeWhile fun x => frames.contains x.1 || frames.contains x.2.1.csp

/-- The fibre at the first instruction of the handler (03 R60), or past a RESUME whose resume frame caught the effect (03 R71). -/
def enterHandler (c : HeapCtx) (h : Nat) (f : Frame) (hd : Handler) (l : Lane) : HeapM Lane :=
  let l0 := { l.releaseAll with p := 0, tickets := [], bks := false, want := [], arrival := none, chain := hd.prev }
  if f.kind = 2 then
    HeapM.bind (readResumer c h) fun x =>
      HeapM.bind (popFrame c h) fun _ =>
        HeapM.pure { l0 with
          k := l0.k.take 5 ++ [BitVec.ofNat 64 x, BitVec.ofNat 64 (x >>> 64), BitVec.ofNat 64 (x >>> 128)]
          fflags := BitVec.ofNat 5 (bits x 196 192), frm := BitVec.ofNat 3 (bits x 202 200)
          fenable := BitVec.ofNat 5 (bits x 212 208), sp := f.csp, prio := f.rprio, pc := f.rpc }
  else HeapM.pure { l0 with fflags := 0, frm := 0, fenable := 0, sp := h, pc := hd.hpc }

/-- The descriptor of a continuation (03 R66): of lane `l`, for an effect caught by `hd`, whose captured frames are `addrs` and chain
frames `caught`, and whose record has `n` segments. -/
def contRecOf (c : HeapCtx) (l : Lane) (e : Effect) (cpc : Nat) (hd : Handler) (addrs caught : List Nat) (n : Nat) : ContRec :=
  { gang := c.gang, wic := l.wic, bks := e.bks
    unwk := (e.unwritten.getD (0, 0)).2, unwp := (e.unwritten.getD (0, 0)).2 ≠ 0, unwv := e.unwritten.isSome
    unwr := (e.unwritten.getD (0, 0)).1
    nsh := l.shadows.length, tcount := l.tickets.length, fenable := l.fenable, frm := l.frm, fflags := l.fflags
    oldh := caught.getLastD 0, head := caught.headD 0, basef := addrs.getLastD 0, sp := l.sp, pc := cpc, state := 1, prio := l.prio
    htag := hd.tag, hmask := hd.mask, nseg := (dedup ((addrs ++ caught).map segOf)).length + n, nv := l.v.length }

/-- The captured frames, whose shares pass to a continuation, and its record (03 R59, R65 to R67): the handle. -/
def makeCont (c : HeapCtx) (l : Lane) (e : Effect) (cpc : Nat) (hd : Handler) (addrs caught : List Nat) : HeapM W64 :=
  HeapM.bind (splitAt c (addrs.getLastD 0)) fun _ =>
    HeapM.bind (takeContRecord c (recordCount l.area.length)) fun segs =>
      HeapM.bind (sharesAt c (addrs ++ caught)) fun shares =>
        HeapM.bind (passShares c (.cont (segs.headD 0)) (dedup shares)) fun _ =>
          HeapM.bind (readHdr c (segs.headD 0)) fun hdr =>
            let r := contRecOf c l e cpc hd addrs caught segs.length
            HeapM.bind (writeStream c 32 (toBytes r.encode 64 ++ l.area) segs) fun _ => HeapM.pure (contHandle (segs.headD 0) hdr.gen)

/-- Capture of a drained fibre: its lane at the handler, and the handle. Nothing when no frame catches, or no base frame exists. Log 51 (DEDUCED). -/
def captureFibre (c : HeapCtx) (l : Lane) (e : Effect) (cpc : Nat) : HeapM (Option (Lane × W64)) := fun s =>
  let fuel := walkFuel s
  HeapM.bind (findCatcher c e.tag l.sp l.chain fuel) (fun found =>
    match found.2 with
    | none => HeapM.pure none
    | some (h, hf, hd) =>
      HeapM.bind (framesTo c (if hf.kind = 2 then h else hf.csp) l.sp fuel) fun frames =>
        match frames with
        | none => HeapM.pure none
        | some addrs =>
          HeapM.bind (makeCont c l e cpc hd addrs ((capturedChain addrs found.1).map fun x => x.1)) fun handle =>
            let k := [handle, e.tag.setWidth 64, e.k2, e.k3, BitVec.ofNat 64 e.xpc] ++ l.k.drop 5
            HeapM.bind (enterHandler c h hf hd { l with k := k }) fun l2 => HeapM.pure (some (l2, handle))) s

/-- The EFFECT record (22 R430). -/
def State.effectRecord (s : State) (k : LaneKey) (e : Effect) (trap uncaught : Bool) (handle : W64) : State :=
  s.almLane k 0x10
    (e.tag.toNat + 2 ^ 8 * boolNat (e.k3.getLsbD 63) + 2 ^ 9 * boolNat trap + 2 ^ 10 * boolNat uncaught) handle
    (some (e.xpc % 2 ^ 57 + 2 ^ 57 * (e.k3.toNat % 2 ^ 63)))

def State.heapCtx (s : State) (k : LaneKey) : HeapCtx :=
  match s.cohort? k.coh with
  | some c => ⟨k, c.priv, c.gang, s.fibreOf k⟩
  | none => ⟨k, false, 0, 0⟩

/-- The lane stands, ready, at the pair it holds, in a new stay. -/
def State.standLane (s : State) (k : LaneKey) (l : Lane) : State :=
  let l' := { l with status := .ready, stay := s.fibres, parkedCycles := 0, want := [], lastReads := [], arrival := none, counted := false }
  ({ s with fibres := s.fibres + 1 }.setLane k l').insertReady k l.prio l.pc

/-- Capture of a drained user lane, or the abort of its gang (03 R59, R75). Log 143 (DEDUCED). -/
def State.captureLane (s : State) (k : LaneKey) (e : Effect) : State :=
  match s.lane? k with
  | none => s
  | some l =>
    let c := s.heapCtx k
    let extra : List Ticket := if e.tag = 3 && e.k3.getLsbD 63 then [⟨3, e.k3.toNat % 2 ^ 57, 1⟩] else []
    let tickets := s.liveTickets k.coh.die c.gang l.tickets ++ extra
    let cpc := e.cpc.getD l.pc
    match captureFibre c { l with tickets := tickets } e cpc s with
    | .ok (some (l2, handle), s1) =>
      ((s1.effectRecord k e false false handle).standLane k l2).settleReserve k.coh.die k.coh.core
    | .error .wait => s.modLane k fun l => { l with status := .capturing l.prio e }
    | _ => (s.effectRecord k e false true 0).abortGang k e.tag.toNat e.xpc

/-! Traps (17 R357 to R359). -/

/-- A double trap: the die's supervisor has failed. -/
def State.doubleTrap (s : State) (k : LaneKey) (l : Lane) (e : Effect) : State :=
  let d := k.coh.die
  let pid := s.pid d
  let s1 := s.almSched d 0x86 k.coh.core l.trap.tpc
  let gangs := dedup ((s1.cohorts.filter fun x => x.1.die = d && !x.2.priv).map fun x => x.2.gang)
  let cause : CutCause := ⟨l.trap.tscr.toNat, e.tag.toNat, d, k.coh.core, k.coh.slot, k.lane⟩
  let s2 := foldState (fun (t : State) g => (t.abortCohorts d g false e.tag.toNat).startCut pid cause) gangs s1
  let s4 := (s2.startCut pid cause).answerFatal d
  superCores.foldl (fun t c => t.bindSupervisor d c) s4

/-- `$tcause` of an effect (17 R356). -/
def trapCause (e : Effect) : W32 :=
  BitVec.ofNat 32 (e.tag.toNat + 2 ^ 8 * (e.k3.toNat % 2 ^ 23) + 2 ^ 31 * boolNat (e.k3.getLsbD 63))

/-- A drained privileged lane traps (17 R357). -/
def State.trapLane (s : State) (k : LaneKey) (e : Effect) : State :=
  match s.lane? k with
  | none => s
  | some l =>
    let s1 := s.effectRecord k e true false 0
    if l.trap.tstat.getLsbD 0 then s1.doubleTrap k l e
    else
      let t : Trap := { l.trap with
        tpc := BitVec.ofNat 64 (e.cpc.getD l.pc), tcause := trapCause e, tval := e.k2, tscr := BitVec.ofNat 64 e.xpc
        tstat := l.trap.tstat ||| 1 }
      let l1 := { l with trap := t, pc := l.trap.tvec.toNat }
      (s1.setLane k { l1 with status := .ready, parkedCycles := 0, want := [], arrival := none }).insertReady k l1.prio l1.pc

/-- Return from a trap (17 R358): ACTIVE clears, and the next PC is `$tpc`. -/
def Lane.trapReturn (l : Lane) : Lane × Nat :=
  ({ l with trap := { l.trap with tstat := l.trap.tstat &&& ~~~(1 : W32) } }, l.trap.tpc.toNat)

/-! Taking an effect. -/

/-- A halted cohort, to which no effect is delivered (17 R373). -/
def State.stands (s : State) (k : CohKey) : Bool :=
  match s.cohort? k with
  | some c => c.halted && !c.halting
  | none => false

/-- An effect that reaches a lane whose capture waits displaces the one that started it (12 R297). -/
def State.displaced (s : State) (k : LaneKey) (l : Lane) (e : Effect) : State × Effect :=
  match l.status with
  | .capturing _ x => if x = e then (s, e) else (s.modLane k fun y => y.displace x, e.instead x)
  | _ => (s, e)

/-- The WFROZEN of an atomic that the drain found rejected comes first (11 R260). Log 139 (DESIGN CHOICE). -/
def State.rejectedFirst (s : State) (k : LaneKey) (e : Effect) : State × Effect :=
  match (s.lane? k).map fun l => l.late with
  | some (x :: xs) => if x.cls = .own then (s.modLane k fun l => { l with late := xs }.displace e, x) else (s, e)
  | _ => (s, e)

/-- An effect reaches a lane that stands in no frontier entry: a privileged lane traps, a user lane is captured. What has to wait, or
stands in a halted cohort, leaves the lane capturing. -/
def State.takeEffect (s : State) (k : LaneKey) (e : Effect) : State :=
  match s.lane? k with
  | none => s
  | some l0 =>
    let wait (t : State) (x : Effect) : State := t.modLane k fun l => { l with status := .capturing l0.prio x }
    let (s0, e0) := s.displaced k l0 e
    if s0.stands k.coh then wait s0 e0 else
    let (ok, s1) := s0.drainRegs k
    if !ok then wait s1 e0
    else
      let (s2, e1) := s1.rejectedFirst k e0
      if (s2.heapCtx k).priv then s2.trapLane k e1
      else
        let s3 := s2.stopOwn k
        if s3.octetBusy k || !s3.heapReady k then wait s3 e1 else s3.captureLane k e1

/-- An effect due to the fibre of a number in a lane slot. -/
structure Due where
  key : LaneKey
  fibre : Nat
  effect : Effect
  deriving DecidableEq, Repr

def State.due (s : State) (k : LaneKey) (e : Effect) : Due :=
  ⟨k, match s.lane? k with | some l => l.fibre | none => 0, e⟩

def State.hasFibre (s : State) (x : Due) : Bool :=
  match s.lane? x.key with
  | some l => l.fibre = x.fibre
  | none => false

/-- Deliver effects, each to a fibre wherever it stands, unless it has ended. -/
def State.deliverAll (s : State) (todo : List Due) : State :=
  foldState (fun (t : State) x => if t.hasFibre x then ((t.pullLane x.key).withdraw x.key).takeEffect x.key x.effect else t) todo s

/-- Log 44 (DESIGN CHOICE). -/
def State.deliver (s : State) (k : LaneKey) (e : Effect) : State := s.deliverAll [s.due k e]

/-- Lanes whose capture waits try again. -/
def State.retryCaptures (s : State) (k : CohKey) : State :=
  match if s.stands k then none else s.cohort? k with
  | none => s
  | some c =>
    s.deliverAll (c.lanes.filterMap fun x => match x.2.status with
      | .capturing _ e => some (s.due ⟨k, x.1⟩ e)
      | _ => none)

end Sys2Proof.Machine
end

