-- ==== Sys2Proof/Machine/Issue.lean ====
section
/-! DEFINITION. What every issue shares: the lanes that execute (08 R173), the registers an instruction waits for (08 R174) and
grows (04 R84), the outcome of each lane, and how the lanes of the entry advance (02 R34). -/

namespace Sys2Proof

/-- The registers that an instruction reads, writes and reads for the last time. -/
structure RegUse where
  reads : List Nat := []
  writes : List Nat := []
  last : List Nat := []
  /-- A result that lands later: its registers are not written when the instruction issues. -/
  long : Bool := false
  deriving DecidableEq, Repr

/-- Registers that take effect of a last-read bit in a lane. A register that the instruction writes is live again (04 R81). Log 19 (DEDUCED). -/
def RegUse.lastOf (u : RegUse) (executes : Bool) : List Nat :=
  if executes && !u.long then u.last.filter fun n => !u.writes.contains n else u.last

/-- Registers whose last read takes effect in a lane when the instruction has issued: the write sets a result's live bit again, be it
there already or still to land. Log 19 (DEDUCED). -/
def RegUse.lastAt (u : RegUse) (executes : Bool) (pending : Nat → Bool) : List Nat :=
  if u.long && executes then u.last.filter fun n => !u.writes.contains n || pending n else u.lastOf executes

def runRegs (rs : List RegRun) : List Nat := rs.flatMap RegRun.regs

/-- Register use of a form. BAR and BARA read their destination (13 R325); a product writes the progress register (12 R285). -/
def Form.use (o : Op) (f : Form) : RegUse :=
  let a := runRegs (f.runA o)
  let b := runRegs (f.runB o)
  let c := runRegs (f.runC o)
  let x := match o with
    | .cpy2d => runRegs (f.runX o)
    | .bar => runRegs (f.runD o)
    | _ => []
  let d := match o with
    | .mma | .mms | .mmf => [f.c.toNat]
    | _ => runRegs (f.runD o)
  { reads := a ++ b ++ c ++ x, writes := d
    last := (if f.lra then a else []) ++ (if f.lrb then b else []) ++ (if f.lrc then c else []), long := o.rule.long }

/-- Register use of a PAIR. -/
def PairForm.use (p : PairForm) : RegUse :=
  let last (h : Half) : List Nat := (if h.lra then [h.a.toNat] else []) ++ (if h.lrb then [h.b.toNat] else [])
  { reads := p.reads, writes := p.writes, last := last p.x ++ last p.y }

/-- The guard of an instruction: absent, or a predicate and the value that lets a lane execute. -/
abbrev Guard := Option (Nat × Bool)

/-- Log 37 (DEDUCED). -/
def Form.guard (f : Form) : Guard := if f.gv then some (f.gp.toNat, !f.gs) else none
def PairForm.guard (p : PairForm) : Guard := if p.gv then some (p.gp.toNat, !p.gs) else none

end Sys2Proof

namespace Sys2Proof.Machine

def Lane.passes (l : Lane) (g : Guard) : Bool :=
  match g with
  | none => true
  | some (n, b) => l.pred n = b

/-- Where a lane goes on: after the instruction with its priority, or at a pair. -/
inductive Next where
  | seq
  | goesTo (prio : BitVec 8) (pc : Nat)
  deriving DecidableEq, Repr

/-- The outcome of an executing lane (02 R34). `off`: the lane has been dealt with, or is no more. -/
inductive LaneOut where
  | go (n : Next)
  | eff (e : Effect)
  | park (block : Nat) (k2 : W64)
  | held (hold : Nat)
  /-- The lane finds that the issue has to wait: nothing of it takes place (08 R174, 15 R341). -/
  | stall
  /-- The lane, which another fibre's state has replaced, stands at a pair. -/
  | stand (prio : BitVec 8) (pc : Nat)
  | off
  deriving DecidableEq, Repr

/-- PC after the instruction. -/
def Issue.nextPc (i : Issue) (priv : Bool) : Nat := if priv then (i.pc + i.bytes) % 2 ^ 64 else (i.pc + i.bytes) % 2 ^ 57

def Next.pair (n : Next) (i : Issue) (priv : Bool) : BitVec 8 × Nat :=
  match n with
  | .seq => (i.prio, i.nextPc priv)
  | .goesTo p pc => (p, pc)

def Issue.lane (i : Issue) (n : Nat) : LaneKey := ⟨i.key, n⟩

/-- Lanes of the entry, in increasing order. -/
def Issue.lanes (i : Issue) : List Nat := maskList i.mask

def State.laneAt (s : State) (i : Issue) (n : Nat) : Lane := (s.lane? (i.lane n)).getD {}

/-- Lanes of the entry that execute (08 R173). -/
def State.executing (s : State) (i : Issue) (g : Guard) : List Nat := i.lanes.filter fun n => (s.laneAt i n).passes g

/-- The issuing instruction waits: a source of an executing lane is pending outside its window, or a result that lands later would
follow one still pending outside its window. Log 5 (DESIGN CHOICE). Log 12 (DEDUCED). -/
def State.mustWait (s : State) (i : Issue) (g : Guard) (u : RegUse) : Bool :=
  (s.executing i g).any fun n =>
    let l := s.laneAt i n
    u.reads.any l.waitsFor || (u.long && u.writes.any l.waitsFor)

def Lane.lastReadAll (l : Lane) : List Nat → Lane
  | [] => l
  | n :: ns => (l.lastRead n).lastReadAll ns

/-- An instruction of the lane has completed its issue: last reads, breakpoint skip, windows. Log 74 (DEDUCED). -/
def Lane.complete (l : Lane) (last : List Nat) : Lane := ({ l.lastReadAll last with bks := false, skip := none }).tickWindows

/-- What becomes of a lane of the entry. An issue that parks shortens open windows when it parks and again when it executes again, but
for a park on growth, which is no issue of the instruction (04 R84). Log 20 (DEDUCED). -/
def Lane.settle (l : Lane) (i : Issue) (u : RegUse) (executes : Bool) (priv : Bool) (o : LaneOut) : Lane :=
  match o with
  | .go n => { l.complete (u.lastAt executes l.pending) with prio := (n.pair i priv).1, pc := (n.pair i priv).2, keeps := [] }
  | .eff _ => { l with prio := i.prio, pc := i.pc, keeps := [] }
  | .park b k2 =>
    if b = 7 then
      { l with status := .parked 7 k2, prio := i.prio, pc := i.pc, parkedCycles := 0, want := u.writes }
    else
      { l.tickWindows with status := .parked b k2, bks := false, skip := none, prio := i.prio, pc := i.pc, parkedCycles := 0,
                           lastReads := u.lastOf executes, keeps := [] }
  | .held h => { l with status := .held h, prio := i.prio, pc := i.pc, lastReads := u.lastOf executes, keeps := u.writes }
  | .stand p pc => { l with prio := p, pc := pc }
  | .stall | .off => l

/-- The lanes that stay in the frontier, each at its pair (02 R33). -/
def Cohort.enterAll (c : Cohort) (i : Issue) : List (Nat × LaneOut) → Cohort
  | [] => c
  | (n, .go x) :: rest =>
    let p := x.pair i c.priv
    (c.insert p.1 p.2 (1#64 <<< n)).enterAll i rest
  | (n, .stand p pc) :: rest => (c.insert p pc (1#64 <<< n)).enterAll i rest
  | _ :: rest => c.enterAll i rest

/-- The outcome of a lane: of its execution, or past the instruction when its guard is false. -/
def outOf (outs : List (Nat × LaneOut)) (n : Nat) : LaneOut := (lookup outs n).getD (.go .seq)

def Cohort.settleAll (c : Cohort) (i : Issue) (u : RegUse) (outs : List (Nat × LaneOut)) : Cohort :=
  let c1 := { c with
    frontier := removeLanes c.frontier i.mask
    lanes := c.lanes.map fun (x : Nat × Lane) =>
      if i.mask.getLsbD x.1 then (x.1, x.2.settle i u (lookup outs x.1).isSome c.priv (outOf outs x.1)) else x }
  c1.enterAll i (i.lanes.map fun n => (n, outOf outs n))

/-- Effects of the lanes, in increasing lane order (03 R62). -/
def State.duesOf (s : State) (i : Issue) (outs : List (Nat × LaneOut)) : List Due :=
  outs.filterMap fun x => match x.2 with
    | .eff e => some (s.due (i.lane x.1) e)
    | _ => none

/-- One more issue of the cohort (02 R43). -/
def State.noteIssue (s : State) (k : CohKey) : State :=
  ({ s with issues := s.issues + 1 }.modCohort k fun c => { c with lastIssue := s.issues + 1 }).modCore k.die k.core fun x =>
    { x with issues := x.issues + 1 }

/-- The entry has issued: its lanes advance, and effects are taken. -/
def State.finish (s : State) (i : Issue) (u : RegUse) (outs : List (Nat × LaneOut)) : State :=
  let s1 := (s.noteIssue i.key).modCohort i.key fun c => c.settleAll i u outs
  let dues := s1.duesOf i outs
  let s2 := s1.deliverAll dues
  s2.settleReserve i.key.die i.key.core

/-- Growth is refused: the executing lanes park (04 R84). -/
def State.refuseGrowth (s : State) (i : Issue) (u : RegUse) (ex : List Nat) : State :=
  let s1 := (s.noteIssue i.key).modCohort i.key fun c => c.settleAll i u (ex.map fun n => (n, .park 7 0))
  s1.grantReserve i.key.die i.key.core

/-- Run the executing lanes in increasing order. -/
def runLanes (f : State → Nat → State × LaneOut) : List Nat → State → State × List (Nat × LaneOut)
  | [], s => (s, [])
  | n :: ns, s =>
    let (s1, o) := f s n
    let (s2, os) := runLanes f ns s1
    (s2, (n, o) :: os)

/-- The issue of an instruction with registers `u`, whose executing lanes run `f`: it waits, or asks for growth, or runs. -/
def State.issueWith (s : State) (i : Issue) (g : Guard) (u : RegUse) (f : State → List Nat → State × List (Nat × LaneOut)) :
    State :=
  if s.mustWait i g u then s
  else
    let ex := s.executing i g
    if ex.isEmpty then s.finish i u []
    else if !s.growOk i.key u.writes then s.refuseGrowth i u ex
    else
      let r := f (s.noteGrown i.key u.writes) ex
      if r.2.any fun x => x.2 = .stall then s else r.1.finish i u r.2

/-- No issue is in progress any more. -/
def State.idle (s : State) : State := { s with issue := none }

/-- The meaning of an instruction in terms of the issue; nothing issues outside a step. -/
def withIssue (s : State) (f : Issue → State → State) : Host.Outcome State Fault Refusal :=
  match s.issue with
  | none => .fault .noIssue
  | some i => .next (f i s.idle)

/-- What a lane's registers become: its new state and where it goes on, or an effect. -/
abbrev RegOut := Except Effect (Lane × Next)

/-- An instruction that touches only the registers of each lane. -/
def runRegOps (i : Issue) (g : Lane → RegOut) (s : State) (ex : List Nat) : State × List (Nat × LaneOut) :=
  let outs := ex.map fun n => (n, match g (s.laneAt i n) with
    | .ok r => LaneOut.go r.2
    | .error e => .eff e)
  let set (c : Cohort) : Cohort := { c with
    lanes := c.lanes.map fun (x : Nat × Lane) =>
      if ex.contains x.1 then match g x.2 with
        | .ok r => (x.1, r.1)
        | .error _ => x
      else x }
  (s.modCohort i.key set, outs)

def execRegs (o : Op) (f : Form) (s : State) (g : Issue → Lane → RegOut) : Host.Outcome State Fault Refusal :=
  withIssue s fun i t => t.issueWith i f.guard (f.use o) (runRegOps i (g i))

/-- An instruction whose executing lanes act one after another. -/
def execLanes (o : Op) (f : Form) (s : State) (g : Issue → State → Nat → State × LaneOut) : Host.Outcome State Fault Refusal :=
  withIssue s fun i t => t.issueWith i f.guard (f.use o) fun t ex => runLanes (g i) ex t

end Sys2Proof.Machine
end

