-- ==== Sys2Proof/Machine/Operands.lean ====
section
/-! DEFINITION. Every operand form: integer and floating operands and results (09 R187, R188; 10 R218), operand B from a register,
word 2 or a literal (08 R172), and the addresses of the LSU (11 R250). -/

namespace Sys2Proof.Machine

/-! Integer types (08 R170, 09 R187). -/

def intWidth (ty : Nat) : Nat :=
  match ty with
  | 0 | 1 => 32
  | 2 | 3 => 64
  | 4 | 5 => 8
  | _ => 16

def intSigned (ty : Nat) : Bool := ty % 2 = 0

/-- The value of a type that bits hold. -/
def intOf (ty x : Nat) : Int := if intSigned ty then sextNat x (intWidth ty) else ((x % 2 ^ intWidth ty : Nat) : Int)

def tmin (ty : Nat) : Int := if intSigned ty then -(2 : Int) ^ (intWidth ty - 1) else 0
def tmax (ty : Nat) : Int := if intSigned ty then (2 : Int) ^ (intWidth ty - 1) - 1 else (2 : Int) ^ intWidth ty - 1

/-- An exact result delivered into a type (09 R188): saturated, or reduced modulo 2^n. -/
def intDeliver (ty : Nat) (sat : Bool) (x : Int) : Int :=
  if sat then max (tmin ty) (min (tmax ty) x) else intOf ty (truncInt x (intWidth ty))

/-! Registers as numbers. -/

def Lane.nat32 (l : Lane) (n : Nat) : Nat := (l.reg n).toNat
def Lane.nat64 (l : Lane) (n : Nat) : Nat := (l.regPair n).toNat

/-- A register operand of a type's register width. -/
def Lane.raw (l : Lane) (wide : Bool) (n : Nat) : Nat := if wide then l.nat64 n else l.nat32 n

def Lane.setRaw (l : Lane) (wide : Bool) (n x : Nat) : Lane :=
  if wide then l.setPair n (BitVec.ofNat 64 x) else l.setReg n (BitVec.ofNat 32 x)

/-- `opnd` of a register field (09 R187). -/
def Lane.opnd (l : Lane) (ty n : Nat) : Int := intOf ty (l.raw (intWidth ty = 64) n)

/-- `wr` (09 R187). -/
def Lane.wr (l : Lane) (ty n : Nat) (x : Int) : Lane :=
  if intWidth ty = 64 then l.setPair n (BitVec.ofInt 64 x) else l.setReg n (BitVec.ofInt 32 x)

/-! Operand B (08 R172). -/

/-- B as bits of a 32-bit or 64-bit integer operand. -/
def bRaw (o : Op) (f : Form) (l : Lane) (wide : Bool) : Nat :=
  match f.bSrc o with
  | .none => 0
  | .reg n => l.raw wide n
  | .imm => if wide then (f.w2.signExtend 64).toNat else f.w2.toNat
  | .lit v => if wide then v.toNat else v.toNat % 2 ^ 32

def bInt (o : Op) (f : Form) (l : Lane) (ty : Nat) : Int := intOf ty (bRaw o f l (intWidth ty = 64))

/-- B as the bits of a floating operand: in `.F64` word 2 is a binary32 encoding, converted exactly. -/
def bFloatRaw (o : Op) (f : Form) (l : Lane) (ty : Nat) : Nat :=
  match f.bSrc o with
  | .imm => if ty = 1 then (cvtFF f64 f32 0 f.w2.toNat).1 else f.w2.toNat
  | _ => bRaw o f l (ty = 1)

/-! Floating operands (10 R218). -/

/-- Bits of an operand of type TY: all 64 or 32, or the low 16 or 8. -/
def fltBits (ty x : Nat) : Nat :=
  match ty with
  | 0 | 6 | 7 => x % 2 ^ 32
  | 1 => x % 2 ^ 64
  | 2 | 3 => x % 2 ^ 16
  | _ => x % 2 ^ 8

def Lane.fopnd (l : Lane) (ty n : Nat) : Nat := fltBits ty (l.raw (ty = 1) n)
def fopndB (o : Op) (f : Form) (l : Lane) (ty : Nat) : Nat := fltBits ty (bFloatRaw o f l ty)

/-- `fwr` (10 R218). -/
def Lane.fwr (l : Lane) (ty n x : Nat) : Lane := l.setRaw (ty = 1) n x

/-- Rounding mode of a form (10 R222): RS, or `$frm` for `.DYN`. -/
def Form.mode (f : Form) (l : Lane) : Nat := if f.rs.toNat = 5 then l.frm.toNat else f.rs.toNat

/-! Addresses (11 R250). -/

/-- The address of an LSU access: a global address from a pair, or a scratch address from one register. -/
def memAddr (f : Form) (l : Lane) : W64 :=
  if f.xm then l.regPair f.a.toNat + f.w2.signExtend 64 else (l.reg f.a.toNat + f.w2).setWidth 64

end Sys2Proof.Machine
end

