-- ==== Sys2Proof/Machine/Flags.lean ====
section
/-! DEFINITION. Floating-point flags and their traps (05 R98, R99, R115), and the effects that instructions raise of their own. -/

namespace Sys2Proof.Machine

/-- ATRAP (03 R61): the causes, at the instruction. -/
def atrap (pc : Nat) (causes : Nat) : Effect :=
  { tag := 6, k2 := BitVec.ofNat 64 causes, k3 := hwDetail 0, cpc := some pc, xpc := pc }

/-- ILLEGAL with a cause (03 R61). -/
def illegal (i : Issue) (cause : Nat) : Effect :=
  { tag := 8, k2 := i.word.setWidth 64, k3 := hwDetail cause, cpc := some i.pc, xpc := i.pc }

/-- MISALIGN of an address that had to be a multiple of n (03 R61). -/
def misalign (i : Issue) (addr : W64) (n : Nat) : Effect :=
  { tag := 9, k2 := addr, k3 := hwDetail n, cpc := some i.pc, xpc := i.pc }

/-- STACKERR: the segments needed (03 R55, R61). -/
def stackErr (i : Issue) (n : Nat) : Effect :=
  { tag := 14, k2 := BitVec.ofNat 64 n, k3 := hwDetail 0, cpc := some i.pc, xpc := i.pc }

/-- CONTERR with a cause (03 R61). -/
def contErr (i : Issue) (k : W64) (cause : Nat) : Effect :=
  { tag := 11, k2 := k, k3 := hwDetail cause, cpc := some i.pc, xpc := i.pc }

/-- `fflag` (05 R99, R115): when an exception that arose is enabled the lane traps and nothing of it is written; otherwise the
flags accrue and the result is written. -/
def withFlags (i : Issue) (l : Lane) (fl : BitVec 5) (write : Lane → Lane) : RegOut :=
  if fl &&& l.fenable ≠ 0 then .error (atrap i.pc (fl &&& l.fenable).toNat)
  else .ok (write { l with fflags := l.fflags ||| fl }, .seq)

end Sys2Proof.Machine
end

