-- ==== Sys2Proof/Machine/Holds.lean ====
section
/-! DEFINITION. Lanes held by a fault (11 R252, 19 R393), and the fetch of an instruction's words (08 R164, 17 R355). -/

namespace Sys2Proof.Machine

/-- Hold lanes of the issuing entry for one faulting page, with its record (11 R252), where `cw` is the completion word of a copy or
freeze. `waits` says that a *long* reply leaves them
held until word C is written (19 R393). -/
def State.holdLanes (s : State) (i : Issue) (lanes : List Nat) (f : XFault) (acc path : Nat) (va : W64) (waits : Bool)
    (vas : List (Nat × W64) := []) (cw : Nat := 0) : Nat × State :=
  let (id, s1) := s.fresh
  let gang := s.gangNo i.key
  let h : Hold := { id := id, coh := i.key, mask := maskOf lanes, prio := i.prio, pc := i.pc, waits := waits, va := va, vas := vas
                    cause := f.cause }
  (id, { s1 with holds := s1.holds ++ [h] }.postFault i.key.die
    { faultRec f acc path va (maskOf lanes) i.pc gang i.key (.lanes id) with cw := cw })

/-- What fetching a word finds. -/
inductive Fetched where
  | word (w : W32)
  | fault (f : XFault) (va : W64)
  /-- Lanes whose fibres have a side-log entry for the page: they are held with its cause (07 R161). -/
  | logged (lanes : List Nat) (f : XFault) (va : W64)
  /-- A privileged address that is refused, or uncorrectable data: the effect of 17 R355. -/
  | raise (e : Effect)
  deriving DecidableEq, Repr

/-- MEMERR of a fetch (17 R355); detail bit 8 says that the address is refused. Log 49 (DEDUCED). -/
def fetchErr (pc at_ : Nat) (refused : Bool) : Effect :=
  { tag := 10, k2 := BitVec.ofNat 64 at_, k3 := hwDetail (if refused then 256 else 0), cpc := some pc, xpc := pc }

/-- The fault of an access to a page that has a side-log entry (07 R161). Log 54 (DEDUCED). -/
def SideEntry.xfault (e : SideEntry) : XFault := ⟨e.cause, if e.psize = 4 then 0 else e.psize, 0⟩

/-- Fetch one word at an address for lanes of a cohort, whose instruction is at `pc`. -/
def State.fetchWord (s : State) (k : CohKey) (priv : Bool) (lanes : List Nat) (pc at_ : Nat) : Fetched × State :=
  let read (t : State) (pa : Nat) : Fetched × State :=
    if t.badAt pa 4 then (.raise (fetchErr pc at_ false), t.eccRecord ⟨k, lanes.headD 0⟩ pa)
    else (.word (BitVec.ofNat 32 (ofBytes (t.viewN (observerOf k) pa 4))), t)
  if priv then (if s.physOk k.die at_ then read s at_ else (.raise (fetchErr pc at_ true), s))
  else
    let logged := lanes.filter fun n => (s.loggedFor ⟨k, n⟩ (va57 at_).toNat).isSome
    match logged.head?.bind fun n => s.loggedFor ⟨k, n⟩ (va57 at_).toNat with
    | some e => (.logged logged e.xfault (va57 at_), s)
    | none =>
      match s.translate k.die k.core (va57 at_) .fetch with
      | (.error f, t) => (.fault f (va57 at_), t)
      | (.ok x, t) => read t x.pa

/-- Fetch n words. -/
def State.fetchWords (s : State) (k : CohKey) (priv : Bool) (lanes : List Nat) (pc at_ : Nat) : Nat → Except Fetched (List W32) × State
  | 0 => (.ok [], s)
  | n + 1 =>
    match s.fetchWord k priv lanes pc at_ with
    | (.word w, t) =>
      match t.fetchWords k priv lanes pc (at_ + 4) n with
      | (.ok ws, t') => (.ok (w :: ws), t')
      | r => r
    | (x, t) => (.error x, t)

end Sys2Proof.Machine
end

