-- ==== Sys2Proof/Machine/Boundary.lean ====
section
/-! DEFINITION. Effects raised before an entry issues (03 R58): late effects, then PREEMPT, LIMIT and BREAK; breakpoints,
watchpoints and parked groups (23 R454 to R457). -/

namespace Sys2Proof.Machine

def offSOL : Nat := 0x300000
def offBP (n : Nat) : Nat := offSOL + 0x100 + 0x10 * n
def offWP (m : Nat) : Nat := offSOL + 0x200 + 0x20 * m

/-- Deliver effects to lanes of the entry; the issue executes no instruction, and the other lanes stay at the same pair (03 R58). Log 134 (DEDUCED). -/
def State.handOut (s : State) (i : Issue) (fx : List (Nat × Effect)) : State :=
  let hit := maskOf (fx.map fun x => x.1)
  let stand (c : Cohort) : Cohort := { c with
    frontier := insertLanes (removeLanes c.frontier i.mask) i.prio i.pc (i.mask &&& ~~~hit)
    lanes := c.lanes.map fun (x : Nat × Lane) => if hit.getLsbD x.1 then (x.1, { x.2 with prio := i.prio, pc := i.pc }) else x }
  let s1 := (s.noteIssue i.key).modCohort i.key stand
  let dues := fx.map fun x => s1.due (i.lane x.1) x.2
  (s1.deliverAll dues).settleReserve i.key.die i.key.core

/-! Late effects. -/

/-- The first late effect of each lane of the entry that has one. Log 134 (DEDUCED). -/
def State.lateFx (s : State) (i : Issue) : List (Nat × Effect) :=
  i.lanes.filterMap fun n => match (s.laneAt i n).late with
    | e :: _ => some (n, e)
    | [] => none

def State.dropLate (s : State) (k : LaneKey) : State := s.modLane k fun l => { l with late := l.late.tail }

/-- Log 134 (DEDUCED). -/
def execLateEffect (s : State) : Host.Outcome State Fault Refusal :=
  match s.issue with
  | none => .next s
  | some i =>
    let t := { s with issue := none }
    let fx := t.lateFx i
    .next ((foldState (fun (x : State) (y : Nat × Effect) => x.dropLate (i.lane y.1)) fx t).handOut i fx)

/-! Breakpoints. -/

/-- Whether a cohort's group is parked at a breakpoint (23 R457). -/
def Park.holds (p : Park) (k : CohKey) (c : Cohort) : Bool :=
  p.gang = c.gang && p.core = k.core && p.role = c.role && p.member = c.member

def State.groupParked (s : State) (k : CohKey) (c : Cohort) : Bool :=
  !c.priv && (s.die k.die).parks.any fun p => match p with
    | some x => x.holds k c
    | none => false

/-- Whether some group of a gang is parked on a die of its partition. -/
def State.gangParked (s : State) (pid gang : Nat) : Bool :=
  s.dies.any fun d => s.pid d.1 = pid && d.2.parks.any fun p => match p with
    | some x => x.gang = gang
    | none => false

/-- A control word of a break- or watchpoint (23 R454) applies to a cohort: ACT, SUPV, GANG. -/
def matchCtl (w : W64) (c : Cohort) : Bool :=
  bits w.toNat 33 32 < 2 && (!c.priv || w.getLsbD 34) && (bits w.toNat 31 0 = 0 || (!c.priv && bits w.toNat 31 0 = c.gang))

/-- Lanes of the entry that the break- or watchpoint of a number may match (03 R61, 23 R457). Log 47 (DEDUCED). -/
def State.matchable (s : State) (i : Issue) (n : Nat) : List Nat :=
  i.lanes.filter fun x => !(s.laneAt i x).bks && (s.laneAt i x).skip ≠ some n

/-- The lowest breakpoint that matches lanes of the entry, with its ACT. -/
def State.breakAt (s : State) (i : Issue) (c : Cohort) : Option (Nat × Nat) :=
  ((List.range 8).find? fun n =>
    !(s.matchable i n).isEmpty &&
    let pc := s.dcr i.key.die (offBP n)
    let ctl := s.dcr i.key.die (offBP n + 8)
    pc.getLsbD 63 && bits pc.toNat 56 2 = i.pc / 4 && matchCtl ctl c).map fun n =>
      (n, bits (s.dcr i.key.die (offBP n + 8)).toNat 33 32)

/-- BREAK (03 R61). -/
def breakEffect (pc : Nat) (va : W64) (number : Nat) : Effect :=
  { tag := 12, k2 := va, k3 := hwDetail number, cpc := some pc, xpc := pc, bks := true, cls := .boundary }

/-- Whether a hit with ACT 1 can park the group (23 R456). -/
def State.parkFree (s : State) (d : Nat) : Option Nat := (List.range 4).find? fun k => ((s.die d).parks.getD k none).isNone

/-- Park the group of an entry at a hit (23 R456); the entry stays where it stands. -/
def State.parkGroup (s : State) (i : Issue) (c : Cohort) (number k : Nat) : State :=
  let p : Park := { bp := number, gang := c.gang, core := i.key.core, role := c.role, member := c.member, slot := i.key.slot,
                    prio := i.prio, pc := i.pc, mask := i.mask }
  (s.modDie i.key.die fun x => { x with parks := x.parks.set k (some p) }).alm i.key.die i.key.core 0x42 i.key.slot 0 0
    (BitVec.ofNat 64 c.gang)

/-- What a hit does: park the group, or effects for lanes. -/
inductive Hit where
  | none
  | park (k number : Nat)
  | fx (xs : List (Nat × Effect))
  deriving DecidableEq, Repr

/-- The outcome of a hit with ACT `act` at lanes (23 R455, R456). -/
def State.hitOf (s : State) (i : Issue) (c : Cohort) (number act : Nat) (xs : List (Nat × W64)) : Hit :=
  if xs.isEmpty then .none
  else match if act = 1 && !c.priv then s.parkFree i.key.die else Option.none with
    | some k => .park k number
    | Option.none => .fx (xs.map fun x => (x.1, breakEffect i.pc x.2 number))

/-- The breakpoint hit of the entry. -/
def State.breakHit (s : State) (i : Issue) (c : Cohort) : Hit :=
  match s.breakAt i c with
  | Option.none => .none
  | some (n, act) => s.hitOf i c n act ((s.matchable i n).map fun x => (x, 0))

/-! Boundary effects. -/

/-- PREEMPT (03 R61). -/
def preemptEffect (pc : Nat) : Effect :=
  { tag := 7, k2 := 0, k3 := hwDetail 0, cpc := some pc, xpc := pc, cls := .boundary }
/-- LIMIT (03 R61). -/
def limitEffect (pc : Nat) : Effect :=
  { tag := 13, k2 := 0, k3 := hwDetail 0, cpc := none, xpc := pc, cls := .boundary }

/-- The effects due to lanes of the entry before it issues: for each lane the first of PREEMPT and LIMIT. -/
def State.dueFx (s : State) (i : Issue) : List (Nat × Effect) :=
  i.lanes.filterMap fun n =>
    let l := s.laneAt i n
    if l.preemptDue then some (n, preemptEffect i.pc)
    else if l.limitDue then some (n, limitEffect i.pc)
    else none

/-- The boundary effects of the entry, a hit of a breakpoint last. -/
def State.boundaryFx (s : State) (i : Issue) : Hit :=
  match s.dueFx i with
  | [] => match s.cohort? i.key with
    | some c => s.breakHit i c
    | none => .none
  | xs => .fx xs

/-- A delivered effect is due no more. -/
def Lane.clearDue (l : Lane) (e : Effect) : Lane :=
  if e.tag = 7 then { l with preemptDue := false } else if e.tag = 13 then { l with limitDue := false } else l

def State.takeHit (s : State) (i : Issue) : Hit → State
  | .none => s
  | .park k n => match s.cohort? i.key with
    | some c => s.parkGroup i c n k
    | none => s
  | .fx xs => (foldState (fun (x : State) (y : Nat × Effect) => x.modLane (i.lane y.1) fun l => l.clearDue y.2) xs s).handOut i xs

def execBoundaryEffect (s : State) : Host.Outcome State Fault Refusal :=
  match s.issue with
  | none => .next s
  | some i =>
    let t := { s with issue := none }
    .next (t.takeHit i (t.boundaryFx i))

/-! Watchpoints. -/

/-- The lowest watchpoint that meets a lane's access of n bytes (23 R455); `stores` for stores, atomics and reductions. -/
def State.watchAt (s : State) (i : Issue) (c : Cohort) (lane : Nat) (stores : Bool) (va : W64) (n : Nat) : Option (Nat × Nat) :=
  ((List.range 4).find? fun m =>
    let base := s.dcr i.key.die (offWP m)
    let last := bits (s.dcr i.key.die (offWP m + 8)).toNat 56 0
    let ctl := s.dcr i.key.die (offWP m + 16)
    let kind := bits ctl.toNat 36 35
    let a := va.toNat % 2 ^ 57
    base.getLsbD 63 && (s.matchable i (8 + m)).contains lane && (if stores then 2 ≤ kind else kind % 2 = 1) && matchCtl ctl c
      && decide (bits base.toNat 56 0 < a + n) && decide (a ≤ last)).map fun m =>
      (8 + m, bits (s.dcr i.key.die (offWP m + 16)).toNat 33 32)

/-- The watchpoint hit of the executing lanes' accesses: the lowest number that any lane meets decides. Log 60 (DEDUCED). -/
def State.watchHit (s : State) (i : Issue) (stores : Bool) (xs : List (Nat × W64 × Nat)) : Hit :=
  match s.cohort? i.key with
  | none => .none
  | some c =>
    let hits := xs.filterMap fun x =>
      (s.watchAt i c x.1 stores x.2.1 x.2.2).map fun y => (x.1, x.2.1, y)
    match hits.foldl (fun (b : Option (Nat × Nat)) h =>
        match b with
        | none => some h.2.2
        | some y => if h.2.2.1 < y.1 then some h.2.2 else some y) none with
    | none => .none
    | some (n, act) => s.hitOf i c n act ((hits.filter fun h => h.2.2.1 = n).map fun h => (h.1, h.2.1))

end Sys2Proof.Machine
end

