-- ==== Sys2Proof/WellFormed.lean ====
section
/-! DEFINITION. Well-formed instructions and steps: an instruction whose words pass every static check of 08 R180 (causes 1 and 2,
but for the kernel's peak and the mode, which depend on who executes it), and a step whose operands name things the part has. -/

namespace Sys2Proof

/-- An instruction's fields are those of one of its encodings (08 R164 to R180). -/
def Form.wf (o : Op) (f : Form) : Bool :=
  o.rule.lens.contains f.len && f.implied o && f.aligned o && f.reservedOk o

/-- A PAIR that no static check refuses (08 R177, R178). -/
def PairForm.wf (p : PairForm) : Bool := p.opsOk && p.reservedOk

def dieOk (d : Nat) : Bool := d < Config.dies
def CohKey.wf (c : CohKey) : Bool := dieOk c.die && c.core < Config.cores && c.slot < Config.slots
def LaneKey.wf (l : LaneKey) : Bool := l.coh.wf && l.lane < Config.width

/-- Observers of 07 R135: 768 cores and the host. -/
def observerOk (o : Nat) : Bool := o ≤ Config.hostObserver

/-- Dies that share an edge of the mesh (01 R17). -/
def adjacent (a b : Nat) : Bool :=
  (a / 4 = b / 4 && (a % 4 = b % 4 + 1 || b % 4 = a % 4 + 1)) || (a % 4 = b % 4 && (a / 4 = b / 4 + 1 || b / 4 = a / 4 + 1))

def LinkId.wf : LinkId → Bool
  | .bridge a b => dieOk a && dieOk b && adjacent a b
  | .port p => p < 48

def ApplyAt.wf : ApplyAt → Bool
  | .home lag => lag.all observerOk
  | .observer o => observerOk o

def AlmBuf.wf : AlmBuf → Bool
  | .core c => c < Config.cores
  | .sched => true

/-- Scratch pages of a core (06 R122), granules of a package (06 R133). -/
def sectorOk (s : Nat) : Bool := s < 128
def granuleOk (g : Nat) : Bool := g < 2 ^ 41

/-- BAR0 among the addresses of the host's accesses (21 R417): 256 MiB above the 56 bits of a physical address. Log 161 (DESIGN CHOICE). -/
def bar0Base : Nat := 2 ^ 56
def inBar0 (a : Nat) : Bool := bar0Base ≤ a && a < bar0Base + 2 ^ 28

/-- A well-formed instruction or step. -/
def Instr.wf (i : Instr) : Bool :=
  match i.op with
  | some .pair => i.pairForm.wf
  | some o => i.form.wf o
  | none =>
    match i with
    | .entryAged c _ pc => c.wf && pc % 4 = 0
    | .wake l | .await l | .qpopComplete l | .loadDataReturn l _ => l.wf
    | .sfuResultRetire d c => dieOk d && c < Config.cores
    | .activeSetDisplace d c => dieOk d && c < Config.cores
    | .writeApply _ a => a.wf
    | .stashFill _ s | .stashRecall _ s | .scratchRefill _ s => sectorOk s
    | .sideLogReplay d c _ => dieOk d && c < Config.cores
    | .faultRecordWrite d | .faultTimeout d _ | .hostRequestRecord d | .hotnessDecay d | .calendsPass d | .calDlqpop d
    | .calHlqtail d _ | .calBind d _ | .calPreempt d _ | .preemptDeadline d | .relockEnd d | .currentLimit d
    | .thermalThrottle d _ | .thermalTrip d | .almCutreq d _ | .cut _ d | .almanacFreeze _ d | .solStopArm d _
    | .solsticeStop d | .solResume d _ | .ckCapture d | .ckQuiesceDone d | .ckBuddyTimeout d | .ckRelease d | .ckRestoreOwn d
    | .ckRestoreSrc d => dieOk d
    | .hotnessProposal d g p => dieOk d && granuleOk g && p < 4096
    | .msiWrite d off _ => dieOk d && off < 4096 && off % 4 = 0
    | .hostWrite l hpa pa data => l < 4 && hpa < 2 ^ 55 && (pa < 2 ^ 56 || inBar0 pa) && !data.isEmpty && data.length ≤ 4096
    | .hostRead pa len => (pa < 2 ^ 55 || inBar0 pa) && 0 < len && len ≤ 4096
    | .hostSnoop line => line % 64 = 0 && line < 2 ^ 55
    | .flitReceive l f => l.wf && f.payload.length = 232
    | .nakReceive l | .linkReplayTimeout l | .linkRetrain l _ => l.wf
    | .taskStart d q => dieOk d && q < 12
    | .arbiterPass _ p => p.length = Config.dies
    | .bootStage r => match r with
      | .links ws => ws.length = 4
      | _ => true
    | .almanacCopyDone _ d b => dieOk d && b.wf
    | .imgload _ _ _ body => body.length ≤ 4096
    | .reset _ k => k < 2 ^ 32
    | .setpart _ d p => dieOk d && p < 4096
    | .setpolicy _ p _ => p < 4096
    | .vread _ s _ _ | .vrelease _ s _ => s < 4
    | .parkGo d k => dieOk d && k < 4
    | .sampleRecord d c => dieOk d && c < Config.cores
    | .dcrWrite d off _ => dieOk d && off < 2 ^ 24 && off % 8 = 0
    | .hostLinkDown l => l < 4
    | _ => true

end Sys2Proof
end

