-- ==== Sys2Proof/Decode.lean ====
section
/-! DEFINITION. Words to instructions and back (08 R164 to R180). `parse` finds the instruction that words name, or why they name
none (cause 1 of R180); fields that a later check of R180 refuses stay as they are in the instruction, and `Instr.wf` tells. -/

namespace Sys2Proof

/-- Why bytes are no instruction. -/
inductive Reject where
  /-- Fewer bytes than the length that LEN gives. -/
  | short
  /-- MAJ and FN, or SUB, name "—" (cause 1). -/
  | undefined
  /-- LEN is not permitted for the instruction (cause 1). -/
  | length
  /-- A PAIR operation is undefined (cause 1). -/
  | pairOp
  /-- An odd first register of a pair, or a quad that is not a multiple of 4 (cause 1). -/
  | register
  deriving DecidableEq, Repr

/-- Bits [lo+n-1:lo] of a word. -/
abbrev field (w : W32) (lo n : Nat) : BitVec n := w.extractLsb' lo n

/-- Bit i of a word. -/
abbrev flag (w : W32) (i : Nat) : Bool := w.getLsbD i

/-- The words after the first (08 R164). -/
structure Words where
  first : W32
  ext : Option (W32 × W32) := none
  lit : Option W64 := none
  deriving DecidableEq, Repr

/-- The fields of words (08 R165, R167, R169): without extended words, RS is `.DYN` for an instruction that rounds. -/
def formOf (o : Op) (w : Words) : Form :=
  match w.ext with
  | some (x, y) =>
    { top := field w.first 25 7, a := field w.first 18 7, d := field w.first 11 7, ext := true
      b := field x 25 7, c := field x 18 7, gv := flag x 17, gp := field x 14 3, gs := flag x 13, rs := field x 10 3
      ord := field x 8 2, lra := flag x 7, lrb := flag x 6, lrc := flag x 5, ty := field x 2 3, xm := flag x 1
      bsel := flag x 0, w2 := y, lit := w.lit }
  | none =>
    { top := field w.first 25 7, a := field w.first 18 7, d := field w.first 11 7
      rs := if o.rule.rs = .rounding then 5 else 0, lit := w.lit }

/-- A half of a PAIR (08 R177). -/
def halfOf (w : W32) : Half :=
  { op := field w 26 6, d := field w 20 6, a := field w 14 6, b := field w 8 6, bi := flag w 7, lra := flag w 6, lrb := flag w 5
    rsv := field w 0 5 }

def pairOf (w : Words) : PairForm :=
  let (x, y) := w.ext.getD (0, 0)
  { immY := field w.first 24 8, immX := field w.first 16 8, gv := flag w.first 15, gp := field w.first 12 3, gs := flag w.first 11
    x := halfOf x, y := halfOf y }

/-- XM of words. -/
def Words.xm (w : Words) : Bool := match w.ext with
  | some (x, _) => flag x 1
  | none => false

def Words.len (w : Words) : Nat := (if w.ext.isSome then 2 else 0) + (if w.lit.isSome then 1 else 0)

/-- The opcode that words name (08 R179). -/
def Words.op (w : Words) : Option Op :=
  opOf (field w.first 2 6).toNat (field w.first 8 3).toNat (field w.first 25 3).toNat w.len w.xm

/-- The instruction that words name, by the checks of cause 1 (08 R180) but the peak. -/
def decodeWords (w : Words) : Except Reject Instr :=
  match w.op with
  | none => .error .undefined
  | some o =>
    if !o.rule.lens.contains w.len then .error .length
    else
      let f := formOf o w
      let p := if o = .pair then pairOf w else {}
      if o = .pair && !p.opsOk then .error .pairOp
      else if o ≠ .pair && !f.aligned o then .error .register
      else .ok (.ofOp o f p)

/-- A little-endian word (08 R164), and the bytes after it. -/
def takeWord : List Byte → Option (W32 × List Byte)
  | a :: b :: c :: d :: rest => some (d ++ c ++ b ++ a, rest)
  | _ => none

/-- The words that LEN announces (08 R164), and the bytes after them. -/
def takeWords (bs : List Byte) : Option (Words × List Byte) :=
  (takeWord bs).bind fun x =>
    let ext : Option (Option (W32 × W32) × List Byte) :=
      if flag x.1 1 then (takeWord x.2).bind fun y => (takeWord y.2).map fun z => (some (y.1, z.1), z.2)
      else some (none, x.2)
    ext.bind fun e =>
      let lit : Option (Option W64 × List Byte) :=
        if flag x.1 0 then (takeWord e.2).bind fun lo => (takeWord lo.2).map fun hi => (some (hi.1 ++ lo.1), hi.2)
        else some (none, e.2)
      lit.map fun l => (⟨x.1, e.1, l.1⟩, l.2)

/-- The decoder: the instruction at the front of a list of bytes, and the bytes after it; or why there is none. -/
def decode (bs : List Byte) : Except Reject (Instr × List Byte) :=
  match takeWords bs with
  | none => .error .short
  | some (w, rest) =>
    match decodeWords w with
    | .ok i => .ok (i, rest)
    | .error e => .error e

/-- Length in bytes of the instruction whose first word is given (08 R164). -/
def wordLength (w : W32) : Nat := 4 + (if flag w 1 then 8 else 0) + (if flag w 0 then 8 else 0)

/-! The encoder, from the same tables. -/

/-- A flag as one bit. -/
abbrev bit1 (b : Bool) : BitVec 1 := BitVec.ofBool b

/-- The first word of a form (08 R165). -/
def firstWord (o : Op) (f : Form) : W32 :=
  f.top ++ f.a ++ f.d ++ BitVec.ofNat 3 o.rule.fn ++ BitVec.ofNat 6 o.rule.maj ++ bit1 f.ext ++ bit1 f.lit.isSome

/-- Word 1 of a form (08 R167). -/
def Form.word1 (f : Form) : W32 :=
  f.b ++ f.c ++ bit1 f.gv ++ f.gp ++ bit1 f.gs ++ f.rs ++ f.ord ++ bit1 f.lra ++ bit1 f.lrb ++ bit1 f.lrc ++ f.ty ++ bit1 f.xm
    ++ bit1 f.bsel

def Form.words (o : Op) (f : Form) : Words :=
  ⟨firstWord o f, if f.ext then some (f.word1, f.w2) else none, f.lit⟩

/-- A half of a PAIR (08 R177). -/
def Half.word (h : Half) : W32 := h.op ++ h.d ++ h.a ++ h.b ++ bit1 h.bi ++ bit1 h.lra ++ bit1 h.lrb ++ h.rsv

def PairForm.words (p : PairForm) : Words :=
  ⟨p.immY ++ p.immX ++ bit1 p.gv ++ p.gp ++ bit1 p.gs ++ BitVec.ofNat 3 0 ++ BitVec.ofNat 6 0x3D ++ (2 : BitVec 2),
   some (p.x.word, p.y.word), none⟩

/-- Bytes of a word, and of an instruction's words. -/
def wordBytes (w : W32) : List Byte := [w.extractLsb' 0 8, w.extractLsb' 8 8, w.extractLsb' 16 8, w.extractLsb' 24 8]

def Words.bytes (w : Words) : List Byte :=
  wordBytes w.first
    ++ (match w.ext with
      | some (x, y) => wordBytes x ++ wordBytes y
      | none => [])
    ++ (match w.lit with
      | some v => wordBytes (v.extractLsb' 0 32) ++ wordBytes (v.extractLsb' 32 32)
      | none => [])

/-- The words of an instruction; none for a step that has no encoding. -/
def Instr.words (i : Instr) : Option Words :=
  match i.op with
  | some .pair => some i.pairForm.words
  | some o => some (i.form.words o)
  | none => none

/-- The bytes of an instruction. -/
def encode (i : Instr) : List Byte := match i.words with
  | some w => w.bytes
  | none => []

/-- The n low bytes of a number, least significant first. -/
def numBytes (w : Nat) : Nat → List Byte
  | 0 => []
  | n + 1 => BitVec.ofNat 8 w :: numBytes (w / 256) n

/-- The longest instruction, in bytes (08 R164). -/
def longest : Nat := 20

/-- The bytes of an instruction whose bits are numbered from its first word up, as memory holds them; bits above are 0. -/
def tableBytes (nbits w : Nat) : List Byte := numBytes (w % 2 ^ nbits) longest

/-- The instruction that the decoder reads from an instruction's bits. -/
def decodeTableWord (nbits w : Nat) : Option Instr :=
  match decode (tableBytes nbits w) with
  | .ok (i, _) => some i
  | .error _ => none

end Sys2Proof
end

