-- ==== Sys2Proof/Machine/Trace.lean ====
section
/-! DEFINITION. Instruction trace (23 R458 to R460) and sampling (23 R461). -/

namespace Sys2Proof.Machine

def offTRCTL : Nat := offSOL + 0x400
def offTRBASE : Nat := offSOL + 0x408
def offTRSIZE : Nat := offSOL + 0x410
def offTRPTR : Nat := offSOL + 0x418
def offTRSTAT : Nat := offSOL + 0x420
def offSMPCTL : Nat := offSOL + 0x440
def offSMPBASE : Nat := offSOL + 0x448
def offSMPSIZE : Nat := offSOL + 0x450

/-- A core is traced. -/
def State.traces (s : State) (d c : Nat) : Bool := (s.dcr d offTRCTL).getLsbD 63 && (s.dcr d offTRCTL).getLsbD c

/-- Head of a trace record (23 R459). -/
def traceHead (type core slot : Nat) : Nat := type + 2 ^ 8 * core + 2 ^ 14 * slot

/-- A slot needs a SYNC before its next record (23 R459, R460). -/
def State.owesSync (s : State) (d c slot : Nat) : State :=
  s.modCore d c fun x => { x with syncDue := if x.syncDue.contains slot then x.syncDue else slot :: x.syncDue }

/-- A record is dropped and counted; its slot owes a SYNC (23 R459). -/
def State.traceDrop (s : State) (d c slot : Nat) : State :=
  let stat := (s.dcr d offTRSTAT).toNat
  (s.setDcr d offTRSTAT (BitVec.ofNat 64 (2 ^ 63 * bits stat 63 63 + min (2 ^ 32 - 1) (bits stat 31 0 + 1)))).owesSync d c slot

/-- Where the next record of the ring of a die goes: an offset, none when the ring is full and does not wrap (23 R458). -/
def State.traceOff (s : State) (d : Nat) : Option Nat :=
  let size := 4096 * bits (s.dcr d offTRSIZE).toNat 31 12
  let off := bits (s.dcr d offTRPTR).toNat 31 0
  if off + 16 ≤ size then some off else if size ≠ 0 && (s.dcr d offTRCTL).getLsbD 62 then some 0 else none

/-- A record leaves the staging queue for the ring, or is dropped when the ring is full. -/
def State.traceWrite (s : State) (d : Nat) (x : Nat × Nat × Nat) : State :=
  match s.traceOff d with
  | none => (s.setDcr d offTRSTAT (s.dcr d offTRSTAT ||| 0x8000000000000000)).traceDrop d x.1 x.2.1
  | some off =>
    let size := 4096 * bits (s.dcr d offTRSIZE).toNat 31 12
    let next := if (s.dcr d offTRCTL).getLsbD 62 && size ≤ off + 16 then 0 else off + 16
    let s1 := s.engineStore ⟨⟨d, x.1, x.2.1⟩, 0⟩ (4096 * bits (s.dcr d offTRBASE).toNat 56 12 + off) (toBytes x.2.2 16)
    (s1.setDcr d offTRPTR (BitVec.ofNat 64 next)).modDie d fun y => { y with traced := y.traced + 1 }

/-- The home of the ring's next record runs. -/
def State.traceHome (s : State) (d : Nat) : Bool :=
  match s.traceOff d with
  | none => true
  | some off => s.homeAwake (4096 * bits (s.dcr d offTRBASE).toNat 56 12 + off) ⟨d, 0, 0⟩ none false

/-- Up to n staged records reach the ring. -/
def State.traceDrain (s : State) (d : Nat) : Nat → State
  | 0 => s
  | n + 1 => match (s.die d).traceStaged with
    | [] => s
    | x :: rest => if s.traceHome d then ((s.modDie d fun y => { y with traceStaged := rest }).traceWrite d x).traceDrain d n else s

/-- As many staged records reach the ring as the machine chooses. Log 45 (DESIGN CHOICE). -/
def State.traceFlow (s : State) (d : Nat) : State :=
  let n := (s.die d).traceStaged.length
  if n = 0 || !s.awake d then s
  else
    let (m, s1) := s.choose (n + 1)
    s1.traceDrain d m

/-- Entries of the staging queue (23 R459). -/
def traceQueue : Nat := 128

/-- Records of one slot enter the staging queue; each one that finds it full is dropped (23 R459). Log 45 (DESIGN CHOICE). -/
def State.traceAll (s : State) (d c slot : Nat) (rs : List Nat) : State :=
  let put (t : State) (r : Nat) : State :=
    if traceQueue ≤ (t.die d).traceStaged.length then t.traceDrop d c slot
    else t.modDie d fun y => { y with traceStaged := y.traceStaged ++ [(c, slot, r)] }
  foldState put rs (s.traceFlow d)

/-- Staged records of every die may reach the ring as time passes. -/
def State.traceTick (s : State) : State :=
  if s.dies.all fun d => d.2.traceStaged.isEmpty then s else foldState (fun (t : State) d => t.traceFlow d) (List.range Config.dies) s

/-- A SYNC record with the frontier images of a slot and the word of zeros that ends them (02 R46; 23 R459, R460). The next record is preceded by a MASK. -/
def State.traceSync (s : State) (d c slot : Nat) (fr : List Entry) : State :=
  let head := traceHead 3 c slot + 2 ^ 18 * fr.length + 2 ^ 64 * s.tick
  let s1 := s.modCore d c fun x => { x with
    syncDue := x.syncDue.filter fun y => y ≠ slot
    traceMask := x.traceMask.filter fun y => y.1 ≠ slot }
  s1.traceAll d c slot (head :: ((fr.map fun e => ofBytes e.image) ++ [0]))

/-- SYNC for every resident cohort of the traced cores of a die. -/
def State.traceSyncDie (s : State) (d : Nat) : State :=
  foldState (fun (t : State) (x : CohKey × Cohort) =>
    if x.1.die = d && t.traces d x.1.core then t.traceSync d x.1.core x.1.slot x.2.frontier else t) s.cohorts s

/-- Trace one issue: SYNC when due, MASK when the mask differs from the last traced, ISSUE (23 R459). Log 45 (DESIGN CHOICE). -/
def State.traceIssue (s : State) (i : Issue) (fr : List Entry) : State :=
  let d := i.key.die
  let c := i.key.core
  let slot := i.key.slot
  if !s.traces d c then s
  else
    let s1 := if (s.core d c).syncDue.contains slot then s.traceSync d c slot fr else s
    let mask := if lookup (s1.core d c).traceMask slot = some i.mask then [] else [traceHead 2 c slot + 2 ^ 64 * i.mask.toNat]
    let issue := traceHead 1 c slot + 2 ^ 18 * (s1.tick % 2 ^ 24) + 2 ^ 42 * (i.pc / 4 % 2 ^ 55) + 2 ^ 97 * i.prio.toNat
    let s2 := s1.modCore d c fun x => { x with traceMask := insertKey x.traceMask slot i.mask }
    let s3 := s2.traceAll d c slot (mask ++ [issue])
    if 4096 ≤ (s3.die d).traced then (s3.modDie d fun x => { x with traced := x.traced - 4096 }).traceSyncDie d else s3

/-! Sampling. -/

/-- Level of the data path of an instruction by its major group (23 R461): where a memory access was served is not the
specification's to say, and is a free value. Log 46 (DESIGN CHOICE). -/
def sampleLevel (w : W32) (s : State) : Nat × State :=
  let maj := bits w.toNat 7 2
  let fn := bits w.toNat 10 8
  if maj = 0x1C then (8, s)
  else if maj = 0x20 then (9, s)
  else if maj = 0x31 || maj = 0x32 then (10, s)
  else if maj = 0x24 || maj = 0x25 || (maj = 7 && 3 ≤ fn) then
    let (v, t) := s.drawValue
    (1 + v.toNat % 7, t)
  else (0, s)

/-- Accesses and results that an instruction left under way: those numbered from `lo` up. -/
def State.underWay (s : State) (k : CohKey) (lo : Nat) : List Nat :=
  ((s.loads.filter fun x => x.src.coh = k).map fun x => x.id).filter (lo ≤ ·)
    ++ ((s.atomics.filter fun x => x.src.coh = k).map fun x => x.id).filter (lo ≤ ·)
    ++ (((s.core k.die k.core).sfu.filter fun x => x.key.coh = k).map fun x => x.id).filter (lo ≤ ·)
    ++ ((s.qwaits.filter fun x => x.key.coh = k).map fun x => x.id).filter (lo ≤ ·)

/-- Stays of the lanes of a mask. -/
def State.stays (s : State) (i : Issue) : List (Option Nat) := i.lanes.map fun n => (s.lane? (i.lane n)).map fun l => l.stay

/-- One issue passes the sampler of its core; `old` is the state before it. Log 46 (DESIGN CHOICE). -/
def State.sampleIssue (s old : State) (i : Issue) : State :=
  let d := i.key.die
  let c := i.key.core
  let ctl := (s.dcr d offSMPCTL).toNat
  let co := s.core d c
  if !ctl.testBit 63 || co.sample.isSome then s
  else
    let period := max 256 (bits ctl 31 0)
    let (left, s1) := match co.sampleLeft with
      | some n => (n, s)
      | none =>
        let (x, t) := s.choose (period + 1)
        (period / 2 + x, t)
    if 1 < left then s1.modCore d c fun x => { x with sampleLeft := some (left - 1) }
    else
      let (level, s2) := sampleLevel i.word s1
      let holds := (s2.holds.filter fun h => h.coh = i.key && decide (old.nextId ≤ h.id)).map fun h => h.id
      let gang := match old.cohort? i.key with
        | some x => x.gang
        | none => 0
      let out := if old.stays i = s2.stays i then (if holds.isEmpty then 0 else 2) else 1
      let x : Sample := { tick := s2.tick, pc := i.pc, mask := i.mask, slot := i.key.slot, gang := gang, level := level, out := out,
                          waits := s2.underWay i.key old.nextId, holds := holds }
      s2.modCore d c fun y => { y with sample := some x, sampleLeft := none }

/-- A tagged instruction's result is discarded (23 R461). -/
def State.noteDiscard (s : State) (k : LaneKey) (ids : List Nat) : State :=
  match (s.core k.coh.die k.coh.core).sample with
  | some x =>
    if x.waits.any ids.contains then
      s.modCore k.coh.die k.coh.core fun y => { y with sample := some { x with out := 3 } }
    else s
  | none => s

end Sys2Proof.Machine
end

