-- ==== Sys2Proof/Machine/Integer.lean ====
section
/-! DEFINITION. Integer, logic, move, predicate and special-register instructions (09 R187 to R206), and PAIR (08 R177, R178). -/

namespace Sys2Proof.Machine

/-! Arithmetic (09 R191 to R193). -/


/-- The result of an arithmetic instruction of a lane: an exact function of its operands, saturated or wrapped (09 R188, R191). -/
def arithLane (o : Op) (f : Form) (sat : Bool) (g : Int → Int → Int → Int) (l : Lane) : Lane :=
  let ty := f.ty.toNat
  l.wr ty f.d.toNat (intDeliver ty sat (g (l.opnd ty f.a.toNat) (bInt o f l ty) (l.opnd ty f.c.toNat)))

def arith (o : Op) (f : Form) (s : State) (sat : Bool) (g : Int → Int → Int → Int) : Host.Outcome State Fault Refusal :=
  execRegs o f s fun _ l => .ok (arithLane o f sat g l, .seq)

def execIadd (f : Form) (s : State) : Host.Outcome State Fault Refusal := arith .iadd f s f.xm fun a b _ => a + b
def execIsub (f : Form) (s : State) : Host.Outcome State Fault Refusal := arith .isub f s f.xm fun a b _ => a - b
def execIneg (f : Form) (s : State) : Host.Outcome State Fault Refusal := arith .ineg f s f.xm fun a _ _ => -a
def execIabs (f : Form) (s : State) : Host.Outcome State Fault Refusal := arith .iabs f s f.xm fun a _ _ => (a.natAbs : Int)
def execImin (f : Form) (s : State) : Host.Outcome State Fault Refusal := arith .imin f s false fun a b _ => min a b
def execImax (f : Form) (s : State) : Host.Outcome State Fault Refusal := arith .imax f s false fun a b _ => max a b
def execImul (f : Form) (s : State) : Host.Outcome State Fault Refusal := arith .imul f s f.xm fun a b _ => a * b
def execImulh (f : Form) (s : State) : Host.Outcome State Fault Refusal :=
  arith .imulh f s false fun a b _ => a * b / 2 ^ intWidth f.ty.toNat
def execImad (f : Form) (s : State) : Host.Outcome State Fault Refusal := arith .imad f s f.xm fun a b c => a * b + c

/-- Integer division by zero: ATRAP with bit 8 (09 R192). -/
def divide (o : Op) (f : Form) (s : State) (sat : Bool) (g : Int → Int → Int) : Host.Outcome State Fault Refusal :=
  execRegs o f s fun i l =>
    if bInt o f l f.ty.toNat = 0 then .error (atrap i.pc 0x100) else .ok (arithLane o f sat (fun a b _ => g a b) l, .seq)

def execIdiv (f : Form) (s : State) : Host.Outcome State Fault Refusal := divide .idiv f s f.xm Int.tdiv
def execIrem (f : Form) (s : State) : Host.Outcome State Fault Refusal := divide .irem f s false Int.tmod

/-- LEA (09 R193): B is 32 bits, sign- or zero-extended by the type. -/
def execLea (f : Form) (s : State) : Host.Outcome State Fault Refusal :=
  execRegs .lea f s fun _ l =>
    let b := intOf f.ty.toNat (bRaw .lea f l false)
    .ok (l.setPair f.d.toNat (l.regPair f.a.toNat + BitVec.ofInt 64 (b * 2 ^ f.c.toNat)), .seq)

/-! Logic, shifts, bit fields (09 R194 to R197). The width is 64 for codes 2 and 3, else 32. -/

def Form.wide (f : Form) : Bool := f.ty.toNat = 2 || f.ty.toNat = 3
def Form.n (f : Form) : Nat := if Form.wide f then 64 else 32

/-- D := g A B C over the width's bits. -/
def logic (o : Op) (f : Form) (s : State) (g : Nat → Nat → Nat → Nat) : Host.Outcome State Fault Refusal :=
  execRegs o f s fun _ l =>
    let w := Form.wide f
    .ok (l.setRaw w f.d.toNat (g (l.raw w f.a.toNat) (bRaw o f l w) (l.raw w f.c.toNat) % 2 ^ Form.n f), .seq)

/-- The complement within n bits. -/
def notN (n x : Nat) : Nat := 2 ^ n - 1 - x % 2 ^ n

def execAndOp (f : Form) (s : State) : Host.Outcome State Fault Refusal := logic .andOp f s fun a b _ => a &&& b
def execOrOp (f : Form) (s : State) : Host.Outcome State Fault Refusal := logic .orOp f s fun a b _ => a ||| b
def execXorOp (f : Form) (s : State) : Host.Outcome State Fault Refusal := logic .xorOp f s fun a b _ => a ^^^ b
def execAndn (f : Form) (s : State) : Host.Outcome State Fault Refusal :=
  logic .andn f s fun a b _ => a &&& notN (Form.n f) b
def execNotOp (f : Form) (s : State) : Host.Outcome State Fault Refusal := logic .notOp f s fun a _ _ => notN (Form.n f) a

/-- A shift: operand B is 32 bits, and its low 5 or 6 bits count (09 R195). -/
def shift (o : Op) (f : Form) (s : State) (g : Nat → Nat → Nat) : Host.Outcome State Fault Refusal :=
  execRegs o f s fun _ l =>
    let w := Form.wide f
    .ok (l.setRaw w f.d.toNat (g (l.raw w f.a.toNat) (bRaw o f l false % Form.n f) % 2 ^ Form.n f), .seq)

def rotlN (n a c : Nat) : Nat := a <<< c ||| a >>> (n - c)

def execShl (f : Form) (s : State) : Host.Outcome State Fault Refusal := shift .shl f s fun a c => a <<< c
def execShr (f : Form) (s : State) : Host.Outcome State Fault Refusal := shift .shr f s fun a c => a >>> c
def execSar (f : Form) (s : State) : Host.Outcome State Fault Refusal :=
  shift .sar f s fun a c => truncInt (sextNat a (Form.n f) / 2 ^ c) (Form.n f)
def execRotl (f : Form) (s : State) : Host.Outcome State Fault Refusal := shift .rotl f s fun a c => rotlN (Form.n f) a c

/-- The number of 0 bits below the lowest 1 bit of n bits, or n. -/
def ctzNat (x i : Nat) : Nat → Nat
  | 0 => i
  | n + 1 => if x.testBit i then i else ctzNat x (i + 1) n

/-- The number of 0 bits above the highest 1 bit of n bits. -/
def clzNat (x : Nat) : Nat → Nat
  | 0 => 0
  | n + 1 => if x.testBit n then 0 else 1 + clzNat x n

/-- Bit i of n bits moves to n − 1 − i. -/
def brevNat (n x : Nat) : Nat → Nat
  | 0 => 0
  | i + 1 => (if x.testBit i then 2 ^ (n - 1 - i) else 0) + brevNat n x i

/-- A count written to one register (09 R196). -/
def countBits (o : Op) (f : Form) (s : State) (g : Nat → Nat) : Host.Outcome State Fault Refusal :=
  execRegs o f s fun _ l => .ok (l.setReg f.d.toNat (BitVec.ofNat 32 (g (l.raw (Form.wide f) f.a.toNat))), .seq)

def execPopc (f : Form) (s : State) : Host.Outcome State Fault Refusal := countBits .popc f s fun a => popcountNat a (Form.n f)
def execClz (f : Form) (s : State) : Host.Outcome State Fault Refusal := countBits .clz f s fun a => clzNat a (Form.n f)
def execCtz (f : Form) (s : State) : Host.Outcome State Fault Refusal := countBits .ctz f s fun a => ctzNat a 0 (Form.n f)
def execBrev (f : Form) (s : State) : Host.Outcome State Fault Refusal :=
  logic .brev f s fun a _ _ => brevNat (Form.n f) a (Form.n f)

/-- BFX (09 R197): the value extended without bound, moved down, and its low len bits, extended again when signed. -/
def bfx (ty a b : Nat) : Int :=
  let f := (intOf ty a / 2 ^ (b % 256)) % 2 ^ (b / 256 % 256)
  if intSigned ty && b / 256 % 256 ≠ 0 then sextNat f.toNat (b / 256 % 256) else f

/-- BFI (09 R197). -/
def bfi (n a b c : Nat) : Nat :=
  let m := (2 ^ (b / 256 % 256) - 1) * 2 ^ (b % 256) % 2 ^ n
  (a &&& notN n m) ||| (c * 2 ^ (b % 256) &&& m)

def execBfx (f : Form) (s : State) : Host.Outcome State Fault Refusal :=
  execRegs .bfx f s fun _ l =>
    let ty := f.ty.toNat
    .ok (l.wr ty f.d.toNat (intDeliver ty false (bfx ty (l.raw (Form.wide f) f.a.toNat) (bRaw .bfx f l false))), .seq)

def execBfi (f : Form) (s : State) : Host.Outcome State Fault Refusal :=
  execRegs .bfi f s fun _ l =>
    let w := Form.wide f
    .ok (l.setRaw w f.d.toNat (bfi (Form.n f) (l.raw w f.a.toNat) (bRaw .bfi f l false) (l.raw w f.c.toNat)), .seq)

/-! Moves and predicates (09 R198 to R203). -/

def execMov (f : Form) (s : State) : Host.Outcome State Fault Refusal := logic .mov f s fun _ b _ => b

def execMovl (f : Form) (s : State) : Host.Outcome State Fault Refusal :=
  execRegs .movl f s fun _ l => .ok (l.setRaw (Form.wide f) f.d.toNat (f.lit.getD 0).toNat, .seq)

def execSel (f : Form) (s : State) : Host.Outcome State Fault Refusal :=
  execRegs .sel f s fun _ l =>
    let w := Form.wide f
    .ok (l.setRaw w f.d.toNat (if l.pred f.c.toNat then l.raw w f.a.toNat else bRaw .sel f l w), .seq)

/-- A `k` register, or `sp` as 8 (09 R199). -/
def Lane.kOrSp (l : Lane) (n : Nat) : W64 := if n = 8 then BitVec.ofNat 64 l.sp else l.kreg n

def execMovFromK (f : Form) (s : State) : Host.Outcome State Fault Refusal :=
  execRegs .movFromK f s fun _ l => .ok (l.setPair f.d.toNat (l.kOrSp f.a.toNat), .seq)

def execMovToK (f : Form) (s : State) : Host.Outcome State Fault Refusal :=
  execRegs .movToK f s fun _ l => .ok (l.setK f.d.toNat (BitVec.ofNat 64 (bRaw .movToK f l true)), .seq)

/-- ICMP conditions (09 R201). -/
def icmpCond (cond n : Nat) (a b : Int) : Bool :=
  match cond with
  | 0 => a = b
  | 1 => a ≠ b
  | 2 => a < b
  | 3 => b ≤ a
  | 4 => a ≤ b
  | 5 => b < a
  | 6 => truncInt a n &&& truncInt b n = 0
  | _ => truncInt a n &&& truncInt b n ≠ 0

/-- First-word bits [17:14] and [13:11] (09 R201, 10 R227). -/
def Form.cond (f : Form) : Nat := f.d.toNat / 8
def Form.destP (f : Form) : Nat := f.d.toNat % 8

def execIcmp (f : Form) (s : State) : Host.Outcome State Fault Refusal :=
  execRegs .icmp f s fun _ l =>
    let ty := f.ty.toNat
    .ok (l.setPred (Form.destP f) (icmpCond (Form.cond f) (intWidth ty) (l.opnd ty f.a.toNat) (bInt .icmp f l ty)), .seq)

/-- PSET (09 R202): predicates of the mask come from the register. -/
def execPset (f : Form) (s : State) : Host.Outcome State Fault Refusal :=
  execRegs .pset f s fun _ l =>
    let m : BitVec 8 := f.w2.setWidth 8
    .ok ({ l with p := ((l.reg f.a.toNat).setWidth 8 &&& m) ||| (l.p &&& ~~~m) }, .seq)

def execPsetGet (f : Form) (s : State) : Host.Outcome State Fault Refusal :=
  execRegs .psetGet f s fun _ l => .ok (l.setReg f.d.toNat (l.p.setWidth 32), .seq)

def execPlop (f : Form) (s : State) : Host.Outcome State Fault Refusal :=
  execRegs .plop f s fun _ l =>
    let b := match f.bSrc .plop with
      | .reg n => l.pred n
      | _ => false
    let n := (if l.pred f.a.toNat then 2 else 0) + (if b then 1 else 0)
    .ok (l.setPred f.d.toNat (f.w2.getLsbD n), .seq)

/-! Special registers (04 R77, 09 R204, R205, 17 R356). -/

/-- Some earlier instruction of the lane may still accrue flags: special functions, cross-lane reductions, matrix operations. -/
def State.flagsPending (s : State) (k : LaneKey) : Bool :=
  ((s.core k.coh.die k.coh.core).sfu.any fun r => r.key = k) || !(s.opsOf k).isEmpty

/-- The value of a special register. -/
def sregValue (s : State) (i : Issue) (n : Nat) (l : Lane) (num : Nat) : Nat :=
  let c := (s.cohort? i.key).getD {}
  let d := s.die i.key.die
  match num with
  | 0 => n
  | 1 => Config.width
  | 2 => c.role
  | 3 => c.member
  | 4 => c.gang
  | 5 => i.prio.toNat
  | 6 => l.fflags.toNat
  | 7 => l.frm.toNat
  | 8 => l.fenable.toNat
  | 9 => l.wic.toNat
  | 10 => s.tick
  | 11 => d.cyc.toNat
  | 12 => d.ncyc.toNat / 65536
  | 16 => l.trap.tvec.toNat
  | 17 => l.trap.tpc.toNat
  | 18 => l.trap.tcause.toNat
  | 19 => l.trap.tval.toNat
  | 20 => l.trap.tstat.toNat
  | 21 => l.trap.tscr.toNat
  | _ => 0

/-- SREAD and SWRITE of `$fflags` wait for flags that are still to accrue (09 R204, R205). -/
def State.flagsWait (s : State) (i : Issue) (g : Guard) (num : Nat) : Bool :=
  num = 6 && (s.executing i g).any fun n => s.flagsPending (i.lane n)

def execSread (f : Form) (s : State) : Host.Outcome State Fault Refusal :=
  withIssue s fun i t =>
    let num := f.a.toNat
    if t.flagsWait i f.guard num then t
    else t.issueWith i f.guard (f.use .sread) fun t ex => runLanes (fun t n =>
      (t.modLane (i.lane n) fun l => l.setRaw (sregWide num) f.d.toNat (sregValue t i n l num), .go .seq)) ex t

/-- SWRITE (09 R205): what the register becomes, or nothing where the value has a bit it cannot hold. -/
def Lane.setSreg (l : Lane) (num : Nat) (x : Nat) : Option Lane :=
  match num with
  | 6 => if x < 32 then some { l with fflags := BitVec.ofNat 5 x } else none
  | 7 => if x < 5 then some { l with frm := BitVec.ofNat 3 x } else none
  | 8 => if x < 32 then some { l with fenable := BitVec.ofNat 5 x } else none
  | 16 => some { l with trap := { l.trap with tvec := BitVec.ofNat 64 (bits x 56 2 * 4) } }
  | 17 => some { l with trap := { l.trap with tpc := BitVec.ofNat 64 x } }
  | 18 => some { l with trap := { l.trap with tcause := BitVec.ofNat 32 x } }
  | 19 => some { l with trap := { l.trap with tval := BitVec.ofNat 64 x } }
  | 20 => some { l with trap := { l.trap with tstat := BitVec.ofNat 32 (x % 2) } }
  | 21 => some { l with trap := { l.trap with tscr := BitVec.ofNat 64 x } }
  | _ => none

def execSwrite (f : Form) (s : State) : Host.Outcome State Fault Refusal :=
  withIssue s fun i t =>
    let num := f.d.toNat
    if t.flagsWait i f.guard num then t
    else t.issueWith i f.guard (f.use .swrite) (runRegOps i fun l =>
      match l.setSreg num (l.raw (sregWide num) f.a.toNat) with
      | some l' => .ok (l', .seq)
      | none => .error (illegal i 2))

/-! REL (09 R206). -/

def Lane.releaseRun (l : Lane) : List Nat → Lane
  | [] => l
  | n :: ns => (l.release n).releaseRun ns

/-- Pending results of a lane that write a register of a list. -/
def Lane.pendOf (l : Lane) (ns : List Nat) : List Nat := (l.pend.filter fun p => ns.any p.covers).map fun p => p.id

def execRel (f : Form) (s : State) : Host.Outcome State Fault Refusal :=
  let regs := runRegs (f.runX .rel)
  execLanes .rel f s fun i t n =>
    ((t.noteDiscard (i.lane n) ((t.laneAt i n).pendOf regs)).modLane (i.lane n) fun l => l.releaseRun regs, .go .seq)

/-! PAIR (08 R177, R178). -/

/-- The 32-bit effect of a half. -/
def pairOp (op : Nat) (a b : W32) : W32 :=
  let s := b.toNat % 32
  match op with
  | 0 => a + b
  | 1 => a - b
  | 2 => if a.slt b then a else b
  | 3 => if a < b then a else b
  | 4 => if a.slt b then b else a
  | 5 => if a < b then b else a
  | 6 => a &&& b
  | 7 => a ||| b
  | 8 => a ^^^ b
  | 9 => a &&& ~~~b
  | 10 => a <<< s
  | 11 => a >>> s
  | 12 => a.sshiftRight s
  | 13 => a.rotateLeft s
  | 14 => a
  | _ => ~~~a

def Half.result (h : Half) (imm : BitVec 8) (l : Lane) : W32 :=
  pairOp h.op.toNat (l.reg h.a.toNat) (if h.bi then imm.signExtend 32 else l.reg h.b.toNat)

def execPair (f : PairForm) (s : State) : Host.Outcome State Fault Refusal :=
  withIssue s fun i t => t.issueWith i f.guard f.use (runRegOps i fun l =>
    let x := Half.result f.x f.immX l
    let y := Half.result f.y f.immY l
    .ok ((l.setReg f.x.d.toNat x).setReg f.y.d.toNat y, .seq))

end Sys2Proof.Machine
end

