-- ==== Sys2Proof/Machine/Floating.lean ====
section
/-! DEFINITION. Floating-point instructions (10 R218 to R231) and special functions (10 R232 to R234). -/

namespace Sys2Proof.Machine

/-- An instruction whose result per lane comes with flags (10 R219): D := the bits that `g` gives, or ATRAP. -/
def fltOp (o : Op) (f : Form) (s : State) (g : Lane → FRes) : Host.Outcome State Fault Refusal :=
  execRegs o f s fun i l => withFlags i l (g l).2 fun x => x.fwr f.ty.toNat f.d.toNat (g l).1

/-- An element operation of one, two or three operands with a rounding mode. -/
def flt1 (o : Op) (f : Form) (s : State) (g : Fmt → Nat → Nat → FRes) : Host.Outcome State Fault Refusal :=
  fltOp o f s fun l => packedMap f.ty.toNat (g (fmtOf f.ty.toNat) (Form.mode f l)) (l.fopnd f.ty.toNat f.a.toNat)
def flt2 (o : Op) (f : Form) (s : State) (g : Fmt → Nat → Nat → Nat → FRes) : Host.Outcome State Fault Refusal :=
  fltOp o f s fun l =>
    packedMap2 f.ty.toNat (g (fmtOf f.ty.toNat) (Form.mode f l)) (l.fopnd f.ty.toNat f.a.toNat) (fopndB o f l f.ty.toNat)
def flt3 (o : Op) (f : Form) (s : State) (g : Fmt → Nat → Nat → Nat → Nat → FRes) : Host.Outcome State Fault Refusal :=
  fltOp o f s fun l =>
    packedMap3 f.ty.toNat (g (fmtOf f.ty.toNat) (Form.mode f l)) (l.fopnd f.ty.toNat f.a.toNat) (fopndB o f l f.ty.toNat)
      (l.fopnd f.ty.toNat f.c.toNat)

/-! Arithmetic (10 R222 to R225). -/

def execFadd (f : Form) (s : State) : Host.Outcome State Fault Refusal := flt2 .fadd f s fadd
def execFsub (f : Form) (s : State) : Host.Outcome State Fault Refusal := flt2 .fsub f s fsub
def execFmul (f : Form) (s : State) : Host.Outcome State Fault Refusal := flt2 .fmul f s fmul
def execFfma (f : Form) (s : State) : Host.Outcome State Fault Refusal := flt3 .ffma f s fun t m => ffma t m false false
def execFfms (f : Form) (s : State) : Host.Outcome State Fault Refusal := flt3 .ffms f s fun t m => ffma t m false true
def execFnma (f : Form) (s : State) : Host.Outcome State Fault Refusal := flt3 .fnma f s fun t m => ffma t m true false
def execFdiv (f : Form) (s : State) : Host.Outcome State Fault Refusal := flt2 .fdiv f s fdiv
def execFsqrt (f : Form) (s : State) : Host.Outcome State Fault Refusal := flt1 .fsqrt f s fsqrt
def execFrem (f : Form) (s : State) : Host.Outcome State Fault Refusal := flt2 .frem f s fun t _ => frem t
def execFmin (f : Form) (s : State) : Host.Outcome State Fault Refusal := flt2 .fmin f s fun t _ => fminmax t false true
def execFmax (f : Form) (s : State) : Host.Outcome State Fault Refusal := flt2 .fmax f s fun t _ => fminmax t true true
def execFminm (f : Form) (s : State) : Host.Outcome State Fault Refusal := flt2 .fminm f s fun t _ => fminmax t false false
def execFmaxm (f : Form) (s : State) : Host.Outcome State Fault Refusal := flt2 .fmaxm f s fun t _ => fminmax t true false

/-- FSCALE: B is a signed 32-bit integer whatever the type. -/
def execFscale (f : Form) (s : State) : Host.Outcome State Fault Refusal :=
  fltOp .fscale f s fun l =>
    fscale (fmtOf f.ty.toNat) (Form.mode f l) (l.fopnd f.ty.toNat f.a.toNat) (sextNat (bRaw .fscale f l false) 32)

def execFlogb (f : Form) (s : State) : Host.Outcome State Fault Refusal := flt1 .flogb f s fun t _ => flogb t

/-- FDOT2 (10 R224): the three exact terms of a lane, summed and rounded once to binary32. -/
def fdot2 (t : Fmt) (mode a b c : Nat) : FRes :=
  let p0 := exactMul (fvalue t (a % 65536)) (fvalue t (b % 65536))
  let p1 := exactMul (fvalue t (a / 65536 % 65536)) (fvalue t (b / 65536 % 65536))
  let r := exactSum mode [p0.1, p1.1, fvalue f32 (c % 2 ^ 32)]
  join f32 mode (r.1, r.2 ||| p0.2 ||| p1.2)

def execFdot2 (f : Form) (s : State) : Host.Outcome State Fault Refusal :=
  fltOp .fdot2 f s fun l =>
    fdot2 (fmtOf f.ty.toNat) (Form.mode f l) (l.nat32 f.a.toNat) (bRaw .fdot2 f l false) (l.nat32 f.c.toNat)

/-! Sign and magnitude (10 R226): bits only. -/

/-- The sign bits of a register value of a type. -/
def signBits (ty : Nat) : Nat := if ty = 6 || ty = 7 then 0x80008000 else (fmtOf ty).signBit

def execFabs (f : Form) (s : State) : Host.Outcome State Fault Refusal :=
  fltOp .fabs f s fun l => (l.fopnd f.ty.toNat f.a.toNat &&& notN 64 (signBits f.ty.toNat), 0)
def execFneg (f : Form) (s : State) : Host.Outcome State Fault Refusal :=
  fltOp .fneg f s fun l => (l.fopnd f.ty.toNat f.a.toNat ^^^ signBits f.ty.toNat, 0)
def execFcpys (f : Form) (s : State) : Host.Outcome State Fault Refusal :=
  fltOp .fcpys f s fun l =>
    let m := signBits f.ty.toNat
    ((l.fopnd f.ty.toNat f.a.toNat &&& notN 64 m) ||| (fopndB .fcpys f l f.ty.toNat &&& m), 0)

/-! Compare, classify, round, convert (10 R227 to R230). -/

def execFcmp (f : Form) (s : State) : Host.Outcome State Fault Refusal :=
  execRegs .fcmp f s fun i l =>
    let r := fcmpCond (fmtOf f.ty.toNat) f.xm (Form.cond f) (l.fopnd f.ty.toNat f.a.toNat) (fopndB .fcmp f l f.ty.toNat)
    withFlags i l r.2 fun x => x.setPred (Form.destP f) r.1

def execFclass (f : Form) (s : State) : Host.Outcome State Fault Refusal :=
  execRegs .fclass f s fun _ l =>
    .ok (l.setReg f.d.toNat (BitVec.ofNat 32 (fclassWord (fmtOf f.ty.toNat) (l.fopnd f.ty.toNat f.a.toNat))), .seq)

def execFrnd (f : Form) (s : State) : Host.Outcome State Fault Refusal := flt1 .frnd f s fun t m => frnd t m f.xm

/-- FCVT (10 R230): source descriptor in C. A float result is written by `fwr`, an integer one by `wr`. -/
def execFcvt (f : Form) (s : State) : Host.Outcome State Fault Refusal :=
  execRegs .fcvt f s fun i l =>
    let ty := f.ty.toNat
    let src := f.c.toNat % 8
    let m := Form.mode f l
    if f.c.getLsbD 4 then
      let r := cvtFI (fmtOf src) m (intWidth ty) (intSigned ty) (l.fopnd src f.a.toNat)
      withFlags i l r.2 fun x => x.wr ty f.d.toNat r.1
    else if f.c.getLsbD 3 then
      let r := cvtIF (fmtOf ty) m (l.opnd src f.a.toNat)
      withFlags i l r.2 fun x => x.fwr ty f.d.toNat r.1
    else
      let r := cvtFF (fmtOf ty) (fmtOf src) m (l.fopnd src f.a.toNat)
      withFlags i l r.2 fun x => x.fwr ty f.d.toNat r.1

/-! Special functions (10 R232 to R234). -/

def sfuQueue : Nat := 32

/-- Entries of a core's result queue. -/
def Core.sfuEntries (c : Core) : Nat := (dedup (c.sfu.map fun r => r.id)).length

/-- One lane of a special function: its result enters the queue; with a trap enabled it is written, or trapped, at once. -/
def sfuLane (f : Form) (fn id : Nat) (i : Issue) (t : State) (n : Nat) : State × LaneOut :=
  let k := i.lane n
  let l := t.laneAt i n
  let r := packedMap f.ty.toNat (sfuFun (fmtOf f.ty.toNat) fn) (l.fopnd f.ty.toNat f.a.toNat)
  let v := BitVec.ofNat 32 r.1
  if l.fenable ≠ 0 then
    let t1 := t.landSfu k
    if r.2 &&& l.fenable ≠ 0 then (t1, .eff (atrap i.pc (r.2 &&& l.fenable).toNat))
    else
      (t1.modLane k fun x => ({ x.addPend id f.d.toNat 1 f.la with fflags := x.fflags ||| r.2 }).land id [v], .go .seq)
  else
    let t1 := t.modCore k.coh.die k.coh.core fun x => { x with sfu := x.sfu ++ [⟨k, id, v, r.2⟩] }
    (t1.modLane k fun x => x.addPend id f.d.toNat 1 f.la, .go .seq)

/-- A special function; a full queue stalls its issue. -/
def sfu (o : Op) (fn : Nat) (f : Form) (s : State) : Host.Outcome State Fault Refusal :=
  withIssue s fun i t =>
    if sfuQueue ≤ (t.core i.key.die i.key.core).sfuEntries then t
    else
      let (id, t1) := t.fresh
      t1.issueWith i f.guard (f.use o) fun u ex => runLanes (sfuLane f fn id i) ex u

def execRcp (f : Form) (s : State) : Host.Outcome State Fault Refusal := sfu .rcp 0 f s
def execRsq (f : Form) (s : State) : Host.Outcome State Fault Refusal := sfu .rsq 1 f s
def execEx2 (f : Form) (s : State) : Host.Outcome State Fault Refusal := sfu .ex2 2 f s
def execLg2 (f : Form) (s : State) : Host.Outcome State Fault Refusal := sfu .lg2 3 f s
def execSin (f : Form) (s : State) : Host.Outcome State Fault Refusal := sfu .sin 4 f s
def execCos (f : Form) (s : State) : Host.Outcome State Fault Refusal := sfu .cos 5 f s
def execTanh (f : Form) (s : State) : Host.Outcome State Fault Refusal := sfu .tanh 6 f s

/-- The oldest entry of a core's queue is written and accrues its flags (10 R234). -/
def State.retireSfu (s : State) (d c : Nat) : State :=
  match (s.core d c).sfu with
  | [] => s
  | r :: _ =>
    let entry := (s.core d c).sfu.filter fun x => x.id = r.id
    let s1 := s.modCore d c fun x => { x with sfu := x.sfu.filter fun y => y.id ≠ r.id }
    foldState (fun (t : State) (x : SfuResult) => t.modLane x.key fun l =>
      { l.land x.id [x.value] with fflags := l.fflags ||| x.flags }) entry s1

def execSfuResultRetire (die core : Nat) (s : State) : Host.Outcome State Fault Refusal := .next (s.retireSfu die core)

end Sys2Proof.Machine
end

