-- ==== Sys2Proof/Machine/Converge.lean ====
section
/-! DEFINITION. Convergence points: the results of a round of a cross-lane instruction (10 R236 to R243), the start of an octet's
matrix operation (12 R287, R288), and the rounds that are complete in a cohort. -/

namespace Sys2Proof.Machine

/-! Results of a cross-lane round. -/

/-- What a contributor receives: words or a predicate, and the flags that accrue. -/
structure CrossOut where
  words : List W32 := []
  pred : Option Bool := none
  flags : BitVec 5 := 0
  deriving DecidableEq, Repr

/-- The contributors of a round with what their sources held. -/
abbrev Contribs := List (Nat × Arrival)

/-- The values of all positions, the identity where no contributor stands. -/
def positions (cs : Contribs) (identity : α) (val : Arrival → α) : List α :=
  (List.range Config.width).map fun n => match lookup cs n with
    | some a => val a
    | none => identity

/-- A value as the words of a register or pair. -/
def wideWords (wide : Bool) (x : Nat) : List W32 := wordsOf x (if wide then 2 else 1)

/-- XSHFL (10 R238): the source lane of a contributor. -/
def shuffleFrom (mode lane off : Nat) : Int :=
  match mode with
  | 0 => off
  | 1 => (lane : Int) - off
  | 2 => (lane : Int) + off
  | 3 => ((lane ^^^ off : Nat) : Int)
  | _ => (((lane + off) % Config.width : Nat) : Int)

def shuffle (f : Form) (cs : Contribs) (lane : Nat) (a : Arrival) : CrossOut :=
  let w2 := f.w2.toNat
  let off := if w2.testBit 4 then (if w2.testBit 3 then Config.width / 2 ^ bits w2 15 8 else bits w2 15 8) else a.b.toNat
  let src := shuffleFrom (w2 % 8) lane off
  let got := if src < 0 then none else lookup cs src.toNat
  { words := wideWords (Form.wide f) ((got.getD a).a).toNat }

/-- XVOTE (10 R239). -/
def vote (f : Form) (cs : Contribs) : CrossOut :=
  let votes := cs.map fun c => decide (c.2.a ≠ 0)
  match f.w2.toNat % 4 with
  | 0 => { pred := some (votes.all id) }
  | 1 => { pred := some (votes.any id) }
  | 2 => { pred := some (votes.all id || !votes.any id) }
  | _ => { words := wideWords true (maskOf ((cs.filter fun c => c.2.a ≠ 0).map fun c => c.1)).toNat }

/-- Integer operations of XRED and XSCAN (10 R240): identity and exact operation. -/
def redIdentity (ty op : Nat) : Int :=
  match op with
  | 1 => tmax ty
  | 2 => tmin ty
  | 3 => intOf ty (2 ^ intWidth ty - 1)
  | _ => 0

def redInt (ty op : Nat) (a b : Int) : Int :=
  let n := intWidth ty
  match op with
  | 0 => a + b
  | 1 => min a b
  | 2 => max a b
  | 3 => intOf ty (truncInt a n &&& truncInt b n)
  | 4 => intOf ty (truncInt a n ||| truncInt b n)
  | _ => intOf ty (truncInt a n ^^^ truncInt b n)

/-- Floating operations of XRED and XSCAN. -/
def fredIdentity (ty op : Nat) : Nat := if op = 6 then (fmtOf ty).signBit else qnan (fmtOf ty)

def redFlt (ty op mode a b : Nat) : FRes :=
  match op with
  | 6 => fadd (fmtOf ty) mode a b
  | 7 => fminmax (fmtOf ty) false true a b
  | _ => fminmax (fmtOf ty) true true a b

/-- One level of the pairwise tree: the nodes and the union of their flags. -/
def treeLevel (add : Nat → Nat → FRes) : List Nat → List Nat × BitVec 5
  | a :: b :: rest =>
    let r := treeLevel add rest
    ((add a b).1 :: r.1, (add a b).2 ||| r.2)
  | rest => (rest, 0)

/-- The pairwise tree of `FADD` (10 R240). -/
def tree (add : Nat → Nat → FRes) (xs : List Nat) : Nat → FRes
  | 0 => (xs.headD 0, 0)
  | n + 1 =>
    let r := treeLevel add xs
    let t := tree add r.1 n
    (t.1, r.2 ||| t.2)

/-- Running results of a scan: after each position, the value and the flags of all steps so far. -/
def scanFlt (step : Nat → Nat → FRes) (s : Nat) (fl : BitVec 5) : List Nat → List FRes
  | [] => []
  | x :: xs =>
    let r := step s x
    (r.1, fl ||| r.2) :: scanFlt step r.1 (fl ||| r.2) xs

def scanInt (step : Int → Int → Int) (s : Int) : List Int → List Int
  | [] => []
  | x :: xs => step s x :: scanInt step (step s x) xs

/-- The mode of a floating round: that of the lowest-numbered contributor (10 R240). -/
def roundMode (cs : Contribs) : Nat := match cs with
  | c :: _ => c.2.mode
  | [] => 0

/-- XRED (10 R240). -/
def reduce (f : Form) (cs : Contribs) : CrossOut :=
  let ty := f.ty.toNat
  let op := f.w2.toNat % 16
  if op < 6 then
    let xs := positions cs (redIdentity ty op) fun a => intOf ty a.a.toNat
    let r := intDeliver ty f.xm (xs.foldl (redInt ty op) (redIdentity ty op))
    { words := wideWords (Form.wide f) (truncInt r (intWidth ty)) }
  else
    let id := fredIdentity ty op
    let xs := positions cs id fun a => fltBits ty a.a.toNat
    let step := redFlt ty op (roundMode cs)
    let r := if op = 6 then tree step xs 6 else (scanFlt step id 0 xs).getLastD (id, 0)
    { words := wideWords (ty = 1) r.1, flags := r.2 }

/-- XSCAN (10 R242) at a lane. -/
def scan (f : Form) (cs : Contribs) (lane : Nat) : CrossOut :=
  let ty := f.ty.toNat
  let op := f.w2.toNat % 16
  if op < 6 then
    let id := redIdentity ty op
    let rs := scanInt (redInt ty op) id (positions cs id fun a => intOf ty a.a.toNat)
    let r := if f.xm then (id :: rs).getD lane id else rs.getD lane id
    { words := wideWords (Form.wide f) (truncInt r (intWidth ty)) }
  else
    let id := fredIdentity ty op
    let rs := scanFlt (redFlt ty op (roundMode cs)) id 0 (positions cs id fun a => fltBits ty a.a.toNat)
    let r := if f.xm then ((id, 0) :: rs).getD lane (id, 0) else rs.getD lane (id, 0)
    { words := wideWords (ty = 1) r.1, flags := (rs.getD lane (id, 0)).2 }

/-- XMINIDX (10 R241): a contributor whose value is the identity wins over the positions without one. -/
def minIndex (f : Form) (cs : Contribs) : CrossOut :=
  let ty := f.ty.toNat
  let best := cs.foldl (fun (b : Option (Nat × Int)) c =>
    let x := intOf ty c.2.a.toNat
    match b with
    | none => some (c.1, x)
    | some y => if x < y.2 then some (c.1, x) else some y) none
  let r := best.getD (0xFFFF, tmax ty)
  { words := [BitVec.ofInt 32 r.2, BitVec.ofNat 32 r.1] }

/-- XMATCH (10 R243) at a lane. -/
def matchMask (cs : Contribs) (a : Arrival) : CrossOut :=
  { words := wideWords true (maskOf ((cs.filter fun c => c.2.a = a.a).map fun c => c.1)).toNat }

/-- What a contributor of a round receives. -/
def crossResult (o : Op) (f : Form) (cs : Contribs) (lane : Nat) (a : Arrival) : CrossOut :=
  match o with
  | .xshfl => shuffle f cs lane a
  | .xvote => vote f cs
  | .xred => reduce f cs
  | .xminidx => minIndex f cs
  | .xscan => scan f cs lane
  | _ => matchMask cs a

/-! Lanes that wait at an instruction. -/

def Op.crossLane (o : Op) : Bool := o.rule.maj = 0x20

/-- Members of a cross-lane instruction (10 R235). -/
def Form.members (f : Form) : W64 := f.lit.getD (BitVec.allOnes 64)

/-- A waiting lane goes on after its instruction (02 R39): last reads take effect. Log 20 (DEDUCED). -/
def State.passLane (s : State) (k : LaneKey) : State :=
  match s.cohort? k.coh, s.lane? k with
  | some c, some l =>
    let n := match l.arrival with
      | some a => a.bytes
      | none => 4
    let next := if c.priv then (l.pc + n) % 2 ^ 64 else (l.pc + n) % 2 ^ 57
    (s.setLane k { l.lastReadAll l.lastReads with lastReads := [] }).readyLane k l.prio next
  | _, _ => s

/-- The arrival of a lane at a PC. -/
def Cohort.arrived (c : Cohort) (pc n : Nat) : Option Arrival :=
  match c.lane? n with
  | some l => if l.pc = pc then (match l.status with | .parked 6 _ => l.arrival | _ => none) else none
  | none => none

/-- The non-empty lanes that the round of a lane's arrival waits for (02 R30, 10 R236). -/
def Arrival.waitSet (a : Arrival) (c : Cohort) (n : Nat) : List Nat :=
  (if Op.crossLane a.op then maskList (Form.members a.form) else octetLanes n).filter fun m => (c.lane? m).isSome

/-- The complete round of a lane: its arrivals in lane order. -/
def Cohort.roundOf (c : Cohort) (n : Nat) : Option (Nat × List (Nat × Arrival)) :=
  match c.lane? n with
  | none => none
  | some l =>
    match c.arrived l.pc n with
    | none => none
    | some a =>
      let ws := a.waitSet c n
      let got := ws.filterMap fun m => match c.arrived l.pc m with
        | some b => if b.op = a.op && b.form = a.form then some (m, b) else none
        | none => none
      if got.length = ws.length then some (l.pc, got) else none

/-- A contributor's result is delivered, or its lane traps. -/
def State.crossLand (s : State) (k : CohKey) (pc : Nat) (n : Nat) (a : Arrival) (r : CrossOut) : State × List Due :=
  let key : LaneKey := ⟨k, n⟩
  match s.lane? key with
  | none => (s, [])
  | some l =>
    if r.flags &&& l.fenable ≠ 0 then (s, [s.due key (atrap pc (r.flags &&& l.fenable).toNat)])
    else
      let l1 := { l.lastReadAll l.lastReads with fflags := l.fflags ||| r.flags, lastReads := [] }
      let l2 := match a.pend with
        | some id => l1.land id r.words
        | none => l1
      let l3 := match r.pred with
        | some b => l2.setPred a.form.d.toNat b
        | none => l2
      ((s.setLane key l3).passLane key, [])

/-- A round of a cross-lane instruction. -/
def State.crossRound (s : State) (k : CohKey) (pc : Nat) (arr : List (Nat × Arrival)) : State × List Due :=
  let cs := arr.filter fun x => x.2.guard
  arr.foldl (fun (t : State × List Due) x =>
    if x.2.guard then
      let r := t.1.crossLand k pc x.1 x.2 (crossResult x.2.op x.2.form cs x.1 x.2)
      (r.1, t.2 ++ r.2)
    else (t.1.passLane ⟨k, x.1⟩, t.2)) (s, [])

/-! Octet operations. -/

/-- An entry of a core's tensor table; an undefined one reads 0 (12 R280, R290). -/
def State.tensor (s : State) (k : CohKey) (gang id : Nat) : Nat :=
  match (s.core k.die k.core).tensors.find? fun t => t.gang = gang && t.id = id with
  | some t => t.desc
  | none => 0

def opKind (o : Op) : Nat :=
  match o with
  | .mzero => 0
  | .mma => 1
  | .mms => 2
  | .mmf => 3
  | .quant => 5
  | .deq => 6
  | _ => 7

/-- The operation that an octet executes: entries as they are now, coordinates from the leader (12 R285, R287). -/
def State.matOpOf (s : State) (k : CohKey) (c : Cohort) (pc owner : Nat) (o : Op) (f : Form) (control : W64) (mode : Nat) : MatOp :=
  let kind := opKind o
  let product := 1 ≤ kind && kind ≤ 3
  let origin := if product then (control >>> 32).toNat else control.toNat % 2 ^ 32
  let entry (n : Nat) : Nat := s.tensor k c.gang n
  { id := s.nextId, kind := kind, key := k, octet := owner / 8, owner := owner, lanes := [], gang := c.gang, role := c.role,
    member := c.member
    a := if kind = 5 then entry f.c.toNat else if product then entry f.a.toNat else 0
    b := if kind = 0 then 0 else entry (f.bField o)
    d := entry f.d.toNat
    first := f.c.toNat, ks := if product then f.w2.toNat % 65536 else 0, kn := if product then f.w2.toNat / 65536 else 1
    done := if product then control.toNat % 2 ^ 32 else 0
    row0 := origin % 65536, col0 := origin / 65536, mode := mode, ftz := f.xm, n := sextNat f.w2.toNat 32, pc := pc }

/-- The progress register of a leader that was not the leader when it arrived is pending from the execution on, with the window that
the word names (08 R174, 12 R285, R287). -/
def Lane.pendLeader (l : Lane) (id first la : Nat) : Lane :=
  let l1 := l.addPend id first 1 la
  { l1 with shadows := l1.shadows.map fun y => if y.reg = first then { y with left := la } else y }

/-- The octet executes its operation (12 R287, R288), or skips it. -/
def State.octetRound (s : State) (k : CohKey) (pc : Nat) (arr : List (Nat × Arrival)) : State × List Due :=
  match s.cohort? k, arr with
  | some c, (n, a) :: _ =>
    let lanes := arr.map fun x => x.1
    let drop (l : Lane) : Lane := match l.arrival.bind fun x => x.pend with
      | some id => l.unissue id
      | none => l
    let pass (t : State) : State := lanes.foldl (fun (u : State) m => u.passLane ⟨k, m⟩) t
    if !a.guard then (pass (s.modLane ⟨k, n⟩ drop), [])
    else
      let op0 := s.matOpOf k c pc n a.op a.form a.a a.mode
      if !op0.ok then
        let e : Effect := { tag := 8, k2 := a.word.setWidth 64, k3 := hwDetail 6, cpc := some pc, xpc := pc }
        (s, lanes.map fun m => s.due ⟨k, m⟩ e)
      else
        let stayOf (m : Nat) : Nat := match s.lane? ⟨k, m⟩ with
          | some l => l.stay
          | none => 0
        let masked := lanes.any fun m => match s.lane? ⟨k, m⟩ with
          | some l => decide (l.fenable ≠ 0)
          | none => false
        let id := a.pend.getD s.nextId
        let op := { op0 with
          id := id, lanes := lanes.map fun m => (m, stayOf m)
          alone := masked && op0.kind ≠ 0 && op0.kind ≠ 7 }
        let s1 := { s with matOps := s.matOps ++ [op], nextId := s.nextId + 1 }
        let s2 := lanes.foldl (fun (t : State) m => if m = n then t else t.modLane ⟨k, m⟩ drop) s1
        let s3 := if op.isProduct && a.pend.isNone then s2.modLane ⟨k, n⟩ fun l => l.pendLeader id op.first a.form.la else s2
        (pass s3, [])
  | _, _ => (s, [])

/-! Rounds of a cohort. -/

/-- Execute every complete round of a cohort; the effects that they raise are returned. Log 40 (DEDUCED). -/
def State.rounds (s : State) (k : CohKey) : Nat → State × List Due
  | 0 => (s, [])
  | fuel + 1 =>
    match s.cohort? k with
    | none => (s, [])
    | some c =>
      match (List.range Config.width).findSome? fun n => c.roundOf n with
      | none => (s, [])
      | some (pc, arr) =>
        let cross := match arr with
          | x :: _ => Op.crossLane x.2.op
          | [] => false
        let r := if cross then s.crossRound k pc arr else s.octetRound k pc arr
        let dues := r.2
        -- lanes with an effect leave the round
        let t := dues.foldl (fun (u : State) (d : Due) => u.modLane d.key fun l => { l with status := .capturing l.prio d.effect }) r.1
        let more := t.rounds k fuel
        (more.1, dues ++ more.2)

/-- Products of one instruction that octets have just begun are fused when they name the same B tensor with equal KS, KN and DONE (12
R295): a pass has the number of one of them. -/
def State.fuse (s : State) (old : List MatOp) : State :=
  let fresh := s.matOps.filter fun x => x.isProduct && old.all fun y => y.id ≠ x.id
  let same (x y : MatOp) : Bool := x.key = y.key && x.pc = y.pc && x.b = y.b && x.ks = y.ks && x.kn = y.kn && x.done = y.done
  let pass (x : MatOp) : Nat := ((fresh.find? fun y => same x y).map fun y => y.id).getD 0
  { s with matOps := s.matOps.map fun x => if fresh.contains x then { x with pass := pass x } else x }

/-- Rounds of a cohort that are complete execute, and their effects are taken. Log 40 (DEDUCED). -/
def State.converge (s : State) (k : CohKey) : State :=
  let r := s.rounds k Config.width
  (r.1.fuse s.matOps).deliverAll r.2

end Sys2Proof.Machine
end

