-- ==== Sys2Proof/Machine/CrossLane.lean ====
section
/-! DEFINITION. Arrival at a convergence point, and the cross-lane instructions (10 R235 to R244). -/

namespace Sys2Proof.Machine

/-- The mask of the lanes for which an instruction converges (10 R235); every lane for an octet operation. -/
def memberMask (o : Op) (f : Form) : W64 := if Op.crossLane o then Form.members f else BitVec.allOnes 64

/-- What operand A of a convergence point holds in a lane: a predicate, a register or pair, the control pair of a product. -/
def arrivalA (o : Op) (f : Form) (l : Lane) : W64 :=
  match o with
  | .xvote => if l.pred f.a.toNat then 1 else 0
  | .mma | .mms | .mmf => l.regPair f.c.toNat
  | _ => BitVec.ofNat 64 (l.raw ((runRegs (f.runA o)).length = 2) f.a.toNat)

/-- Whether a lane has a pending result from its arrival: every contributor, or the leader of the octet. -/
def owesResult (o : Op) (c : Cohort) (n : Nat) : Bool :=
  Op.crossLane o || (octetLanes n).find? (fun m => (c.lane? m).isSome) = some n

/-- A lane arrives (10 R236): its sources are read now, and its destination is pending. -/
def State.arrive (s : State) (i : Issue) (c : Cohort) (o : Op) (f : Form) (u : RegUse) (n : Nat) : State :=
  let l := s.laneAt i n
  let guard := l.passes f.guard
  let pends := guard && !u.writes.isEmpty && owesResult o c n
  let a : Arrival := { op := o, form := f, bytes := i.bytes, word := i.word, guard := guard, a := arrivalA o f l
                       b := l.reg (f.bField o), mode := Form.mode f l, pend := if pends then some s.nextId else none }
  let l1 := if pends then l.addPend s.nextId (u.writes.headD 0) u.writes.length f.la else l
  { s with nextId := s.nextId + 1 }.setLane (i.lane n) { l1 with arrival := some a }

/-- The issue of a convergence point (02 R30, 10 R236). -/
def execConverge (o : Op) (f : Form) (s : State) : Host.Outcome State Fault Refusal :=
  withIssue s fun i t =>
    let u := f.use o
    let members := i.lanes.filter fun n => (memberMask o f).getLsbD n
    let ex := members.filter fun n => (t.laneAt i n).passes f.guard
    let wait := ex.any fun n =>
      let l := t.laneAt i n
      u.reads.any l.waitsFor || (u.long && u.writes.any l.waitsFor)
    match t.cohort? i.key with
    | none => t
    | some c =>
      if wait then t
      else if !ex.isEmpty && !t.growOk i.key u.writes then
        let others := members.filter fun n => !ex.contains n
        let t1 := others.foldl (fun (x : State) n => x.arrive i c o f u n) t
        ((t1.finish i u (members.map fun n => (n, if ex.contains n then .park 7 0 else .park 6 (BitVec.ofNat 64 i.pc)))).grantReserve i.key.die i.key.core).converge
          i.key
      else
        let t1 := members.foldl (fun (x : State) n => x.arrive i c o f u n) (t.noteGrown i.key u.writes)
        (t1.finish i u (members.map fun n => (n, .park 6 (BitVec.ofNat 64 i.pc)))).converge i.key

def execXshfl (f : Form) (s : State) : Host.Outcome State Fault Refusal := execConverge .xshfl f s
def execXvote (f : Form) (s : State) : Host.Outcome State Fault Refusal := execConverge .xvote f s
def execXred (f : Form) (s : State) : Host.Outcome State Fault Refusal := execConverge .xred f s
def execXminidx (f : Form) (s : State) : Host.Outcome State Fault Refusal := execConverge .xminidx f s
def execXscan (f : Form) (s : State) : Host.Outcome State Fault Refusal := execConverge .xscan f s
def execXmatch (f : Form) (s : State) : Host.Outcome State Fault Refusal := execConverge .xmatch f s

end Sys2Proof.Machine
end

