-- ==== Sys2Proof/Machine/Fence.lean ====
section
/-! DEFINITION. Fences (07 R146, R147): what a FENCE or a release waits for, the fence effects it raises, and FENCE itself (11
R261). -/

namespace Sys2Proof.Machine

/-- The paths of a mask (08 R168); 0 names all five (11 R261). -/
def pathsOf (mask : Nat) : List Path :=
  if mask % 32 = 0 then [.lsu, .cpy, .mtx, .que, .frz]
  else (if mask.testBit 0 then [.lsu] else []) ++ (if mask.testBit 1 then [.cpy] else []) ++ (if mask.testBit 2 then [.mtx] else [])
    ++ (if mask.testBit 3 then [.que] else []) ++ (if mask.testBit 4 then [.frz] else [])

/-- A write is performed at a scope for a fence that names some paths: with the CPY and MTX paths among them, plane engines of the scope
have it too (16 R347). Log 147 (DEDUCED). -/
def Write.fencedAt (w : Write) (scope : Nat) (k : CohKey) (ps : List Path) : Bool :=
  w.performedAt scope k && (!(ps.contains .cpy && ps.contains .mtx) || w.inEngines scope k)

/-- Every access of the fibre on a path is performed at a scope (07 R147 step 1). -/
def State.pathDone (s : State) (k : LaneKey) (scope : Nat) (ps : List Path) (p : Path) : Bool :=
  (s.writes.all fun w => !s.pathWrite k p w || w.fencedAt scope k.coh ps)
    && match p with
      | .lsu => (s.loads.all fun l => l.src ≠ k) && s.atomics.all fun a => a.src ≠ k
      | .cpy => s.jobs.all fun j => j.frz || j.fibre ≠ s.fibreOf k
      | .mtx => (s.opsOf k).isEmpty
      | .que => s.qwaits.all fun q => q.key ≠ k
      | .frz => s.jobs.all fun j => !j.frz || j.fibre ≠ s.fibreOf k

/-- What the fibre has observed on the paths, with its causal predecessors, is applied throughout the scope (step 2). -/
def State.observedDone (s : State) (k : LaneKey) (scope : Nat) (ps : List Path) : Bool :=
  let obs := match s.lane? k with
    | some l => l.obs
    | none => []
  let seen := (s.writes.filter fun w => obs.contains w.id && ps.contains w.path).map fun w => w.id
  let all := s.withDeps seen s.writes.length
  s.writes.all fun w => !all.contains w.id || w.fencedAt scope k.coh ps

def State.logDone (s : State) (k : LaneKey) : Bool :=
  (s.core k.coh.die k.coh.core).sideLog.all fun e => !e.openFor (s.fibreOf k)

/-- Steps 1 to 3 of a fence have ended for a lane. Log 133 (DEDUCED). -/
def State.fenceReady (s : State) (k : LaneKey) (scope : Nat) (ps : List Path) : Bool :=
  (ps.all fun p => s.pathDone k scope ps p) && s.observedDone k scope ps && (!ps.contains .lsu || s.logDone k)

/-- A lane leaves a failed or rejected side-log entry with its effect; an entry that no lane is left in is freed (19 R399). -/
def State.freeSide (s : State) (k : LaneKey) (va pc : Nat) : State :=
  let mine (e : SideEntry) : Bool :=
    (e.state = 3 || e.state = 4) && e.slot = k.coh.slot && e.pc = pc && e.lanes.any fun x => x.lane = k.lane && x.va = va
  s.modCore k.coh.die k.coh.core fun c =>
    match c.sideLog.find? mine with
    | none => c
    | some e =>
      let e' := { e with lanes := e.lanes.filter fun x => x.lane ≠ k.lane }
      { c with sideLog := (c.sideLog.map fun x => if x.id = e.id then e' else x).filter fun x => !(x.id = e.id && x.lanes.isEmpty) }

/-- A fence of a lane ends at a scope: its own writes on the paths, which are performed there, no longer keep a view in the scope from
following the home (07 R136), and are among the causal predecessors that a fence waits for which meets a later write of the fibre (07
R141, R147). Log 133 (DEDUCED). -/
def State.endFence (s : State) (k : LaneKey) (scope : Nat) (ps : List Path) : State :=
  let mine (w : Write) : Bool := ps.any fun p => s.pathWrite k p w
  let ids := (s.writes.filter mine).map fun w => w.id
  let wide (w : Write) : Write := if mine w then { w with fenced := some (max scope (w.fenced.getD 0)) } else w
  State.settleViews ({ s with writes := s.writes.map wide }.modLane k fun l =>
    { l with made := dedup (l.made.filter s.inFlight ++ ids) })

/-- A fence that has waited: a lane with pending fence effects takes the first, and re-executes the fence later (07 R147, R148). -/
def State.fenceLane (s : State) (i : Issue) (scope : Nat) (ps : List Path) (n : Nat) : State × Option Effect :=
  let k := i.lane n
  let pending := if ps.contains .lsu then (s.laneAt i n).fenceFx else []
  match pending with
  | e :: rest =>
    (((s.modLane k fun l => { l with fenceFx := rest }).freeSide k e.k2.toNat e.xpc), some { e with cpc := some i.pc })
  | [] => (s.endFence k scope ps, none)

/-- Log 68 (DEDUCED). -/
def State.fenceLanes (s : State) (i : Issue) (scope : Nat) (ps : List Path) : List Nat → State × List (Nat × Effect)
  | [] => (s, [])
  | n :: ns =>
    let (s1, e) := s.fenceLane i scope ps n
    let (s2, es) := s1.fenceLanes i scope ps ns
    (s2, match e with
      | some x => (n, x) :: es
      | none => es)

/-- FENCE records of the lanes that completed (22 R430). Log 62 (DEDUCED). -/
def State.fenceRecords (s : State) (i : Issue) (mask scope : Nat) (ns : List Nat) : State :=
  if (s.dcr i.key.die offALMCTL).getLsbD 8 then
    foldState (fun (t : State) n => t.almLane (i.lane n) 0x23 (mask + 32 * scope) (BitVec.ofNat 64 i.pc)) ns s
  else s

def execFence (f : Form) (s : State) : Host.Outcome State Fault Refusal :=
  withIssue s fun i t =>
    let ps := pathsOf f.w2.toNat
    let ex := t.executing i f.guard
    if !(ex.all fun n => t.fenceReady (i.lane n) f.rs.toNat ps) then t
    else
      let (t1, fx) := t.fenceLanes i f.rs.toNat ps ex
      let done := ex.filter fun n => (lookup fx n).isNone
      let mask := if f.w2 = 0 then 31 else f.w2.toNat
      (t1.fenceRecords i mask f.rs.toNat done).finish i {} (ex.map fun n => (n, match lookup fx n with
        | some e => .eff e
        | none => .go .seq))

end Sys2Proof.Machine
end

