-- ==== Sys2Proof/Machine/Lsu.lean ====
section
/-! DEFINITION. What every LSU access shares (11 R250 to R254): the address a lane reaches, its checks, holds of loads and atomics,
and the side log of stores and reductions (07 R161, 19 R398). -/

namespace Sys2Proof.Machine

/-! Spaces: 0 scratch, 1 global, 2 role-member scratch (06 R116). -/

/-- A group's scratch on its core. -/
structure ScratchOf where
  die : Nat
  core : Nat
  gang : Nat
  role : Nat
  member : Nat
  deriving DecidableEq, Repr

/-- The entry of a gang's group binding table for a role and member, as an RBIND result (13 R328, 18 R380); 0 when not bound. -/
def Gang.binding (g : Gang) (role member : Nat) : Nat :=
  match g.table.find? fun e => bits e.toNat 7 6 = role && bits e.toNat 5 0 = member && e.getLsbD 63 with
  | some e => bits e.toNat 63 32
  | none => 0

/-- The scratch that an address of space 0 or 2 names, and the scratch address in it. -/
def State.scratchNamed (s : State) (k : CohKey) (space va : Nat) : Option (ScratchOf × Nat) :=
  match s.cohort? k with
  | none => none
  | some c =>
    if space = 0 then some (⟨k.die, k.core, c.gang, c.role, c.member⟩, va)
    else
      let b := match if c.priv then none else s.gangOf k with
        | some g => g.binding (bits va 31 30) (bits va 29 24)
        | none => 0
      if b = 0 || bits va 23 20 ≠ 0 then none
      else some (⟨bits b 18 15, bits b 14 9, c.gang, bits va 31 30, bits va 29 24⟩, bits va 19 0)

/-- Whether an LSU access has to wait for a copy (06 R128). -/
def State.scoreStall (s : State) (k : CohKey) (space va n : Nat) (store : Bool) : Bool :=
  match if space = 1 then none else s.scratchNamed k space va with
  | none => false
  | some (g, a) =>
    match if g.die = k.die && g.core = k.core then s.scratchPage g.die g.core g.gang g.role g.member a else none with
    | none => false
    | some p =>
      let lo := scratchLoc p.id (a % pageBytes)
      (s.core k.die k.core).ranges.any fun r => decide (r.lo < lo + n) && decide (lo ≤ r.hi) && (store || r.isDst)

/-- Where a lane's access lies: its location, the address that effects report, and the core whose stash page it goes through. -/
structure Loc where
  pa : Nat
  va : Nat
  stash : Option (Nat × Nat) := none
  deriving DecidableEq, Repr

/-- What the checks of a lane's access find (11 R251). -/
inductive Found where
  | at (x : Loc)
  | fault (f : XFault) (va : Nat) (fill : Bool)
  /-- The fibre has a side-log entry for the page. -/
  | logged (e : SideEntry) (va : Nat)
  | frozen (va : Nat)
  /-- A privileged address that is refused (17 R355). -/
  | refused (va : Nat)
  | fatal
  deriving DecidableEq, Repr

/-- A user's global access. A non-canonical address lies in no page, so no side-log entry stands for it (06 R116). -/
def State.findUser (s : State) (k : LaneKey) (acc : Acc) (va : W64) : Found × State :=
  match if canonical va then s.loggedFor k va.toNat else none with
  | some e => (.logged e va.toNat, s)
  | none =>
    match s.translate k.coh.die k.coh.core va acc with
    | (.error f, s1) => (.fault f va.toNat false, s1)
    | (.ok x, s1) => (if acc.needsW && x.marked then .frozen va.toNat else .at { pa := x.pa, va := va.toNat }, s1)

def State.findGlobal (s : State) (k : LaneKey) (acc : Acc) (va : W64) : Found × State :=
  match s.cohort? k.coh with
  | none => (.fatal, s)
  | some c =>
    if !c.priv then s.findUser k acc va
    else (if s.physOk k.coh.die va.toNat then .at { pa := va.toNat, va := va.toNat } else .refused va.toNat, s)

def State.findScratch (s : State) (k : LaneKey) (acc : Acc) (g : ScratchOf) (va n : Nat) : Found × State :=
  let page := (s.scratchPage g.die g.core g.gang g.role g.member va).filter fun p => p.stash.isSome && !p.priv
  let global := page.map fun p => (p.globalAt (va % pageBytes)).toNat
  match global.bind (s.loggedFor k), global with
  | some e, some b => (.logged e b, s)
  | _, _ =>
    match s.scratchAt g.die g.core g.gang g.role g.member va n with
    | (.fatal, s1) => (.fatal, s1)
    | (.fault f a, s1) => (.fault f a true, s1)
    | (.refused a, s1) => (.refused a, s1)
    | (.at pa stash writable frozen a, s1) =>
      if acc.needsW && !writable then (.fault ⟨2, 0, 0⟩ a false, s1)
      else if acc.needsW && frozen then (.frozen a, s1)
      else (.at { pa := pa, va := a, stash := stash }, s1)

/-- The checks of one lane's access of n bytes after alignment (11 R251). -/
def State.findAccess (s : State) (k : LaneKey) (space : Nat) (acc : Acc) (ea : W64) (n : Nat) : Found × State :=
  if space = 1 then s.findGlobal k acc ea
  else match s.scratchNamed k.coh space ea.toNat with
    | none => (.fatal, s)
    | some (g, a) => s.findScratch k acc g a n

/-! Faults of an issue, by page. -/

/-- A faulting lane: the fault, its address and page, whether it only follows an entry into the log, and the bytes it would store. -/
structure MemFault where
  lane : Nat
  f : XFault
  va : Nat
  page : Nat
  psize : Nat
  follow : Bool
  fill : Bool
  data : List Byte := []
  deriving DecidableEq, Repr

def faultOf (lane : Nat) (data : List Byte) : Found → Option MemFault
  | .fault f va fill => some ⟨lane, f, va, f.page va, f.psize, false, fill, data⟩
  | .logged e va => some ⟨lane, e.xfault, va, e.page, e.psize, true, false, data⟩
  | _ => none

/-- Faults grouped by page, in the order of each page's lowest lane (20 R412). -/
def pageGroups (xs : List MemFault) : List (List MemFault) :=
  let firsts := dedup (xs.map fun x => (x.page, x.psize))
  firsts.map fun p => xs.filter fun x => (x.page, x.psize) = p

/-- Hold the lanes of each page, with a record per page (11 R252); `cw` gives the completion word of a lane's copy or freeze. -/
def State.holdPages (s : State) (i : Issue) (acc path : Nat) (waits : Bool) (cw : Nat → Nat := fun _ => 0) :
    List (List MemFault) → State × List (Nat × LaneOut)
  | [] => (s, [])
  | g :: gs =>
    match g with
    | [] => s.holdPages i acc path waits cw gs
    | x :: _ =>
      let (id, s1) := s.holdLanes i (g.map fun y => y.lane) x.f (if x.fill then 7 else acc) path (BitVec.ofNat 64 x.va) waits
        (g.map fun y => (y.lane, BitVec.ofNat 64 y.va)) (cw x.lane)
      let (s2, os) := s1.holdPages i acc path waits cw gs
      (s2, (g.map fun y => (y.lane, LaneOut.held id)) ++ os)

/-- Run the executing lanes in increasing order. A lane whose access faults gives its fault, which is held with those of its page once
the lanes have run (19 R394). -/
def runFaulting (f : State → Nat → State × Except MemFault LaneOut) : List Nat → State → State × List (Nat × LaneOut) × List MemFault
  | [], s => (s, [], [])
  | n :: ns, s =>
    let (s1, o) := f s n
    let (s2, os, xs) := runFaulting f ns s1
    match o with
    | .ok x => (s2, (n, x) :: os, xs)
    | .error x => (s2, os, x :: xs)

/-- `runFaulting`, and the holds of the faulting lanes. -/
def runHolding (i : Issue) (acc path : Nat) (waits : Bool) (f : State → Nat → State × Except MemFault LaneOut) (s : State)
    (ns : List Nat) : State × List (Nat × LaneOut) :=
  let (s1, outs, faults) := runFaulting f ns s
  let (s2, held) := s1.holdPages i acc path waits (fun _ => 0) (pageGroups faults)
  (s2, outs ++ held)

/-- A fault that a translation finds for a lane. -/
def MemFault.of (lane : Nat) (f : XFault) (va : Nat) : MemFault := ⟨lane, f, va, f.page va, f.psize, false, false, []⟩

/-! The side log. -/

def sideLogSize : Nat := 256
def sideLaneSlots : Nat := 2048

/-- Lane slots of the buffer that an entry takes: 16 bytes of data a slot. Log 61 (DEDUCED). -/
def SideEntry.laneSlots (e : SideEntry) : Nat := (e.lanes.map fun x => max 1 ((x.data.length + 15) / 16)).sum

def Core.sideRoom (c : Core) (e : SideEntry) : Bool :=
  c.sideLog.length < sideLogSize && ((c.sideLog.map SideEntry.laneSlots).sum + e.laneSlots ≤ sideLaneSlots)

/-- An entry enters the log. -/
def State.pushSide (s : State) (k : CohKey) (e : SideEntry) : State :=
  let c := s.core k.die k.core
  let used := c.sideLog.map fun x => x.idx
  let e1 := { e with idx := firstFree used sideLogSize 0 (used.length + 1), seq := c.sideSeq }
  (s.modCore k.die k.core fun x => { x with sideLog := x.sideLog ++ [e1], sideSeq := x.sideSeq + 1 }).slogRecord k e1 false

/-- A write issue of a lane counts (04 R79), unless it is the replay of one that has been counted (19 R397). Log 21 (DESIGN CHOICE). -/
def Lane.countWic (l : Lane) : Lane := if l.counted then { l with counted := false } else { l with wic := l.wic + 1 }

/-- Lanes that make a write issue on the LSU path (04 R79). -/
def State.countWic (s : State) (i : Issue) (ns : List Nat) : State :=
  foldState (fun (t : State) n => t.modLane (i.lane n) Lane.countWic) ns s

/-- Lanes whose write issue is held: it counts now, and its replay does not (19 R397). Log 21 (DESIGN CHOICE). -/
def State.countHeld (s : State) (i : Issue) (ns : List Nat) : State :=
  foldState (fun (t : State) n => t.modLane (i.lane n) fun l => { l.countWic with counted := true }) ns s

/-- Retire the faulting lanes of a page into the side log, or hold them for want of room (11 R253). `counted` says that the issue
has been counted in `$wic`. Log 59 (DEDUCED). -/
def State.logPage (s : State) (i : Issue) (acc op size : Nat) (counted sys : Bool) (g : List MemFault) : State × List (Nat × LaneOut) :=
  match g with
  | [] => (s, [])
  | x :: _ =>
    let k := i.key
    let gang := s.gangNo k
    let lanes := g.map fun y => y.lane
    let wicOf (n : Nat) : W32 := if counted then (s.laneAt i n).wic else (s.laneAt i n).countWic.wic
    let e : SideEntry := {
      id := s.nextId, tick := s.tick, gang := gang, pc := i.pc, wic := wicOf x.lane, page := x.page, psize := x.psize, state := 1
      cause := x.f.cause, slot := k.slot, acc := acc, op := op, size := size, seq := 0, rid := 0, viaStash := x.fill, sys := sys
      fibres := lanes.map fun n => s.fibreOf (i.lane n)
      lanes := g.map fun y => { lane := y.lane, va := y.va, data := y.data, wic := wicOf y.lane, fibre := s.fibreOf (i.lane y.lane) } }
    let s1 := { s with nextId := s.nextId + 1 }.noteAccess (lanes.map i.lane)
    if (s.core k.die k.core).sideRoom e then
      let s2 := (if counted then s1 else s1.countWic i lanes).pushSide k e
      let s3 := if x.follow then s2
        else s2.postFault k.die (faultRec x.f (if x.fill then 7 else acc) 0 (BitVec.ofNat 64 x.va) (maskOf lanes) i.pc gang k (.side k.core x.page))
      (s3, lanes.map fun n => (n, .go .seq))
    else
      let h : Hold := { id := s1.nextId, coh := k, mask := maskOf lanes, prio := i.prio, pc := i.pc, waits := false,
                        va := BitVec.ofNat 64 x.va, cause := x.f.cause, noRecord := true }
      let bytes (l : Lane) : Lane := { l with
        counted := true
        arrival := some { op := .st, form := {}, bytes := i.bytes, word := i.word, guard := true, a := 0, b := 0, mode := 0 } }
      let s2 := (if counted then s1 else s1.countWic i lanes)
      let s3 := { s2 with nextId := s2.nextId + 1, holds := s2.holds ++ [h] }.modCore k.die k.core fun c =>
        { c with sideWait := c.sideWait ++ [(h.id, e)] }
      (foldState (fun (t : State) n => t.modLane (i.lane n) bytes) lanes s3, lanes.map fun n => (n, .held h.id))

def State.logPages (s : State) (i : Issue) (acc op size : Nat) (counted sys : Bool) : List (List MemFault) → State × List (Nat × LaneOut)
  | [] => (s, [])
  | g :: gs =>
    let (s1, os) := s.logPage i acc op size counted sys g
    let (s2, os2) := s1.logPages i acc op size counted sys gs
    (s2, os ++ os2)

/-! The issue of an access. -/

/-- MEMERR of a privileged address that is refused (17 R355): detail bit 8. -/
def refusedErr (i : Issue) (va first count : Nat) : Effect :=
  let e := memErr va i.pc first count none
  { e with k3 := e.k3 ||| 256 }

/-- The trap of an instruction whose engine request names a privileged address that is refused (17 R355): nothing has started. -/
def refusedAt (i : Issue) (va : Nat) : Effect := { refusedErr i va 0 0 with cpc := some i.pc }

/-- What an LSU instruction does: its space, kind of access, size in bytes, whether it is a release and at which scope, the bytes
that a lane would log, and the code and size that a log entry keeps. -/
structure LsuOp where
  space : Nat
  acc : Acc
  size : Nat
  rel : Bool
  scope : Nat
  first : Nat := 0
  count : Nat := 0
  logOp : Nat := 255
  logSize : Nat := 0
  data : Lane → List Byte := fun _ => []

/-- The accesses of the lanes, in increasing order; an access in a fatal place aborts the gang. -/
def State.accessLanes (s : State) (i : Issue) (a : LsuOp) (addr : Lane → W64) (go : State → Nat → Loc → State) :
    List Nat → State × List (Nat × LaneOut) × List MemFault
  | [] => (s, [], [])
  | n :: ns =>
    let k := i.lane n
    let l := s.laneAt i n
    match s.findAccess k a.space a.acc (addr l) a.size with
    | (.fatal, s1) => (s1.abortFatal k i.pc, [], [])
    | (.at x, s1) =>
      let r := (go s1 n x).accessLanes i a addr go ns
      (r.1, (n, .go .seq) :: r.2.1, r.2.2)
    | (.frozen va, s1) =>
      let r := s1.accessLanes i a addr go ns
      (r.1, (n, .eff (wfrozen va i.pc false (some i.pc))) :: r.2.1, r.2.2)
    | (.refused va, s1) =>
      let r := ((if a.acc.needsW then s1.countWic i [n] else s1).addLate k (refusedErr i va a.first a.count)).accessLanes i a addr go ns
      (r.1, (n, .go .seq) :: r.2.1, r.2.2)
    | (x, s1) =>
      let r := s1.accessLanes i a addr go ns
      (r.1, r.2.1, (faultOf n (a.data l) x).toList ++ r.2.2)

/-- The checked accesses of an issue, with their holds or log entries. -/
def State.runAccess (s : State) (i : Issue) (a : LsuOp) (addr : Lane → W64) (go : State → Nat → Loc → State) (ns : List Nat) :
    State × List (Nat × LaneOut) :=
  let bad := ns.filter fun n => (addr (s.laneAt i n)).toNat % a.size ≠ 0
  let good := ns.filter fun n => (addr (s.laneAt i n)).toNat % a.size = 0
  let (s1, outs, faults) := s.accessLanes i a addr go good
  let (s2, more) :=
    if a.acc = .store || a.acc = .reduction then s1.logPages i a.acc.code a.logOp a.logSize false (a.acc = .reduction && a.scope = 5) (pageGroups faults)
    else
      let s3 := if a.acc = .atomic then s1.countHeld i (faults.map fun y => y.lane) else s1
      s3.holdPages i a.acc.code 0 false (fun _ => 0) (pageGroups faults)
  (s2, (bad.map fun n => (n, .eff (misalign i (addr (s.laneAt i n)) a.size))) ++ outs ++ more)

/-- An LSU instruction: sources, watchpoints, the range scoreboard, a release's fence, growth, and then the lanes' accesses. Log 60 (DEDUCED). -/
def lsuIssue (o : Op) (f : Form) (s : State) (a : LsuOp) (go : Issue → State → Nat → Loc → State) :
    Host.Outcome State Fault Refusal :=
  withIssue s fun i t =>
    let u := f.use o
    let ex := t.executing i f.guard
    let at_ (n : Nat) : W64 := memAddr f (t.laneAt i n)
    if t.mustWait i f.guard u then t
    else if ex.isEmpty then t.finish i u []
    else
      match t.watchHit i a.acc.needsW (if a.space = 1 then ex.map fun n => (n, at_ n, a.size) else []) with
      | .none =>
        if ex.any fun n => t.scoreStall i.key a.space (at_ n).toNat a.size a.acc.needsW then t
        else if a.rel && !(ex.all fun n => t.fenceReady (i.lane n) a.scope [.lsu]) then t
        else if !t.growOk i.key u.writes then t.refuseGrowth i u ex
        else
          let (t1, fx) := if a.rel then t.fenceLanes i a.scope [.lsu] ex else (t, [])
          let rest := ex.filter fun n => (lookup fx n).isNone
          let (t2, outs) := (t1.noteGrown i.key u.writes).runAccess i a (memAddr f) (go i) rest
          t2.finish i u ((fx.map fun x => (x.1, .eff x.2)) ++ outs)
      | hit => t.takeHit i hit

end Sys2Proof.Machine
end

