-- ==== Sys2Proof/Machine/Memory.lean ====
section
/-! DEFINITION. Loads and stores, atomics and reductions, and PREF (11 R256 to R262), and the steps at which their accesses are
performed (07 R135 to R137, R149). -/

namespace Sys2Proof.Machine

def spaceOf (f : Form) : Nat := if f.xm then 1 else 0

/-! Loads (11 R256). -/

/-- Whether a load or atomic acquires, and its scope, where the first access of a posted fibre acquires at a scope of its own (13 R321). -/
def acquireOf (f : Form) (first : Option Nat) : Bool × Nat :=
  match first with
  | none => (f.ord.getLsbD 0, f.rs.toNat)
  | some sc => (true, if f.ord.getLsbD 0 then max sc f.rs.toNat else sc)

/-- A lane's load is under way: its destination is pending. -/
def goLoad (f : Form) (u : RegUse) (i : Issue) (s : State) (n : Nat) (x : Loc) : State :=
  let (acq, scope) := acquireOf f (s.acquiresNext (i.lane n))
  let ld : Load := { id := s.nextId, src := i.lane n, pc := i.pc, va := x.va, pa := x.pa, ty := f.ty.toNat, ext := f.c.toNat
                     first := u.writes.headD 0, acq := acq, scope := scope, gang := s.gangNo i.key, stash := x.stash }
  ({ s with loads := s.loads ++ [ld], nextId := s.nextId + 1 }.noteAccess [i.lane n]).modLane (i.lane n) fun l =>
    l.addPend ld.id ld.first u.writes.length f.la

def load (o : Op) (space : Nat) (f : Form) (s : State) : Host.Outcome State Fault Refusal :=
  let u := f.use o
  lsuIssue o f s { space := space, acc := .load, size := sizeBytes f.ty.toNat, rel := false, scope := f.rs.toNat
                   first := u.writes.headD 0, count := u.writes.length } (goLoad f u)

def execLd (f : Form) (s : State) : Host.Outcome State Fault Refusal := load .ld (spaceOf f) f s
def execLdr (f : Form) (s : State) : Host.Outcome State Fault Refusal := load .ldr 2 f s

/-! Stores (11 R257). -/

/-- The bytes that a store form takes from its data registers. -/
def storeData (o : Op) (f : Form) (l : Lane) : List Byte :=
  (((runRegs (f.runB o)).flatMap fun n => toBytes (l.reg n).toNat 4)).take (sizeBytes f.ty.toNat)

/-- A lane's write leaves it and counts in `$wic`. One of 16 bytes is applied whole, where only each half is single-copy atomic (06 R118): no
access of another fibre then sees one half without the other. Log 152 (DESIGN CHOICE). -/
def goWrite (i : Issue) (s : State) (n : Nat) (x : Loc) (data : List Byte) (red : Option (Nat × Nat)) (sys : Bool) : State :=
  let s1 := s.countWic i [n]
  s1.addWrite { id := 0, src := i.lane n, gang := s.gangNo i.key, path := .lsu, wic := (s1.laneAt i n).wic, pc := i.pc, va := x.va, pa := x.pa,
                data := data, red := red, sys := sys, stash := x.stash }

def store (o : Op) (space : Nat) (f : Form) (s : State) : Host.Outcome State Fault Refusal :=
  lsuIssue o f s { space := space, acc := .store, size := sizeBytes f.ty.toNat, rel := f.ord.getLsbD 1, scope := f.rs.toNat
                   logSize := f.ty.toNat, data := storeData o f }
    fun i t n x => goWrite i t n x (storeData o f (t.laneAt i n)) none false

def execSt (f : Form) (s : State) : Host.Outcome State Fault Refusal := store .st (spaceOf f) f s
def execStr (f : Form) (s : State) : Host.Outcome State Fault Refusal := store .str 2 f s

/-! Atomics and reductions (11 R258 to R260). -/

/-- A lane's atomic is on its way to its home. -/
def goAtomic (f : Form) (u : RegUse) (op : Nat) (b : W64) (cmp : Option W64) (i : Issue) (s : State) (n : Nat) (x : Loc) : State :=
  let k := i.lane n
  let (acq, scope) := acquireOf f (s.acquiresNext k)
  let s1 := (s.countWic i [n]).noteAccess [k]
  let a : Atomic := { id := s1.nextId, src := k, gang := s.gangNo i.key, pc := i.pc, prio := i.prio, va := x.va, pa := x.pa, wide := f.ty = 1
                      op := op, b := b, cmp := cmp, first := u.writes.headD 0, acq := acq, scope := scope
                      wic := (s1.laneAt i n).wic, deps := s1.depsOf [k] .lsu x.pa (sizeBytes f.ty.toNat) s.batch, batch := s.batch, stash := x.stash }
  { s1 with atomics := s1.atomics ++ [a], nextId := s1.nextId + 1 }.modLane k fun l => l.addPend a.id a.first u.writes.length f.la

def atomicUse (f : Form) (u : RegUse) : LsuOp :=
  { space := spaceOf f, acc := .atomic, size := sizeBytes f.ty.toNat, rel := f.ord.getLsbD 1, scope := f.rs.toNat
    first := u.writes.headD 0, count := u.writes.length }

def execAtom (f : Form) (s : State) : Host.Outcome State Fault Refusal :=
  let u := f.use .atom
  lsuIssue .atom f s (atomicUse f u) fun i t n x =>
    goAtomic f u f.c.toNat (BitVec.ofNat 64 ((t.laneAt i n).raw (f.ty = 1) (f.bField .atom))) none i t n x

def execAcas (f : Form) (s : State) : Host.Outcome State Fault Refusal :=
  let u := f.use .acas
  lsuIssue .acas f s (atomicUse f u) fun i t n x =>
    let l := t.laneAt i n
    goAtomic f u f.c.toNat (BitVec.ofNat 64 (l.raw (f.ty = 1) (f.bField .acas))) (some (BitVec.ofNat 64 (l.raw (f.ty = 1) f.c.toNat))) i t n x

def redData (f : Form) (l : Lane) : List Byte := toBytes (l.raw (f.ty = 1) (f.bField .ared)) (sizeBytes f.ty.toNat)

def execAred (f : Form) (s : State) : Host.Outcome State Fault Refusal :=
  lsuIssue .ared f s { space := spaceOf f, acc := .reduction, size := sizeBytes f.ty.toNat, rel := f.ord.getLsbD 1, scope := f.rs.toNat
                       logOp := f.c.toNat, logSize := f.ty.toNat, data := redData f }
    fun i t n x => goWrite i t n x (redData f (t.laneAt i n)) (some (f.c.toNat, f.ty.toNat)) (f.rs = 5)

/-- PREF (11 R262): a hint, which changes only timing. -/
def execPref (f : Form) (s : State) : Host.Outcome State Fault Refusal := execRegs .pref f s fun _ l => .ok (l, .seq)

/-! When accesses are performed. -/

def execLoadDataReturn (l : LaneKey) (id : Nat) (s : State) : Host.Outcome State Fault Refusal :=
  match s.loads.find? fun x => x.id = id && x.src = l with
  | some x => .next (if s.loadDue x && s.awake l.coh.die && s.homeAwake x.pa l.coh x.stash true then s.performLoad x else s)
  | none => .next s

/-- An observer that may lag behind the home of a write: a core or the host, but for scratch (07 R139); or for a copy's bytes a core's plane
engines (16 R347). -/
def mayLag (w : Write) (o : Nat) : Bool :=
  (decide (w.pa < scratchBase) && decide (o ≤ Config.hostObserver))
    || (w.path = .cpy && decide (engineBase ≤ o) && decide (o < engineBase + Config.hostObserver))

/-- Observers that may lag behind the home. -/
def lagOf (w : Write) (lag : List Nat) : List Nat := dedup (lag.filter (mayLag w))

/-- Log 8 (DEDUCED). -/
def execWriteApply (id : Nat) (a : ApplyAt) (s : State) : Host.Outcome State Fault Refusal :=
  match s.write? id with
  | none => .next s
  | some w =>
    match a with
    | .home lag =>
      let late := lagOf w lag
      .next (if s.homeDue w late && s.writeAwake w late then s.applyHome w late else s)
    | .observer o => .next (if mayLag w o && s.observerDue w o && observerAwake s o then s.applyObserver w o else s)

/-- An atomic is performed at its home, or the reply of one that was performed lands. One that gets no old value needs its die's clock. -/
def execAtomicPerform (id : Nat) (s : State) : Host.Outcome State Fault Refusal :=
  match s.atomics.find? fun x => x.id = id with
  | none => .next s
  | some a =>
    let up := s.awake a.src.coh.die
    .next (match a.reply with
      | some (old, seen) => if up then s.landAtomic a old seen else s
      | none => if s.atomicDue a && s.homeAwake a.pa a.src.coh a.stash false && (up || !s.atomicFails a) then s.performAtomic a else s)

end Sys2Proof.Machine
end

