-- ==== Sys2Proof/Machine/Spill.lean ====
section
/-! DEFINITION. SPILL and FILL (09 R207 to R209) and the register image (04 R86, R87). -/

namespace Sys2Proof.Machine

/-! The image. -/

/-- Lane values of a cohort register: those of the live lanes. -/
def Cohort.column (c : Cohort) (n : Nat) : List (Nat × W32) :=
  c.lanes.filterMap fun x => (numGet x.2.v n).map fun v => (x.1, v)

/-- The least format that holds every delta (04 R87). -/
def imageFmt (ds : List W32) : Nat :=
  if ds.all fun d => (d.setWidth 8).signExtend 32 = d then 1
  else if ds.all fun d => (d.setWidth 16).signExtend 32 = d then 2
  else if ds.all fun d => (d.setWidth 24).signExtend 32 = d then 3
  else 0

/-- The image of a cohort register (04 R86, R87). -/
def Cohort.image (c : Cohort) (n : Nat) : List Byte :=
  let col := c.column n
  let live := maskOf (col.map fun x => x.1)
  let base := match col with
    | x :: _ => x.2
    | [] => 0
  let delta (l : Nat) : W32 := match lookup col l with
    | some v => v - base
    | none => 0
  let fmt := imageFmt (col.map fun x => x.2 - base)
  let head := toBytes fmt 8 ++ toBytes live.toNat 8
  let lanes := List.range Config.width
  padTo 16 (if fmt = 0 then head ++ lanes.flatMap fun l => toBytes ((lookup col l).getD 0).toNat 4
    else head ++ toBytes base.toNat 4 ++ lanes.flatMap fun l => toBytes (delta l).toNat fmt)

/-- Bytes of an image that FILL reads: the header, and the words or BASE and deltas. -/
def imageSize (fmt : Nat) : Nat :=
  match fmt with
  | 0 => 272
  | 1 | 2 | 3 | 4 => 20 + 64 * fmt
  | _ => 16

/-- The value that an image holds for a lane (04 R87). -/
def imageLane (fmt : Nat) (bs : List Byte) (l : Nat) : W32 :=
  if fmt = 0 then BitVec.ofNat 32 (ofBytes ((bs.drop (16 + 4 * l)).take 4))
  else BitVec.ofInt 32 ((ofBytes ((bs.drop 16).take 4) : Int) + sextNat (ofBytes ((bs.drop (20 + fmt * l)).take fmt)) (8 * fmt))

/-! Ranges of more than one access. -/

/-- A range cut at multiples of 128 bytes. -/
def pieces (a n : Nat) : Nat → List (Nat × Nat)
  | 0 => []
  | fuel + 1 =>
    let m := min n (128 - a % 128)
    if n = 0 then [] else (a, m) :: pieces (a + m) (n - m) fuel

def piecesOf (a n : Nat) : List (Nat × Nat) := pieces a n (n / 128 + 2)

/-- The checks of every piece of a range, with the piece's offset in it. -/
def State.findPieces (s : State) (k : LaneKey) (space : Nat) (acc : Acc) (base : Nat) :
    List (Nat × Nat) → State × List (Nat × Nat × Found)
  | [] => (s, [])
  | (a, n) :: ps =>
    let (x, s1) := s.findAccess k space acc (BitVec.ofNat 64 a) n
    let (s2, xs) := s1.findPieces k space acc base ps
    (s2, (a - base, n, x) :: xs)

def Found.loc? : Found → Option Loc
  | .at x => some x
  | _ => none

def Found.isFatal : Found → Bool
  | .fatal => true
  | _ => false

def Found.frozen? : Found → Option Nat
  | .frozen va => some va
  | _ => none

def Found.refused? : Found → Option Nat
  | .refused va => some va
  | _ => none

/-- A read of a fibre at issue may be performed: nothing that it must follow is outstanding (07 R137, R145), and its home answers. -/
def State.readReady (s : State) (k : LaneKey) (x : Loc) (n : Nat) : Bool :=
  !s.heldBack k s.nextId x.pa n && s.homeAwake x.pa k.coh x.stash true
    && s.writes.all fun w => !(s.ownWrite k .lsu w && w.red.isSome && overlap w.pa w.size x.pa n) || w.appliedAt (observerOf k.coh)

/-- Lanes of an issue take the same outcome. -/
def allOut (ns : List Nat) (o : LaneOut) : List (Nat × LaneOut) := ns.map fun n => (n, o)

/-- A late effect for each lane, which goes on. -/
def State.lateAll (s : State) (i : Issue) (ns : List Nat) (e : Effect) : State :=
  foldState (fun (t : State) n => t.addLate (i.lane n) e) ns s

/-! SPILL (09 R208). -/

/-- The writes of an image, for the lowest lane and on behalf of the others. -/
def State.imageWrites (s : State) (i : Issue) (lead : Nat) (ex : List Nat) (bs : List Byte) : List (Nat × Nat × Loc) → State
  | [] => s
  | (off, n, x) :: rest =>
    let k := i.lane lead
    (s.addWrite { id := 0, src := k, gang := s.gangNo i.key, path := .lsu, wic := (s.laneAt i lead).wic, pc := i.pc, va := x.va, pa := x.pa
                  data := (bs.drop off).take n, stash := x.stash
                  also := (ex.filter fun m => m ≠ lead).map fun m => (m, s.fibreOf (i.lane m)) }).imageWrites i lead ex bs rest

def spillRun (i : Issue) (space lead : Nat) (ex : List Nat) (ea : W64) (bs : List Byte) (s : State) : State × List (Nat × LaneOut) :=
  let (s1, found) := s.findPieces (i.lane lead) space .store ea.toNat (piecesOf ea.toNat bs.length)
  if found.any fun x => x.2.2.isFatal then (s1.abortFatal (i.lane lead) i.pc, [])
  else
    match found.findSome? fun x => x.2.2.frozen?, found.findSome? fun x => x.2.2.refused? with
    | some va, _ => (s1, allOut ex (.eff (wfrozen va i.pc false (some i.pc))))
    | none, some va => ((s1.countWic i ex).lateAll i ex (refusedErr i va 0 0), allOut ex (.go .seq))
    | none, none =>
      let s2 := s1.countWic i ex
      let s3 := s2.imageWrites i lead ex bs (found.filterMap fun x => x.2.2.loc?.map fun y => (x.1, x.2.1, y))
      let faults := found.flatMap fun x => ex.filterMap fun n =>
        faultOf n (if n = lead then (bs.drop x.1).take x.2.1 else []) x.2.2
      let (s4, outs) := s3.logPages i Acc.store.code 255 2 true false (pageGroups faults)
      (s4, (outs.filter fun x => x.2 ≠ .go .seq) ++ allOut ex (.go .seq))

/-- Log 59 (DEDUCED). -/
def execSpill (f : Form) (s : State) : Host.Outcome State Fault Refusal :=
  withIssue s fun i t =>
    let u := f.use .spill
    let ex := t.executing i f.guard
    let b := f.bField .spill
    match t.cohort? i.key, ex with
    | none, _ => t
    | some _, [] => t.finish i u []
    | some c, lead :: _ =>
      if t.mustWait i f.guard u || c.lanes.any fun x => x.2.pending b then t
      else
        let ea := memAddr f (t.laneAt i lead)
        let bs := c.image b
        match t.watchHit i true (if f.xm then ex.map fun n => (n, ea, bs.length) else []) with
        | .none =>
          if t.scoreStall i.key (spaceOf f) ea.toNat bs.length true then t
          else if ea.toNat % 16 ≠ 0 then t.finish i u (allOut ex (.eff (misalign i ea 16)))
          else
            let (t1, outs) := spillRun i (spaceOf f) lead ex ea bs t
            t1.finish i u outs
        | hit => t.takeHit i hit

/-! FILL (09 R209). -/

/-- What reading a range at issue finds. -/
inductive NowRead where
  | wait
  | fatal
  | held (x : MemFault)
  | refused (va : Nat)
  | bad (va pa : Nat)
  | bytes (bs : List Byte) (seen : List Nat)
  deriving DecidableEq, Repr

/-- An LSU load of n bytes, performed at issue for a lane. -/
def State.readNow (s : State) (k : LaneKey) (space : Nat) (ea : W64) (n : Nat) : NowRead × State :=
  let (s1, found) := s.findPieces k space .load ea.toNat (piecesOf ea.toNat n)
  if found.any fun x => x.2.2.isFatal then (.fatal, s1)
  else
    match found.findSome? fun x => x.2.2.refused?, found.findSome? fun x => faultOf k.lane [] x.2.2 with
    | some va, _ => (.refused va, s1)
    | none, some x => (.held x, s1)
    | none, none =>
      let locs := found.filterMap fun x => x.2.2.loc?.map fun y => (y, x.2.1)
      let gang := s1.gangNo k.coh
      if !(locs.all fun x => s1.readReady k x.1 x.2) then (.wait, s1)
      else match locs.find? fun x => s1.homeRefuses k.coh.die gang x.1.pa, locs.find? fun x => s1.badAt x.1.pa x.2 with
        | some x, _ => (.held (MemFault.of k.lane ⟨6, 0, 0⟩ x.1.va), s1)
        | none, some x => (.bad x.1.va x.1.pa, s1)
        | none, none =>
          (.bytes (locs.flatMap fun x => s1.fibreView k s1.nextId x.1.pa x.2)
            (dedup (locs.flatMap fun x => s1.seenWrites k s1.nextId x.1.pa x.2)), s1)

/-- A read on behalf of lanes that did not return bytes: the lanes' outcome. -/
def State.readFails (s : State) (i : Issue) (ns : List Nat) (first count : Nat) : NowRead → State × List (Nat × LaneOut)
  | .fatal => match ns with
    | n :: _ => (s.abortFatal (i.lane n) i.pc, [])
    | [] => (s, [])
  | .held x =>
    let (id, s1) := s.holdLanes i ns x.f (if x.fill then 7 else 1) 0 (BitVec.ofNat 64 x.va) false
    (s1, allOut ns (.held id))
  | .refused va => (s.lateAll i ns (refusedErr i va first count), allOut ns (.go .seq))
  | .bad va pa =>
    let s1 := s.lateAll i ns (memErr va i.pc first count none)
    (match ns with
      | n :: _ => s1.eccRecord (i.lane n) pa
      | [] => s1, allOut ns (.go .seq))
  | _ => (s, allOut ns .stall)

/-- The lanes of a FILL take their values from an image. -/
def State.fillLanes (s : State) (i : Issue) (d : Nat) (bs : List Byte) (seen : List Nat) (ex : List Nat) : State :=
  let fmt := (ofBytes (bs.take 1))
  let live := ofBytes ((bs.drop 8).take 8)
  foldState (fun (t : State) n =>
    (t.modLane (i.lane n) fun l =>
      if live.testBit n then l.setReg d (imageLane fmt bs n) else l.release d).observe (i.lane n) seen) ex (s.noteAccess (ex.map i.lane))

/-- FILL once its image is read: the checks of the image, growth, the result. -/
def fillWith (i : Issue) (f : Form) (u : RegUse) (ex : List Nat) (bs : List Byte) (seen : List Nat) (t : State) : State :=
  let fmt := ofBytes (bs.take 1)
  let live := ofBytes ((bs.drop 8).take 8)
  if 4 < fmt || ofBytes ((bs.drop 1).take 7) ≠ 0 then t.finish i u (allOut ex (.eff (illegal i 6)))
  else if (ex.any fun n => live.testBit n) && !t.growOk i.key u.writes then t.refuseGrowth i u ex
  else
    let t1 := if ex.any fun n => live.testBit n then t.noteGrown i.key u.writes else t
    (t1.fillLanes i f.d.toNat bs seen ex).finish i u (allOut ex (.go .seq))

def execFill (f : Form) (s : State) : Host.Outcome State Fault Refusal :=
  withIssue s fun i t =>
    let u := f.use .fill
    let ex := t.executing i f.guard
    match ex with
    | [] => t.finish i u []
    | lead :: _ =>
      let k := i.lane lead
      let ea := memAddr f (t.laneAt i lead)
      if t.mustWait i f.guard u then t
      else
        let head := if ea.toNat % 16 = 0 then (t.readNow k (spaceOf f) ea 16).1 else .fatal
        let n := match head with
          | .bytes bs _ => imageSize (ofBytes (bs.take 1))
          | _ => 16
        match t.watchHit i false (if f.xm then ex.map fun m => (m, ea, n) else []) with
        | .none =>
          if t.scoreStall i.key (spaceOf f) ea.toNat n false then t
          else if ea.toNat % 16 ≠ 0 then t.finish i u (allOut ex (.eff (misalign i ea 16)))
          else
            match t.readNow k (spaceOf f) ea n with
            | (.wait, _) => t
            | (.bytes bs seen, t1) => fillWith i f u ex bs seen t1
            | (x, t1) =>
              let (t2, outs) := t1.readFails i ex f.d.toNat 1 x
              t2.finish i u outs
        | hit => t.takeHit i hit

end Sys2Proof.Machine
end

