-- ==== Sys2Proof/Machine/Tickets.lean ====
section
/-! DEFINITION. Tickets and completion words (06 R129, 11 R263 to R267), shared by copies, freezes and thaws. -/

namespace Sys2Proof.Machine

/-! Tickets. -/

/-- The next ticket of a gang on the CPY or FRZ path, or of a die's supervisor cohorts. Log 64 (DEDUCED). -/
def State.takeTicket (s : State) (k : CohKey) (c : Cohort) (frz : Bool) : Nat × State :=
  if c.priv then
    let x := s.die k.die
    (if frz then x.frzNext else x.cpyNext,
      s.modDie k.die fun y => if frz then { y with frzNext := y.frzNext + 1 } else { y with cpyNext := y.cpyNext + 1 })
  else
    match s.gangOf k with
    | none => (1, s)
    | some g =>
      (if frz then g.frzNext else g.cpyNext,
        s.modGang (s.pid k.die) c.gang fun y => if frz then { y with frzNext := y.frzNext + 1 } else { y with cpyNext := y.cpyNext + 1 })

/-- A fibre lists at most 32 outstanding tickets and stopped matrix operations (11 R265). -/
def ticketLimit : Nat := 32

def ticketKind (frz : Bool) : Nat := if frz then 2 else 1

/-- The ticket of a completed operation leaves the list of the fibre that holds it. Log 43 (DEDUCED). -/
def State.pruneTicket (s : State) (j : Job) : State :=
  let keep (t : Ticket) : Bool := !(t.kind = ticketKind j.frz && t.addr = j.word % 2 ^ 57 && t.value.toNat = j.ticket)
  let prune (x : CohKey × Cohort) : CohKey × Cohort :=
    if x.2.gang = j.gang && s.pid x.1.die = j.pid then
      (x.1, { x.2 with lanes := x.2.lanes.map fun (y : Nat × Lane) => (y.1, { y.2 with tickets := y.2.tickets.filter keep }) })
    else x
  { s with cohorts := s.cohorts.map prune }

/-- The work of a supervisor's fibre, whose addresses are physical (17 R355, 19 R388). -/
def Job.priv (j : Job) : Bool := j.gang = 0

/-- Two operations take their tickets from one counter. -/
def Job.sameCounter (a b : Job) : Bool :=
  a.frz = b.frz && a.gang = b.gang && a.pid = b.pid && (a.gang ≠ 0 || a.key.coh.die = b.key.coh.die)

/-- Every earlier ticket of the counter that names the same word has been written. Log 58 (DESIGN CHOICE). -/
def State.wordTurn (s : State) (j : Job) : Bool :=
  s.jobs.all fun x => !(x.sameCounter j && x.word = j.word && decide (x.ticket < j.ticket))

/-- The engine's translation faults: it waits, with a record (11 R266). Log 57 (DEDUCED). -/
def State.jobFault (s : State) (j : Job) (f : XFault) (acc va : Nat) : State :=
  let r := faultRec f acc (if j.frz then 4 else 1) (BitVec.ofNat 64 va) 0 j.pc j.gang { j.key.coh with slot := 0 } (.engine j.id)
  (s.modJob { j with waiting := true, retry := true }).postFault j.key.coh.die { r with cw := j.word }

/-- What the fibre had observed when it issued the operation is applied at every core, so that its word may be (07 R142). -/
def State.wordFollows (s : State) (j : Job) : Bool := s.writes.all fun w => !j.obs.contains w.id || w.performedAt 3 j.key.coh

/-- The word at its location: bit 63 stays once set (11 R266). -/
def Job.wordValue (j : Job) (old : Nat) : Nat := j.ticket % 2 ^ 63 + 2 ^ 63 * (if j.bad || old.testBit 63 then 1 else 0)

/-- The word is written: at every observer at once. One in a frozen granule keeps its image, and one whose region the partition does not
own is refused. Log 58 (DESIGN CHOICE). -/
def State.putWord (s : State) (j : Job) (pa : Nat) : State :=
  let new := j.wordValue (s.homeNat pa 8)
  let s1 := s.dropJob j
  if s.homeRefuses j.key.coh.die j.gang pa then s1.abortEngine j.key j.gang j.pc
  else if s.frzCount pa ≠ 0 then s1
  else
    let s2 := (s1.storeAs j.key pa (toBytes new 8)).touchPages pa j.key.coh none
    if j.frz then s2 else s2.almLane j.key 0x33 (boolNat (new.testBit 63)) (BitVec.ofNat 64 j.ticket)

/-- Write the ticket into the completion word (06 R129; 11 R263, R266), when its turn has come and its home may take it. -/
def State.writeWord (s : State) (j : Job) : State :=
  if !s.wordTurn j || !s.wordFollows j then s
  else
    match s.reach j.key.coh.die noCore j.priv (BitVec.ofNat 64 j.word) .atomic with
    | (.fault f, s1) => s1.jobFault j f 6 j.word
    | (.refused, s1) => s1.dropJob j
    | (.at x, s1) => if !s1.homeAwake x.pa j.key.coh none false || s1.collecting x.pa then s1 else s1.putWord j x.pa

/-! Completion words at issue. -/

/-- The check of word C at issue (11 R263): its translation as an access that needs R and W, of a lane of a user's cohort or a
supervisor's. -/
def State.wordOk (s : State) (k : LaneKey) (word : W64) : Reached × State :=
  s.reach k.coh.die k.coh.core (s.heapCtx k).priv word .atomic

/-! CWAIT, TWAIT, CTEST, FTEST (11 R267). -/

/-- The word that a lane waits for: its address and ticket. -/
def waitWord (o : Op) (f : Form) (l : Lane) : W64 × W64 := (l.regPair f.a.toNat, l.regPair (f.bField o))

/-- Bits [62:0] of the word have reached the ticket. -/
def reached (word ticket : Nat) : Bool := ticket ≤ word % 2 ^ 63

/-- Writes of the copies that a completed word covers are observed (07 R141). -/
def State.observeWord (s : State) (k : LaneKey) (va word : Nat) (seen : List Nat) : State :=
  let covers (w : Write) : Bool := w.path = .cpy && w.gang = s.gangNo k.coh && w.word = va && decide (w.ticket ≤ word % 2 ^ 63)
  s.observe k (dedup (seen ++ (s.writes.filter covers).map fun w => w.id))

/-- The comparison of a lane's word with its ticket: `use` says what follows from the word and whether it has been reached. -/
def wordLane (o : Op) (f : Form) (i : Issue) (use : W64 → Nat → Bool → State → State × LaneOut) (s : State) (n : Nat) :
    State × Except MemFault LaneOut :=
  let k := i.lane n
  let (va, ticket) := waitWord o f (s.laneAt i n)
  let ok (r : State × LaneOut) : State × Except MemFault LaneOut := (r.1, .ok r.2)
  if va.toNat % 8 ≠ 0 then (s, .ok (.eff (misalign i va 8)))
  else
    match s.readNow k 1 va 8 with
    | (.bytes bs seen, s1) =>
      let word := ofBytes bs
      let done := reached word ticket.toNat
      ok (use va word done ((if done then s1.observeWord k va.toNat word seen else s1).noteAccess [k]))
    | (.held x, s1) => (s1, .error x)
    | (x, s1) =>
      let (s2, outs) := s1.readFails i [n] 0 0 x
      (s2, .ok ((lookup outs n).getD .off))

/-- An instruction that reads completion words waits until its reads may be performed. Log 131 (DEDUCED). -/
def execWord (o : Op) (f : Form) (s : State) (use : Nat → Issue → W64 → Nat → Bool → State → State × LaneOut) :
    Host.Outcome State Fault Refusal :=
  withIssue s fun i t =>
    let busy (n : Nat) : Bool :=
      (t.loads.any fun x => x.src = i.lane n) || (t.atomics.any fun x => x.src = i.lane n)
        || (t.qwaits.any fun x => x.key = i.lane n) || (t.readNow (i.lane n) 1 (waitWord o f (t.laneAt i n)).1 8).1 = .wait
        || t.writes.any fun x => t.ownWrite (i.lane n) .lsu x && x.red.isSome && !x.appliedAt (observerOf i.key)
    let ex := t.executing i f.guard
    if !t.mustWait i f.guard (f.use o) && ex.any busy then t
    else
      match t.watchHit i false (ex.map fun n => (n, (waitWord o f (t.laneAt i n)).1, 8)) with
      | .none => t.issueWith i f.guard (f.use o) fun t ex =>
          runHolding i 1 0 false (fun u n => wordLane o f i (use n i) u n) t ex
      | hit => t.takeHit i hit

/-- A lane that waits keeps the instruction, for its wake (02 R39). -/
def State.parkAt (s : State) (i : Issue) (n : Nat) (o : Op) (f : Form) : State :=
  let l := s.laneAt i n
  let a : Arrival := { op := o, form := f, bytes := i.bytes, word := i.word, guard := true, a := arrivalWord o f l, b := 0, mode := 0 }
  s.setLane (i.lane n) { l with arrival := some a }
where
  /-- The ticket of a wait for a word. -/
  arrivalWord (o : Op) (f : Form) (l : Lane) : W64 := (waitWord o f l).2

def execCwait (f : Form) (s : State) : Host.Outcome State Fault Refusal :=
  execWord .cwait f s fun n i va word done t =>
    if !done then (t.parkAt i n .cwait f, .park 3 va)
    else if word.testBit 63 then (t, .eff { tag := 10, k2 := va, k3 := hwDetail 0, cpc := some i.pc, xpc := i.pc })
    else (t, .go .seq)

def execTwait (f : Form) (s : State) : Host.Outcome State Fault Refusal :=
  execWord .twait f s fun n i va _ done t => if done then (t, .go .seq) else (t.parkAt i n .twait f, .park 4 va)

def execCtest (f : Form) (s : State) : Host.Outcome State Fault Refusal :=
  execWord .ctest f s fun n i _ _ done t => (t.modLane (i.lane n) fun l => l.setPred f.d.toNat done, .go .seq)

def execFtest (f : Form) (s : State) : Host.Outcome State Fault Refusal :=
  execWord .ftest f s fun n i _ _ done t => (t.modLane (i.lane n) fun l => l.setPred f.d.toNat done, .go .seq)

end Sys2Proof.Machine
end

