-- ==== Sys2Proof/Machine/Copy.lean ====
section
/-! DEFINITION. CPY and CPY2D (11 R263 to R266), and the copy engine. -/

namespace Sys2Proof.Machine

/-! Issue. -/

/-- The geometry of a copy: bytes of a row, rows, destination and source strides. -/
structure CopyShape where
  n : Nat
  r : Nat
  ds : Nat
  ss : Nat
  deriving DecidableEq, Repr

/-- CPY2D's geometry is within its limits (11 R264). -/
def CopyShape.ok (g : CopyShape) : Bool :=
  16 ≤ g.n && g.n ≤ 65536 && g.n % 16 = 0 && 1 ≤ g.r && g.r ≤ 65536 && g.ds % 16 = 0 && g.ss % 16 = 0 && g.r * g.n ≤ 2 ^ 24

def copyShape (o : Op) (f : Form) (l : Lane) : CopyShape :=
  match o with
  | .cpy2d =>
    let g := f.w2.toNat % 128
    ⟨l.nat32 g, l.nat32 (g + 1), l.nat32 (g + 2), l.nat32 (g + 3)⟩
  | _ => ⟨f.w2.toNat, 1, 0, 0⟩

/-- Spaces of TY (11 R263): destination and source; 0 scratch, 1 global, 2 role-member scratch. -/
def copyDst (ty : Nat) : Nat := if ty ≤ 1 then 0 else if ty ≤ 3 then 1 else 2
def copySrc (ty : Nat) : Nat := ty % 2

/-- A copy's operands in a lane. -/
structure CopyArgs where
  dst : W64
  src : W64
  word : W64
  shape : CopyShape
  deriving DecidableEq, Repr

def copyArgs (o : Op) (f : Form) (l : Lane) : CopyArgs :=
  let ty := f.ty.toNat
  let operand (space n : Nat) : W64 := if space = 1 then l.regPair n else (l.reg n).setWidth 64
  { dst := operand (copyDst ty) f.a.toNat, src := operand (copySrc ty) (f.bField o), word := l.regPair f.c.toNat, shape := copyShape o f l }

/-- The scoreboard entry of a range of scratch: the core, and the range of its contents (06 R128). A range outside the grant takes
none; its access is fatal. -/
def State.rangeOf (s : State) (k : CohKey) (space va len copy : Nat) (isDst : Bool) : Option ((Nat × Nat) × Range) :=
  match if space = 1 then none else s.scratchNamed k space va with
  | none => none
  | some (g, a) =>
    match s.scratchPage g.die g.core g.gang g.role g.member a with
    | none => none
    | some p =>
      let lo := scratchLoc p.id (a % pageBytes)
      some ((g.die, g.core), ⟨copy, lo, lo + len - 1, isDst⟩)

def scoreboardSize : Nat := 32

/-- The entries that a lane's copy takes. -/
def State.copyRanges (s : State) (k : CohKey) (ty copy : Nat) (a : CopyArgs) : List ((Nat × Nat) × Range) :=
  let len (stride : Nat) : Nat := (a.shape.r - 1) * stride + a.shape.n
  (s.rangeOf k (copyDst ty) a.dst.toNat (len a.shape.ds) copy true).toList
    ++ (s.rangeOf k (copySrc ty) a.src.toNat (len a.shape.ss) copy false).toList

/-- The scoreboards have room for a list of entries. -/
def State.rangesFit (s : State) (rs : List ((Nat × Nat) × Range)) : Bool :=
  rs.all fun r => ((s.core r.1.1 r.1.2).ranges.length + (rs.filter fun x => x.1 = r.1).length) ≤ scoreboardSize

/-- Start a lane's copy (11 R265). -/
def State.startCopy (s : State) (i : Issue) (c : Cohort) (o : Op) (f : Form) (n : Nat) (a : CopyArgs)
    (rs : List ((Nat × Nat) × Range)) : State :=
  let k := i.lane n
  let ty := f.ty.toNat
  let (ticket, s1) := s.takeTicket i.key c false
  let l := s1.laneAt i n
  let id := s1.nextId
  let g := a.shape
  let j : Job := {
    id := id, frz := false, key := k, fibre := l.fibre, pid := s.pid i.key.die, gang := c.gang, role := c.role, member := c.member
    ticket := ticket, word := a.word.toNat, pc := i.pc, dstSpace := copyDst ty, srcSpace := copySrc ty, dst := a.dst.toNat
    src := a.src.toNat, rowBytes := g.n, dstStride := g.ds, srcStride := g.ss, todo := List.range (g.r * g.n / 16), count := g.r * g.n / 16
    obs := l.obs.filter s1.inFlight }
  let s2 := foldState (fun (t : State) r => t.modCore r.1.1 r.1.2 fun x => { x with ranges := x.ranges ++ [r.2] }) rs s1
  let t : Ticket := ⟨1, a.word.toNat % 2 ^ 57, BitVec.ofNat 64 ticket⟩
  let d := f.d.toNat
  let put (l : Lane) : Lane := { (l.addPend id d 2 f.la).land id (wordsOf ticket 2) with tickets := l.tickets ++ [t] }
  let s3 := ({ s2 with jobs := s2.jobs ++ [j], nextId := id + 1 }).modLane k put
  s3.almLane k 0x32 (g.r * g.n / 16 % 2 ^ 21 + 2 ^ 21 * (if o = .cpy2d then 1 else 0)) (BitVec.ofNat 64 ticket)
    (some (a.dst.toNat % 2 ^ 57 + 2 ^ 57 * (a.src.toNat % 2 ^ 57) + 2 ^ 114 * ty))

/-- What a lane of a copy, freeze or thaw comes to: an outcome, a fault of its request, a stall with the marks that it keeps, a start. -/
inductive LaneStart where
  | out (o : LaneOut)
  | fault (x : MemFault)
  | stall (marks : Option (List (Nat × Option Nat) × List Nat))
  | started
  deriving DecidableEq, Repr

/-- One lane of a copy: its checks, in the order of 03 R58 and 11 R263, then the stalls of 11 R265, then the start. Log 57 (DEDUCED). -/
def State.copyLane (s : State) (i : Issue) (c : Cohort) (o : Op) (f : Form) (n : Nat) : State × LaneStart :=
  let k := i.lane n
  let l := s.laneAt i n
  let a := copyArgs o f l
  if o = .cpy2d && !a.shape.ok then (s, .out (.eff (illegal i 6)))
  else if a.dst.toNat % 16 ≠ 0 then (s, .out (.eff (misalign i a.dst 16)))
  else if a.src.toNat % 16 ≠ 0 then (s, .out (.eff (misalign i a.src 16)))
  else if a.word.toNat % 8 ≠ 0 then (s, .out (.eff (misalign i a.word 8)))
  else
    match s.wordOk k a.word with
    | (.fault x, s1) => (s1, .fault (MemFault.of n x a.word.toNat))
    | (.refused, s1) => (s1, .out (.eff (refusedAt i a.word.toNat)))
    | (.at _, s1) =>
      let rs := s1.copyRanges i.key f.ty.toNat s1.nextId a
      if ticketLimit ≤ l.tickets.length || !s1.rangesFit rs then (s1, .stall none)
      else (s1.startCopy i c o f n a rs, .started)

/-- What the lanes of an issue that may stall part-way have come to: its stall, the lanes that fault, whether one stalls. -/
structure StallRun where
  stall : Stall
  faults : List MemFault := []
  stalled : Bool := false
  deriving DecidableEq, Repr

/-- The lanes of an issue, in increasing order, from the first that has not been dealt with to one that stalls. -/
def startLanes (one : State → Stall → Nat → State × LaneStart) (s : State) (r : StallRun) : List Nat → State × StallRun
  | [] => (s, r)
  | n :: ns =>
    let st := { r.stall with marks := none }
    match one s r.stall n with
    | (s1, .stall m) => (s1, { r with stall := { r.stall with marks := m }, stalled := true })
    | (s1, .started) => startLanes one s1 { r with stall := { st with started := st.started ++ [n] } } ns
    | (s1, .fault x) => startLanes one s1 { r with stall := st, faults := r.faults ++ [x] } ns
    | (s1, .out (.eff e)) => startLanes one s1 { r with stall := { st with fx := st.fx ++ [(n, e)] } } ns
    | (s1, .out _) => startLanes one s1 { r with stall := st } ns

def Stall.dealt (st : Stall) (n : Nat) : Bool := st.started.contains n || st.fx.any fun x => x.1 = n

def Stall.outs (st : Stall) : List (Nat × LaneOut) :=
  (st.started.map fun n => (n, LaneOut.go .seq)) ++ st.fx.map fun x => (x.1, LaneOut.eff x.2)

/-- Lanes that a fault holds leave the stalled issue at once, and the frontier: a reply may make them ready before it ends. -/
def State.leaveStall (s : State) (i : Issue) (u : RegUse) (priv : Bool) (st : Stall) (outs : List (Nat × LaneOut)) : State :=
  let mask := maskOf (outs.map fun x => x.1)
  let held (t : State) (x : Nat × LaneOut) : State := (t.modLane (i.lane x.1) fun l => l.settle i u true priv x.2).unreadyLane (i.lane x.1)
  (foldState held outs s).modCohort i.key fun c => { c with stall := some { st with mask := st.mask &&& ~~~mask } }

/-- What an instruction that may stall part-way needs: its access and path codes in a fault record, whether its lanes wait for word C, the
completion word of a lane, and the work of a lane. -/
structure StallOp where
  acc : Nat
  path : Nat
  waits : Bool
  word : Lane → Nat
  one : Issue → Cohort → State → Stall → Nat → State × LaneStart

/-- The issue of a copy, freeze or thaw, or its continuation after a stall (11 R265, R271). Log 135 (DEDUCED). -/
def stallIssue (o : Op) (instr : Instr) (f : Form) (a : StallOp) (s : State) : Host.Outcome State Fault Refusal :=
  withIssue s fun i t =>
    match t.cohort? i.key with
    | none => t
    | some c =>
      let u := f.use o
      let st : Stall := c.stall.getD { prio := i.prio, pc := i.pc, mask := i.mask, bytes := i.bytes, word := i.word, instr := instr }
      let ex := t.executing i f.guard
      let rest := ex.filter fun n => !st.dealt n
      let waits := rest.any fun n => u.reads.any (t.laneAt i n).waitsFor || (u.long && u.writes.any (t.laneAt i n).waitsFor)
      if waits then t
      else if !rest.isEmpty && c.stall.isNone && !t.growOk i.key u.writes then t.refuseGrowth i u ex
      else
        let t1 := if c.stall.isNone then t.noteGrown i.key u.writes else t
        let (t2, r) := startLanes (a.one i c) t1 { stall := st } rest
        let (t3, held) := t2.holdPages i a.acc a.path a.waits (fun n => a.word (t.laneAt i n)) (pageGroups r.faults)
        if r.stalled then t3.leaveStall i u c.priv r.stall held
        else (t3.modCohort i.key fun x => { x with stall := none }).finish i u (r.stall.outs ++ held)

def copyIssue (o : Op) (instr : Instr) (f : Form) : State → Host.Outcome State Fault Refusal :=
  stallIssue o instr f { acc := 6, path := 1, waits := false, word := fun l => (copyArgs o f l).word.toNat
                         one := fun i c s _ n => s.copyLane i c o f n }

def execCpy (f : Form) (s : State) : Host.Outcome State Fault Refusal := copyIssue .cpy (.cpy f) f s
def execCpy2d (f : Form) (s : State) : Host.Outcome State Fault Refusal := copyIssue .cpy2d (.cpy2d f) f s

/-! The copy engine (11 R266). -/

/-- The scratch that a copy names, by the binding of its gang. -/
def State.jobScratch (s : State) (j : Job) (space va : Nat) : Option (ScratchOf × Nat) :=
  if space = 0 then some (⟨j.key.coh.die, j.key.coh.core, j.gang, j.role, j.member⟩, va)
  else
    let b := match s.gang? j.pid j.gang with
      | some g => g.binding (bits va 31 30) (bits va 29 24)
      | none => 0
    if b = 0 || bits va 23 20 ≠ 0 then none
    else some (⟨bits b 18 15, bits b 14 9, j.gang, bits va 31 30, bits va 29 24⟩, bits va 19 0)

/-- Where a piece of 16 bytes lies. -/
def State.jobFind (s : State) (j : Job) (space va : Nat) (acc : Acc) : Found × State :=
  if space = 1 then
    match s.reach j.key.coh.die noCore j.priv (BitVec.ofNat 64 va) acc with
    | (.fault f, s1) => (.fault f va false, s1)
    | (.refused, s1) => (.refused va, s1)
    | (.at x, s1) => (.at { pa := x.pa, va := va }, s1)
  else match s.jobScratch j space va with
    | none => (.fatal, s)
    | some (g, a) =>
      match s.scratchAt g.die g.core g.gang g.role g.member a 16 with
      | (.fatal, s1) => (.fatal, s1)
      | (.fault f x, s1) => (.fault f x true, s1)
      | (.refused x, s1) => (.refused x, s1)
      | (.at pa stash writable frozen x, s1) =>
        if acc.needsW && !writable then (.fault ⟨2, 0, 0⟩ x false, s1)
        else if acc.needsW && frozen then (.frozen x, s1)
        else (.at { pa := pa, va := x, stash := stash }, s1)

/-- A piece is written as one, or in parts of 2^k bytes: the rules order no two bytes of a copy (07 R138, R153). -/
def Job.pieceWrites (j : Job) (p : Nat) (x : Loc) (data : List Byte) (id n : Nat) (deps : List Nat) : List Write :=
  (List.range (16 / n)).map fun i => {
    id := id + i, job := some j.id, piece := p, src := j.key, fibre := j.fibre, gang := j.gang, path := .cpy, wic := 0, pc := j.pc
    va := x.va + n * i, pa := x.pa + n * i, data := (data.drop (n * i)).take n, stash := x.stash, deps := deps
    word := j.word, ticket := j.ticket }

/-- Write the piece that was read. One whose address is refused, or that is frozen, is left unwritten. -/
def State.copyWrite (s : State) (j : Job) (p : Nat) (data : List Byte) (rest : List (Nat × List Byte)) : State :=
  match s.jobFind j j.dstSpace (j.dstAt p) .copyWrite with
  | (.fatal, s1) => (s1.dropJob j).abortEngine j.key j.gang j.pc
  | (.fault f va fill, s1) => s1.jobFault j f (if fill then 7 else 6) va
  | (.at x, s1) =>
    let (n, s2) := s1.choose 5
    { s2.modJob { j with got := rest, retry := false } with
      writes := s2.writes ++ j.pieceWrites p x data s2.nextId (2 ^ (4 - n)) (j.obs.filter s2.inFlight), nextId := s2.nextId + 16 }
  | (_, s1) => s1.modJob { j with got := rest, bad := true, retry := false }

/-- Read a piece; uncorrectable bytes are left uncopied. A home refuses the die of a partition that does not own the region (19 R408). -/
def State.copyRead (s : State) (j : Job) (p : Nat) : State :=
  let rest := j.todo.filter fun q => q ≠ p
  match s.jobFind j j.srcSpace (j.srcAt p) .copyRead with
  | (.fatal, s1) => (s1.dropJob j).abortEngine j.key j.gang j.pc
  | (.fault f va fill, s1) => s1.jobFault { j with todo := p :: rest } f (if fill then 7 else 5) va
  | (.at x, s1) =>
    if !s1.homeAwake x.pa j.key.coh x.stash true then s
    else if s1.homeRefuses j.key.coh.die j.gang x.pa then s1.jobFault { j with todo := p :: rest } ⟨6, 0, 0⟩ 5 x.va
    else if s1.badAt x.pa 16 then
      (s1.modJob { j with todo := rest, bad := true, retry := false }).eccRecord j.key x.pa
    else
      s1.modJob { j with todo := rest, got := j.got ++ [(p, s1.viewN (observerOf j.key.coh) x.pa 16)], retry := false }
  | (_, s1) => s1.modJob { j with todo := rest, bad := true, retry := false }

/-- Every byte that a copy wrote is performed: at `.PKG`, or at `.SYS` in host memory. -/
def State.copyPerformed (s : State) (j : Job) : Bool :=
  s.writes.all fun w => w.job ≠ some j.id || w.performedAt (if isHostPa w.pa then 5 else 3) j.key.coh

/-- A copy completes: its ticket leaves the list and its scoreboard entries are free. -/
def State.copyDone (s : State) (j : Job) : State :=
  let s1 := (s.modJob { j with complete := true }).pruneTicket j
  State.sweepPages { s1 with cores := s1.cores.map fun c => (c.1, { c.2 with ranges := c.2.ranges.filter fun r => r.copy ≠ j.id }) }

/-- One step of the copy engine for a copy: it reads or writes a piece, completes, or writes the completion word. -/
def State.copyStep (s : State) (j : Job) : State :=
  if j.waiting then s
  else if j.complete then s.writeWord j
  else match j.got, j.todo with
    | (p, data) :: rest, _ => s.copyWrite j p data rest
    | [], p :: ps =>
      let (n, s1) := if j.retry then (0, s) else s.choose (ps.length + 1)
      s1.copyRead j ((p :: ps).getD n p)
    | [], [] => if s.copyPerformed j then s.copyDone j else s

def execCopyComplete (id : Nat) (s : State) : Host.Outcome State Fault Refusal :=
  match s.jobs.find? fun j => j.id = id && !j.frz with
  | some j => .next (if s.awake j.key.coh.die then s.copyStep j else s)
  | none => .next s

end Sys2Proof.Machine
end

