-- ==== Sys2Proof/Machine/Fabric.lean ====
section
/-! DEFINITION. The fabric (21 R421 to R425): flits, the sending and receiving ends of links, routing between dies and planes, and
requests of other packages served at their homes with the hotness counts of 19 R406. -/

namespace Sys2Proof.Machine

def zeros (n : Nat) : List Byte := List.replicate n 0
/-- Bytes with zeros after them up to a size. -/
def padEnd (n : Nat) (bs : List Byte) : List Byte := bs ++ zeros (n - bs.length)

/-! Flits. -/

def flitPayload : Nat := 232

/-- Bits [1983:0] of a flit. Log 17 (PRESUMED). -/
def flitBody (f : Flit) : Nat :=
  f.rsvLo.toNat + 2 ^ 37 * f.vc.toNat + 2 ^ 40 * f.seq.toNat + 2 ^ 52 * f.ack.toNat + 2 ^ 64 * f.rsvHi.toNat + 2 ^ 68 * f.dstDie.toNat
    + 2 ^ 72 * f.srcDie.toNat + 2 ^ 76 * f.dstPkg.toNat + 2 ^ 88 * f.srcPkg.toNat + 2 ^ 100 * f.part.toNat + 2 ^ 112 * f.type.toNat
    + 2 ^ 120 * f.len.toNat + 2 ^ 128 * ofBytes ((padEnd flitPayload f.payload).take flitPayload)

/-- CRC-64 of the n low bits of a number, the highest first. Log 17 (PRESUMED). -/
def crc64 (x : Nat) : Nat → W64 → W64
  | 0, c => c
  | n + 1, c =>
    let c1 := c <<< 1
    crc64 x n (if c.getLsbD 63 != x.testBit n then c1 ^^^ 0x42F0E1EBA9EA3693 else c1)

def flitCrc (f : Flit) : W64 := crc64 (flitBody f) 1984 0
def flitOk (f : Flit) : Bool := flitCrc f = f.crc

/-- A flit with no payload of a type: 0 idle, 1 NAK (21 R421). -/
def bareFlit (type : BitVec 8) : Flit :=
  { crc := 0, payload := [], len := 0, type := type, part := 0, srcPkg := 0, dstPkg := 0, srcDie := 0, dstDie := 0, rsvHi := 0, ack := 0
    seq := 0, vc := 0, rsvLo := 0 }

/-! The sending end of a link (21 R422). -/

def State.link (s : State) (k : LinkId) : Link := (lookup s.links k).getD {}
def State.modLink (s : State) (k : LinkId) (f : Link → Link) : State := { s with links := insertKey s.links k (f (s.link k)) }

/-- How many flits may wait for their ACK. -/
def unackedLimit : Nat := 2047

/-- A flit as it leaves a link: its sequence, the last sequence received in order, and the CRC. -/
def Link.stamp (l : Link) (f : Flit) (seq : BitVec 12) : Flit :=
  let g := { f with seq := seq, ack := l.expect - 1 }
  { g with crc := flitCrc g }

def State.onWire (s : State) (k : LinkId) (fs : List Flit) : State := { s with wire := (fs.map fun f => (k, f)).reverse ++ s.wire }

/-- A NAK that is owed leaves, then the flits that wait, in order, as far as ACKs leave room. A link that retrains sends nothing. -/
def State.pumpLink (s : State) (k : LinkId) : State :=
  let l := s.link k
  if !l.up || l.retrain then s
  else
    let n := unackedLimit - l.unacked.length
    let sent := ((l.queue.take n).zipIdx).map fun x => l.stamp x.1 (l.next + BitVec.ofNat 12 x.2)
    let naks := if l.nak then [l.stamp (bareFlit 1) 0] else []
    let l1 : Link := { l with
      nak := false, next := l.next + BitVec.ofNat 12 sent.length, queue := l.queue.drop n
      since := if l.unacked.isEmpty then s.tick else l.since
      unacked := l.unacked ++ sent.map fun f => (f, 0) }
    (s.modLink k fun _ => l1).onWire k (naks ++ sent)

def State.sendFlit (s : State) (k : LinkId) (f : Flit) : State := (s.modLink k fun l => { l with queue := l.queue ++ [f] }).pumpLink k

/-- Flits that an ACK covers leave; none when it names no flit that waits. -/
def Link.acked (l : Link) (ack : BitVec 12) (tick : Nat) : Link :=
  if l.unacked.any fun x => x.1.seq = ack then
    { l with unacked := (l.unacked.dropWhile fun x => x.1.seq ≠ ack).tail, since := tick }
  else l

/-- Resend events of a port (21 R422). -/
def offPORT (p : Nat) : Nat := 0x700100 + 8 * (p % 3)
def State.countReplay (s : State) (k : LinkId) : State :=
  match k with
  | .port p =>
    s.setDcr (p / 3) (offPORT p) (BitVec.ofNat 64 (min (2 ^ 32 - 1) (s.dcrBits (p / 3) (offPORT p) 31 0 + 1)))
  | .bridge _ _ => s

/-- Every unacknowledged flit is sent again, oldest first; eight resends of one retrain the link. -/
def State.resend (s : State) (k : LinkId) : State :=
  let l := s.link k
  if !l.up || l.retrain || l.unacked.isEmpty then s
  else
    let again := l.unacked.map fun x => (l.stamp x.1 x.1.seq, x.2 + 1)
    let s1 := s.modLink k fun y => { y with unacked := again, since := s.tick, retrain := again.any fun x => decide (8 ≤ x.2) }
    (s1.onWire k (again.map fun x => x.1)).countReplay k

/-! Routes (21 R421, R424). -/

/-- The next die on the way from one die to another: along the row to the target's column, then along the column. -/
def nextHop (d t : Nat) : Nat :=
  if d % 4 < t % 4 then d + 1 else if t % 4 < d % 4 then d - 1 else if d < t then d + 4 else d - 4

def State.package (s : State) (d : Nat) : Nat := s.dcrBits d offPKGID 11 0

/-- The line of a message between packages. -/
def flitLine (f : Flit) : Nat := bits (Config.remoteAddr f.payload) 56 10

/-- The plane, and so the port, by which a message to another package leaves: its own plane, or while that is down one of those that are
live. Log 101 (DESIGN CHOICE). -/
def State.planeOf (s : State) (f : Flit) : Option Nat :=
  let h := Config.planeHash f.dstPkg.toNat (flitLine f)
  let live := (List.range 48).filter fun p => s.sec.ports.getLsbD p
  if s.sec.ports.getLsbD (h % 48) then some (h % 48) else live[h % live.length]?

/-- A message of this package at a die goes on to the die of its port. One that finds no live plane is lost. -/
def State.routeOut (s : State) (d : Nat) (f : Flit) : State :=
  match s.planeOf f with
  | none => s
  | some p => if d = p / 3 then s.sendFlit (.port p) f else s.sendFlit (.bridge d (nextHop d (p / 3))) f

/-! Requests of other packages at their homes (21 R425). -/

/-- A party that is no core, for what the writes of the host and of other packages do to stash pages. -/
def hostKey : CohKey := ⟨Config.dies, 0, 0⟩

/-- Hotness counters of a die (19 R406). -/
def hotEntries : Nat := 1024

/-- A remote request is counted by granule and source package: the entries stand in the order of their last use, and the last makes room. -/
def State.countHot (s : State) (d granule pkg : Nat) (write : Bool) : State :=
  let same (h : Hot) : Bool := h.granule = granule && h.pkg = pkg
  let h := ((s.die d).hot.find? same).getD ⟨granule, pkg, 0, 0⟩
  let up (n : Nat) : Nat := min (2 ^ 16 - 1) (n + 1)
  let h1 : Hot := if write then { h with writes := up h.writes } else { h with reads := up h.reads }
  s.modDie d fun x => { x with hot := (h1 :: x.hot.filter fun y => !same y).take hotEntries }

/-- Kinds of request. -/
inductive RemoteKind where
  | read | write | atomic
  deriving DecidableEq, Repr

/-- What a request asks for. Log 101 (DESIGN CHOICE). -/
def remoteKindOf (bs : List Byte) : RemoteKind :=
  match Config.remoteKind bs with
  | 0 => .read | 1 => .write | _ => .atomic

/-- Bytes of its line that a request reaches. -/
def remoteBytes (bs : List Byte) : Nat :=
  let n := match remoteKindOf bs with
    | .read => Config.remoteSize bs
    | .write => (Config.remoteData bs).length
    | .atomic => if Config.remoteSize bs = 8 then 8 else 4
  min n (1024 - Config.remoteAddr bs % 1024)

/-- A die answers a request: the message goes back to its source (21 R425). -/
def State.answerRemote (s : State) (d : Nat) (f : Flit) (data : List Byte) (status : Nat) : State :=
  let bs := (Config.remoteReply f.payload data status).take flitPayload
  let g := bareFlit (Config.remoteReplyType f.type)
  s.routeOut d { g with
    payload := bs, len := BitVec.ofNat 8 bs.length, part := f.part, srcPkg := BitVec.ofNat 12 (s.package d), dstPkg := f.srcPkg
    srcDie := BitVec.ofNat 4 d, dstDie := f.srcDie, vc := 1 }

/-- A request at its home (21 R425): counted, checked against the region's owner (19 R408), and done as an access of any other party. Log 101 (DESIGN CHOICE). -/
def State.serveRemote (s : State) (d : Nat) (f : Flit) : State :=
  let bs := f.payload
  let pa := Config.remoteAddr bs
  let n := remoteBytes bs
  let kind := remoteKindOf bs
  let s1 := s.countHot d (pa / granuleBytes) f.srcPkg.toNat (kind ≠ .read)
  let old := s1.home pa n
  let put (data : List Byte) : State := (s1.storeAs ⟨⟨d, 0, 0⟩, 0⟩ pa data).touchPages pa hostKey none
  if homeDie pa ≠ d || f.part = 0 || s1.regionOwner pa ≠ f.part.toNat then s1.answerRemote d f [] 1
  else if kind ≠ .read && s1.frzCount pa ≠ 0 then s1.answerRemote d f [] 2
  else if kind ≠ .write && s1.badAt pa n then (s1.eccRecord ⟨⟨d, 0, 0⟩, 0⟩ pa).answerRemote d f [] 3
  else match kind with
    | .read => s1.answerRemote d f old 0
    | .write => (put ((Config.remoteData bs).take n)).answerRemote d f [] 0
    | .atomic =>
      let b := ofBytes (Config.remoteData bs) % 2 ^ (8 * n)
      let new := match Config.remoteCompare bs with
        | some c => if ofBytes old = c.toNat % 2 ^ (8 * n) then b else ofBytes old
        | none => atomOp (Config.remoteOp bs) (n = 8) (ofBytes old) b
      (put (toBytes new n)).answerRemote d f old 0

/-- A request may be served: the oldest of its line, at a home that acts, no write into a granule that is being collected (07 R160). -/
def State.remoteDue (s : State) (d : Nat) (f : Flit) : Bool :=
  let pa := Config.remoteAddr f.payload
  let write := remoteKindOf f.payload ≠ .read
  (s.die d).remote.find? (fun g => flitLine g = flitLine f) = some f
    && !(write && s.collecting pa) && s.awake d && (homeDie pa ≠ d || s.homeAwake pa hostKey none (!write))

/-- A die serves the requests that it may. -/
def State.pumpRemoteN (s : State) (d : Nat) : Nat → State
  | 0 => s
  | n + 1 =>
    match (s.die d).remote.find? (s.remoteDue d) with
    | none => s
    | some f => State.pumpRemoteN ((s.modDie d fun x => { x with remote := x.remote.erase f }).serveRemote d f) d n

def State.pumpRemote (s : State) : State :=
  (s.dies.map fun x => x.1).foldl (fun (t : State) d => t.pumpRemoteN d (t.die d).remote.length) s

/-- A message that has reached a die (21 R421): it is for this die, for another, or for another package. Requests are served at their
homes; no access of this package waits for an answer from another. Log 10 (DESIGN CHOICE). -/
def State.routeFlit (s : State) (d : Nat) (f : Flit) : State :=
  if f.dstPkg.toNat ≠ s.package d then s.routeOut d f
  else if f.dstDie.toNat ≠ d then s.sendFlit (.bridge d (nextHop d f.dstDie.toNat)) f
  else if f.vc = 5 then State.pumpRemote (s.modDie d fun x => { x with remote := x.remote ++ [f] })
  else s

/-- The die at an end of a link. -/
def linkDie : LinkId → Nat
  | .port p => p / 3
  | .bridge src _ => src

/-- A flit at the receiving end of a link (21 R422): one with a bad CRC is answered with a NAK; an idle flit or NAK carries an ACK alone;
a message is taken in sequence order and acknowledged, and goes on; one out of order is discarded. Log 101 (DESIGN CHOICE). -/
def State.receiveFlit (s : State) (k : LinkId) (f : Flit) : State :=
  if !flitOk f then (s.modLink k fun l => { l with nak := true }).pumpLink k
  else
    let s1 := s.modLink k fun l => l.acked f.ack s.tick
    if f.type = 1 then (s1.resend k).pumpLink k
    else if f.type ≠ 0 && f.seq = (s.link k).expect then
      let s2 := s1.modLink k fun l => { l with expect := l.expect + 1, nak := false }
      let s3 := s2.onWire k [(s2.link k).stamp (bareFlit 0) 0]
      (s3.routeFlit (linkDie k) f).pumpLink k
    else s1.pumpLink k

/-- The flits that a port which went down still holds go by their new planes, before any newer one (21 R424). -/
def State.rerouteAll (s : State) (p : Nat) : State :=
  let l := s.link (.port p)
  let held := l.unacked.map (fun x => x.1) ++ l.queue
  held.foldl (fun (t : State) f => t.routeOut (p / 3) f) (s.modLink (.port p) fun x => { x with unacked := [], queue := [] })

end Sys2Proof.Machine
end

