-- ==== Sys2Proof/Machine/HostHome.lean ====
section
/-! DEFINITION. Host writes to device memory at their homes (21 R418, R419; 24 R465): applied in the order of their pair, held,
rejected or dropped. -/

namespace Sys2Proof.Machine

/-- A home holds a host write: its granule is being collected (07 R160), its partition is captured (24 R465), or its die is
stopped. Log 114 (DEDUCED). -/
def State.hostBlocked (s : State) (pa : Nat) : Bool :=
  s.collecting pa || !s.homeAwake pa hostKey none false || s.ckState (s.regionOwner pa) ≠ 0

/-- A message-signalled interrupt to the host. -/
def State.sendMsi (s : State) (at_ : Nat) (x : W32) : State := { s with hostMsi := (at_, x) :: s.hostMsi }

/-- A host write at its home (21 R419). Log 102 (DEDUCED). -/
def State.applyHost (s : State) (pa : Nat) (data : List Byte) : State :=
  let d := homeDie pa
  let owner := s.regionOwner pa
  let noted := s.setDcr d offFRZADDR (BitVec.ofNat 64 pa)
  if owner = 0 || owner = deviceOwner then noted
  else if s.frzCount pa ≠ 0 then
    let n := min (2 ^ 32 - 1) (s.dcrBits d offFRZREJ 31 0 + 1)
    let s1 := noted.setDcr d offFRZREJ (BitVec.ofNat 64 n)
    let id := s.dcrBits d offERRMSI 10 0
    if id = 0 then s1 else s1.sendMsi (4 * s.dcrBits d offERRADDR 56 2) (BitVec.ofNat 32 id)
  else (s.storeAs ⟨⟨d, 0, 0⟩, 0⟩ pa data).touchPages pa hostKey none

/-- Numbers of a pair of stream and home die. -/
def State.hostPair (s : State) (stream d : Nat) : HostPair :=
  (s.hostPairs.find? fun p => p.stream = stream && p.die = d).getD ⟨stream, d, 0, 0⟩
def State.setHostPair (s : State) (p : HostPair) : State :=
  { s with hostPairs := p :: s.hostPairs.filter fun q => !(q.stream = p.stream && q.die = p.die) }

def HostPair.mine (p : HostPair) (w : HostWr) : Bool := w.stream = p.stream && w.die = p.die

/-- Early writes of a pair that a home holds (21 R418). -/
def hostEarly : Nat := 64

/-- A home takes writes of a pair: the next expected one always, early ones as far as it may hold them. The others are answered with a
retry and kept at their ingress. -/
def HostPair.take (p : HostPair) : Nat → List HostWr → List HostWr
  | _, [] => []
  | early, w :: rest =>
    if !p.mine w || w.taken then w :: p.take early rest
    else if w.seq = p.apply then { w with taken := true } :: p.take early rest
    else if early < hostEarly then { w with taken := true } :: p.take (early + 1) rest
    else w :: p.take early rest

/-- The ingress sends the writes of a pair that are not taken, again when the next expected number has advanced. -/
def State.offerHost (s : State) (p : HostPair) : State :=
  let early := (s.hostHeld.filter fun w => p.mine w && w.taken && w.seq ≠ p.apply).length
  { s with hostHeld := p.take early s.hostHeld }

/-- A write that its home holds is the next of its pair, and may be applied. -/
def State.hostDue (s : State) (w : HostWr) : Bool := w.taken && (s.hostPair w.stream w.die).apply = w.seq && !s.hostBlocked w.pa

/-- Homes apply the host writes that may be applied, each pair in number order. -/
def State.pumpHostN (s : State) : Nat → State
  | 0 => s
  | n + 1 =>
    match s.hostHeld.find? s.hostDue with
    | none => s
    | some w =>
      let p := s.hostPair w.stream w.die
      let p1 := { p with apply := p.apply + 1 }
      let s1 := State.setHostPair { s with hostHeld := s.hostHeld.erase w } p1
      ((s1.offerHost p1).applyHost w.pa w.data).pumpHostN n

/-- Homes apply what they may of the host's writes and of other packages' requests. -/
def State.pumpHost (s : State) : State := (s.pumpHostN s.hostHeld.length).pumpRemote

end Sys2Proof.Machine
end

