-- ==== Sys2Proof/Machine/Shake.lean ====
section
/-! DEFINITION. SHAKE256 (22 R442, R443; 24 R466; 25 R474), as FIPS 202 defines it: the Keccak permutation on 25 lanes of 64 bits, lane
(x, y) at position x + 5y. -/

namespace Sys2Proof.Machine

/-- FIPS 202 gives the round constants by a shift register of 8 bits with feedback x⁸ + x⁶ + x⁵ + x⁴ + 1: its contents after n steps. -/
def roundRegister : Nat → Nat
  | 0 => 1
  | n + 1 =>
    let r := 2 * roundRegister n
    if r.testBit 8 then r ^^^ 0x171 else r

/-- The constant of a round: the register's low bits of 7 steps, at the bits 2^j - 1. -/
def roundConstant (round : Nat) : W64 :=
  BitVec.ofNat 64 ((List.range 7).map fun j => roundRegister (7 * round + j) % 2 * 2 ^ (2 ^ j - 1)).sum

/-- The walk over the lanes that gives the rotations: where it stands after t steps. -/
def rotationWalk : Nat → Nat × Nat
  | 0 => (1, 0)
  | t + 1 =>
    let (x, y) := rotationWalk t
    (y, (2 * x + 3 * y) % 5)

/-- Rotations by lane: the triangular numbers along the walk. -/
def rotations : List Nat :=
  foldState (fun (r : List Nat) t =>
    let (x, y) := rotationWalk t
    r.set (x + 5 * y) ((t + 1) * (t + 2) / 2 % 64)) (List.range 24) (List.replicate 25 0)

def laneOf5 (a : List W64) (x y : Nat) : W64 := a.getD (x % 5 + 5 * (y % 5)) 0

/-- The lanes that a function of their places gives, in order of position. -/
def placed25 (f : Nat → Nat → W64) : List W64 := (List.range 25).map fun i => f (i % 5) (i / 5)

/-- The parity of column x. -/
def columnParity (a : List W64) (x : Nat) : W64 := foldState (fun (p : W64) y => p ^^^ laneOf5 a x y) (List.range 5) 0

/-- One round: θ, then ρ and π together, then χ and the constant. -/
def permuteRound (a : List W64) (round : Nat) : List W64 :=
  let cols := (List.range 5).map (columnParity a)
  let mixed := placed25 fun x y => laneOf5 a x y ^^^ cols.getD ((x + 4) % 5) 0 ^^^ (cols.getD ((x + 1) % 5) 0).rotateLeft 1
  let moved := placed25 fun x y => (laneOf5 mixed (x + 3 * y) x).rotateLeft (rotations.getD ((x + 3 * y) % 5 + 5 * x) 0)
  placed25 fun x y =>
    let z := laneOf5 moved x y ^^^ (~~~(laneOf5 moved (x + 1) y) &&& laneOf5 moved (x + 2) y)
    if (x, y) = (0, 0) then z ^^^ roundConstant round else z

/-- The permutation of 24 rounds. Log 16 (PRESUMED). -/
def permute1600 (a : List W64) : List W64 := foldState permuteRound (List.range 24) a

/-- Bytes of a rate block. -/
def shakeRate : Nat := 136

/-- A rate block as 17 lanes of 8 bytes, followed by zeros for the capacity, is added to the state. -/
def addBlock (a : List W64) (bs : List Byte) : List W64 :=
  placed25 fun x y => laneOf5 a x y ^^^ (if x + 5 * y < 17 then BitVec.ofNat 64 (ofBytes ((bs.drop (8 * (x + 5 * y))).take 8)) else 0)

/-- The last block: what is left of the message, the domain and first padding bits 0x1F, zeros, and the padding's last bit. -/
def lastBlock (rest : List Byte) : List Byte :=
  let body := rest ++ 0x1F :: List.replicate (shakeRate - 1 - rest.length) 0
  body.set (shakeRate - 1) (body.getD (shakeRate - 1) 0 ||| 0x80)

/-- Absorb a message, block by block. -/
def shakeAbsorb (a : List W64) (bs : List Byte) : Nat → List W64
  | 0 => a
  | n + 1 =>
    if bs.length < shakeRate then permute1600 (addBlock a (lastBlock bs))
    else shakeAbsorb (permute1600 (addBlock a (bs.take shakeRate))) (bs.drop shakeRate) n

/-- The first n ≤ 136 bytes of SHAKE256. Log 16 (PRESUMED). -/
def shake256 (bs : List Byte) (n : Nat) : List Byte :=
  let a := shakeAbsorb (List.replicate 25 0) bs (bs.length / shakeRate + 1)
  (a.flatMap fun x => toBytes x.toNat 8).take n

end Sys2Proof.Machine
end

