-- ==== Sys2Proof/Machine/Freeze.lean ====
section
/-! DEFINITION. FREEZE and THAW (11 R271, R272; 07 R157 to R160), and the freeze accounting of a home die (19 R392, R409). -/

namespace Sys2Proof.Machine

def offFRZTABSTAT : Nat := 0x400008
def frzTableSize : Nat := 4096

/-! Accounting. -/

/-- Remove a granule from the entry of its region that holds it; an entry without granules is free. -/
def frzRemove (region bit : Nat) (es : List FrzEntry) : List FrzEntry :=
  (es.map fun (e : FrzEntry) => if e.region = region then { e with granules := e.granules &&& ~~~(1#32 <<< bit) } else e).filter
    fun e => e.granules ≠ 0 || e.collecting ≠ 0

/-- A granule takes its place in the entry of its region and scope; none when that needs an entry and the table is full. -/
def frzPlace (region bit scope : Nat) (es : List FrzEntry) : Option (List FrzEntry) :=
  if es.any fun e => e.region = region && e.scope = scope then
    some (es.map fun (e : FrzEntry) =>
      if e.region = region && e.scope = scope then { e with granules := e.granules ||| (1#32 <<< bit) } else e)
  else if es.length < frzTableSize then some (es ++ [⟨region, scope, 1#32 <<< bit, 0⟩])
  else none

/-- One more freeze of a granule at a scope: its replication scope is the widest of its outstanding freezes. -/
def frzWiden (region bit scope : Nat) (es : List FrzEntry) : Option (List FrzEntry) :=
  match es.find? fun e => e.region = region && e.granules.getLsbD bit with
  | none => frzPlace region bit scope es
  | some e => if scope ≤ e.scope then some es else frzPlace region bit scope (frzRemove region bit es)

/-- Dies that a mark notice of a scope reaches (19 R392). -/
def diesOf (scope d : Nat) : List Nat := if scope ≤ 2 then [d] else List.range Config.dies

/-- Set or clear the mark of a granule in a TLB entry that covers it. Log 71 (DEDUCED). -/
def TlbEntry.setMark (e : TlbEntry) (g : Nat) (on : Bool) : TlbEntry :=
  let base := ptePpn e.pte * 4096
  let put (n : Nat) : BitVec 32 := if on then e.marks ||| (1#32 <<< n) else e.marks &&& ~~~(1#32 <<< n)
  if e.level = 0 && base / granuleBytes = g then { e with marks := put 0 }
  else if e.level = 1 && base / 2097152 = g / 32 then { e with marks := put (g % 32) }
  else e

def State.setMarks (s : State) (ds : List Nat) (g : Nat) (on : Bool) : State :=
  let put (es : List TlbEntry) : List TlbEntry := es.map fun e => e.setMark g on
  let s1 := foldState (fun (t : State) d => t.modDie d fun x => { x with tlb := put x.tlb }) ds s
  { s1 with cores := s1.cores.map fun c => if ds.contains c.1.1 then (c.1, { c.2 with tlb := put c.2.tlb }) else c }

/-- A stash sector of a granule. -/
def inGranule (g : Nat) (x : StashSector) : Bool := x.pa / granuleBytes = g

/-- Stash sectors of a granule are written back and not present: their marks are taken again at the next fill (06 R127). Log 72 (DEDUCED). -/
def State.dropSectors (s : State) (g : Nat) : State := s.takeSectors fun _ x => inGranule g x

/-- The home of a granule may act, and the cores that hold its stash sectors. -/
def State.granuleAwake (s : State) (g : Nat) : Bool :=
  s.awake (homeDie (g * granuleBytes)) && s.cores.all fun c => s.awake c.1.1 || c.2.pages.all fun p => !p.sectors.any (inGranule g)

/-! Digests kept for frozen chunks (24 R466). -/

def chunkBytes : Nat := 2 ^ 20

/-- Every granule of a chunk is frozen. -/
def State.chunkFrozen (s : State) (n : Nat) : Bool :=
  (List.range 16).all fun i => s.frzCount (chunkBytes * n + granuleBytes * i) ≠ 0

/-- The digest of a chunk. -/
def State.chunkDigest (s : State) (n : Nat) : BitVec 256 :=
  BitVec.ofNat 256 (ofBytes (shake256 (s.home (chunkBytes * n) chunkBytes) 32))

/-- The home digests a chunk whose last granule has been frozen. -/
def State.keepDigest (s : State) (g : Nat) : State :=
  if s.chunkFrozen (g / 16) then
    let x := s.chunkDigest (g / 16)
    s.modDie (homeDie (g * granuleBytes)) fun y => { y with kept := insertKey y.kept (g / 16) x }
  else s

/-- Why a granule cannot be counted: it is being collected or its home cannot act yet, or a count or the table of a die would leave its
range. -/
inductive CountErr where
  | wait
  | bound (full : Option Nat)
  deriving DecidableEq, Repr

/-- The scope at which a granule is frozen. -/
def State.frzScope (s : State) (g : Nat) : Option Nat :=
  ((s.die (homeDie (g * granuleBytes))).frzTable.find? fun e => e.region = g / 32 && e.granules.getLsbD (g % 32)).map fun e => e.scope

/-- Count a freeze of a granule at its home, and mark it. An atomic that the home has taken goes first (11 R260). Log 72 (DEDUCED). -/
def State.freezeGranule (s : State) (d scope g : Nat) : Except CountErr State :=
  let pa := g * granuleBytes
  let h := homeDie pa
  if s.collecting pa || !s.granuleAwake g || s.atomics.any fun a => a.taken && a.reply.isNone && a.pa / granuleBytes = g then .error .wait
  else if s.frzCount pa = 255 then .error (.bound none)
  else match frzWiden (g / 32) (g % 32) scope (s.die h).frzTable with
    | none => .error (.bound (some h))
    | some es =>
      let n := s.frzCount pa + 1
      let s1 := (s.modDie h fun x => { x with frzTable := es }).setFrzCount pa n
      let s2 := (s1.setMarks (diesOf scope d) g true).dropSectors g
      .ok (if n = 1 then s2.keepDigest g else s2)

/-- The increment of a granule is undone (11 R271): it is frozen at the scope of before. Log 138 (DEDUCED). -/
def State.unfreezeGranule (s : State) (g : Nat) (was : Option Nat) : State :=
  let pa := g * granuleBytes
  let h := homeDie pa
  let s1 := s.setFrzCount pa (s.frzCount pa - 1)
  let es := frzRemove (g / 32) (g % 32) (s.die h).frzTable
  match was with
  | some sc => s1.modDie h fun x => { x with frzTable := (frzPlace (g / 32) (g % 32) sc es).getD x.frzTable }
  | none => ((s1.modDie h fun x => { x with frzTable := es, kept := removeKey x.kept (g / 16) }).setMarks (List.range Config.dies) g false).dropSectors g

/-- A lane's increments are undone, the last first. -/
def State.undoMarks (s : State) (counted : List (Nat × Option Nat)) : State :=
  foldState (fun (t : State) x => t.unfreezeGranule x.1 x.2) counted s

/-- The marking step of a lane: the granules counted, the last first, and those left where one cannot be counted. -/
def State.markGranules (s : State) (d scope : Nat) (counted : List (Nat × Option Nat)) :
    List Nat → State × (List (Nat × Option Nat) × List Nat) × Option CountErr
  | [] => (s, (counted, []), none)
  | g :: gs => match s.freezeGranule d scope g with
    | .error e => (s, (counted, g :: gs), some e)
    | .ok t => t.markGranules d scope ((g, s.frzScope g) :: counted) gs

/-- Move a granule whose count has reached 0 to the collecting ones. -/
def frzCollect (region bit : Nat) (es : List FrzEntry) : List FrzEntry :=
  es.map fun (e : FrzEntry) =>
    if e.region = region && e.granules.getLsbD bit then
      { e with granules := e.granules &&& ~~~(1#32 <<< bit), collecting := e.collecting ||| (1#32 <<< bit) }
    else e

/-- Count a thaw of granules; `got` lists those that reached 0. -/
def State.thawGranules (s : State) (got : List Nat) : List Nat → Option (List Nat × State)
  | [] => some (got, s)
  | g :: gs =>
    let pa := g * granuleBytes
    match s.frzCount pa with
    | 0 => none
    | 1 => ((s.setFrzCount pa 0).modDie (homeDie pa) fun x => { x with
        frzTable := frzCollect (g / 32) (g % 32) x.frzTable, kept := removeKey x.kept (g / 16) }).thawGranules (got ++ [g]) gs
    | n + 1 => (s.setFrzCount pa n).thawGranules got gs

/-- FRZ_TABSTAT of the dies: the most entries in use since reset. -/
def State.notePeaks (s : State) : State :=
  foldState (fun (t : State) d =>
    let n := (t.die d).frzTable.length
    let x := (t.dcr d offFRZTABSTAT).toNat
    if bits x 28 16 < n then t.setDcr d offFRZTABSTAT (BitVec.ofNat 64 (setBits x 28 16 n)) else t) (List.range Config.dies) s

/-- A FREEZE has found the table of a die full. -/
def State.noteFull (s : State) (d : Nat) : State :=
  s.setDcr d offFRZTABSTAT (s.dcr d offFRZTABSTAT ||| (1#64 <<< 63))

/-! Regions. -/

/-- Why a region cannot be frozen: a page faults, or lies in host memory, or a privileged address is refused. -/
inductive RegionErr where
  | fault (f : XFault) (va : Nat)
  | host
  | refused (va : Nat)
  deriving DecidableEq, Repr

def insertNum (x : Nat) : List Nat → List Nat
  | [] => [x]
  | y :: ys => if x < y then x :: y :: ys else if x = y then y :: ys else y :: insertNum x ys

def insertRun (a : Nat) (gs : List Nat) : Nat → List Nat
  | 0 => gs
  | n + 1 => insertNum (a + n) (insertRun a gs n)

/-- Translate every page of a region in increasing address: its granules in increasing physical address, each once. -/
def State.regionGranules (s : State) (k : CohKey) (gang va left : Nat) : Nat → Except RegionErr (List Nat) × State
  | 0 => (.ok [], s)
  | fuel + 1 =>
    if left = 0 then (.ok [], s)
    else match s.translate k.die k.core (BitVec.ofNat 64 va) .atomic with
      | (.error f, s1) => (.error (.fault f va), s1)
      | (.ok x, s1) =>
        if !isDevicePa x.pa then (.error .host, s1)
        else if s1.homeRefuses k.die gang x.pa then (.error (.fault ⟨6, 0, 0⟩ va), s1)
        else
          let n := min left (pageSize x.level - va % pageSize x.level)
          match s1.regionGranules k gang (va + n) (left - n) fuel with
          | (.ok gs, s2) =>
            let first := x.pa / granuleBytes
            (.ok (insertRun first gs ((x.pa + n - 1) / granuleBytes + 1 - first)), s2)
          | r => r

/-- The granules of a supervisor's region, which is physical (19 R388). -/
def State.physicalGranules (s : State) (d a len : Nat) : Except RegionErr (List Nat) :=
  if !s.physOk d a then .error (.refused a)
  else if a.testBit 55 then .error .host
  else if !s.physOk d (a + len - 1) then .error (.refused (s.memTop d))
  else .ok (insertRun (a / granuleBytes) [] (len / granuleBytes))

def State.granulesOf (s : State) (k : CohKey) (c : Cohort) (a len : Nat) : Except RegionErr (List Nat) × State :=
  if c.priv then (s.physicalGranules k.die a len, s) else s.regionGranules k c.gang a len (len / 4096 + 1)

/-! FREEZE and THAW. -/

def freezeMaxLen : Nat := 2 ^ 40

/-- The operands of a lane: base, length, completion word. -/
def frzArgs (thaw : Bool) (f : Form) (l : Lane) : W64 × Nat × W64 :=
  (l.regPair f.a.toNat, (l.regPair (f.bField (if thaw then .thaw else .freeze))).toNat, l.regPair f.c.toNat)

/-- A lane's counts are taken: its ticket, its entry in the list, and the operation in flight. -/
def State.startFreeze (s : State) (i : Issue) (c : Cohort) (f : Form) (thaw : Bool) (n : Nat) (granules : List Nat) : State :=
  let k := i.lane n
  let scope := f.rs.toNat
  let (ticket, s1) := s.takeTicket i.key c true
  let l := s1.laneAt i n
  let (base, len, word) := frzArgs thaw f l
  let before := (s1.writes.filter fun w => w.home && isDevicePa w.pa && granules.contains (w.pa / granuleBytes)).map fun w => w.id
  let j : Job := {
    id := s1.nextId, frz := true, key := k, fibre := l.fibre, pid := s.pid i.key.die, gang := c.gang, role := c.role
    member := c.member, ticket := ticket, word := word.toNat, pc := i.pc, thaw := thaw, scope := scope, granules := granules
    before := if thaw then [] else before, obs := l.obs.filter s1.inFlight }
  let put (l : Lane) : Lane :=
    { l.setPair f.d.toNat (BitVec.ofNat 64 ticket) with
      tickets := l.tickets ++ [⟨2, word.toNat % 2 ^ 57, BitVec.ofNat 64 ticket⟩] }
  let s2 := ({ s1 with jobs := s1.jobs ++ [j], nextId := s1.nextId + 1 }).modLane k put
  s2.almLane k (if thaw then 0x31 else 0x30) scope base (some (len % 2 ^ 41 + 2 ^ 41 * ticket))

/-- The marking step of a FREEZE lane, and its ticket (11 R271). It waits at a granule that cannot be counted yet, and for room in the
fibre's list, with the marks that it has made. Log 138 (DEDUCED). -/
def State.frzMark (s : State) (i : Issue) (c : Cohort) (f : Form) (n : Nat) (m : List (Nat × Option Nat) × List Nat) : State × LaneStart :=
  let (s1, m1, e) := s.markGranules i.key.die f.rs.toNat m.1 m.2
  match e with
  | some .wait => (s1.notePeaks, .stall (some m1))
  | some (.bound full) =>
    let s2 := s1.undoMarks m1.1
    (match full with
      | some h => s2.noteFull h
      | none => s2, .out (.eff (illegal i 5)))
  | none =>
    if ticketLimit ≤ (s1.laneAt i n).tickets.length then (s1.notePeaks, .stall (some m1))
    else (s1.notePeaks.startFreeze i c f false n (m1.1.reverse.map fun x => x.1), .started)

/-- The decrements of a THAW lane, as one step, and its ticket (11 R272). Log 138 (DEDUCED). -/
def State.thawTake (s : State) (i : Issue) (c : Cohort) (f : Form) (n : Nat) (gs : List Nat) : State × LaneStart :=
  if !gs.all s.granuleAwake || decide (ticketLimit ≤ (s.laneAt i n).tickets.length) then (s, .stall none)
  else match s.thawGranules [] gs with
    | none => (s, .out (.eff (illegal i 5)))
    | some (got, s1) => (s1.startFreeze i c f true n got, .started)

/-- After the checks of a lane: the release, then its counts. -/
def State.frzTake (s : State) (i : Issue) (c : Cohort) (f : Form) (thaw : Bool) (n : Nat) (gs : List Nat) : State × LaneStart :=
  let ps : List Path := if thaw then [.lsu] else [.lsu, .frz]
  if !s.fenceReady (i.lane n) f.rs.toNat ps then (s, .stall none)
  else match s.fenceLane i f.rs.toNat ps n with
    | (s1, some e) => (s1, .out (.eff e))
    | (s1, none) => if thaw then s1.thawTake i c f n gs else s1.frzMark i c f n ([], gs)

/-- One lane of FREEZE or THAW: the limits, the translations of the region and of word C, then its counts; or its marking step, which
goes on. Log 57 (DEDUCED). -/
def State.frzLane (s : State) (i : Issue) (c : Cohort) (f : Form) (thaw : Bool) (st : Stall) (n : Nat) : State × LaneStart :=
  let (base, len, word) := frzArgs thaw f (s.laneAt i n)
  match st.marks with
  | some m => s.frzMark i c f n m
  | none =>
    if len = 0 || len % granuleBytes ≠ 0 || freezeMaxLen < len then (s, .out (.eff (illegal i 6)))
    else if base.toNat % granuleBytes ≠ 0 then (s, .out (.eff (misalign i base granuleBytes)))
    else if word.toNat % 8 ≠ 0 then (s, .out (.eff (misalign i word 8)))
    else
      match s.granulesOf i.key c base.toNat len with
      | (.error (.fault x va), s1) => (s1, .fault (MemFault.of n x va))
      | (.error .host, s1) => (s1, .out (.eff (illegal i 6)))
      | (.error (.refused va), s1) => (s1, .out (.eff (refusedAt i va)))
      | (.ok gs, s1) =>
        match s1.wordOk (i.lane n) word with
        | (.fault x, s2) => (s2, .fault (MemFault.of n x word.toNat))
        | (.refused, s2) => (s2, .out (.eff (refusedAt i word.toNat)))
        | (.at _, s2) => s2.frzTake i c f thaw n gs

def frzIssue (o : Op) (instr : Instr) (thaw : Bool) (f : Form) : State → Host.Outcome State Fault Refusal :=
  stallIssue o instr f { acc := Acc.atomic.code, path := 4, waits := true, word := fun l => (frzArgs thaw f l).2.2.toNat
                         one := fun i c s st n => s.frzLane i c f thaw st n }

def execFreeze (f : Form) (s : State) : Host.Outcome State Fault Refusal := frzIssue .freeze (.freeze f) false f s
def execThaw (f : Form) (s : State) : Host.Outcome State Fault Refusal := frzIssue .thaw (.thaw f) true f s

/-! A stalled issue that is cut short. -/

/-- The lanes that started go on, the others stand at the instruction, and the marks of the lane that stalls are undone (11 R271). -/
def State.settleStall (s : State) (k : CohKey) : State :=
  match (s.cohort? k).bind fun c => c.stall with
  | none => s
  | some st =>
    let outs := st.started.map fun n => (n, LaneOut.go .seq)
    let i : Issue := { key := k, prio := st.prio, pc := st.pc, mask := maskOf st.started, age := 0, bytes := st.bytes, word := st.word }
    let u : RegUse := match st.instr.op with
      | some o => st.instr.form.use o
      | none => {}
    let s1 := (s.undoMarks (st.marks.getD ([], [])).1).modCohort k fun c => { c with stall := none }
    if outs.isEmpty then s1 else s1.finish i u outs

/-- A stall at which boundary effects are delivered: that of a FREEZE or THAW (11 R271), not of a copy (R265). -/
def Stall.yields (st : Stall) : Bool := match st.instr with
  | .freeze _ | .thaw _ => true
  | _ => false

/-! Completion. -/

/-- FREEZE completes when the writes before its mark are applied throughout its scope; then its word is written. -/
def State.freezeStep (s : State) (j : Job) : State :=
  if j.complete then s.writeWord j
  else if s.writes.all fun w => !j.before.contains w.id || w.performedAt j.scope j.key.coh then
    (s.modJob { j with complete := true }).pruneTicket j
  else s

def execFreezeComplete (id : Nat) (s : State) : Host.Outcome State Fault Refusal :=
  match s.jobs.find? fun j => j.id = id && j.frz && !j.thaw && !j.waiting with
  | some j => .next (if s.awake j.key.coh.die then s.freezeStep j else s)
  | none => .next s

/-- The collect of a granule ends: its marks clear, and its entry is free once it holds nothing. Log 71 (DEDUCED). -/
def State.endCollect (s : State) (g : Nat) : State :=
  let clear (e : FrzEntry) : FrzEntry :=
    if e.region = g / 32 then { e with collecting := e.collecting &&& ~~~(1#32 <<< (g % 32)) } else e
  let s1 := s.modDie (homeDie (g * granuleBytes)) fun x =>
    { x with frzTable := (x.frzTable.map clear).filter fun e => e.granules ≠ 0 || e.collecting ≠ 0 }
  (s1.setMarks (List.range Config.dies) g false).dropSectors g

def State.thawStep (s : State) (j : Job) : State :=
  if j.complete then s.writeWord j
  else (((foldState State.endCollect j.granules s).modJob { j with complete := true })).pruneTicket j

def execThawCollectComplete (id : Nat) (s : State) : Host.Outcome State Fault Refusal :=
  match s.jobs.find? fun j => j.id = id && j.frz && j.thaw && !j.waiting with
  | some j => .next (if s.awake j.key.coh.die && j.granules.all s.granuleAwake then (s.thawStep j).pumpHost else s)
  | none => .next s

end Sys2Proof.Machine
end

