-- ==== Sys2Proof/Machine/Queue.lean ====
section
/-! DEFINITION. Queues (06 R131, R132; 11 R274 to R276): descriptors, stamps, QPUSH, QPOP with its requests, QTRY. -/

namespace Sys2Proof.Machine


/-! Descriptors and entries. -/

/-- A queue descriptor, with its location. -/
structure Queue where
  pa : Nat
  head : Nat
  tail : Nat
  base : Nat
  logcap : Nat
  scope : Nat
  deriving DecidableEq, Repr

def Queue.decode (pa x : Nat) : Queue := ⟨pa, bits x 191 128, bits x 127 64, 64 * bits x 63 13, bits x 12 8, bits x 7 5⟩

/-- A descriptor that obeys 06 R131. -/
def queueOk (x : Nat) : Bool :=
  bits x 511 192 = 0 && bits x 4 0 = 0 && decide (1 ≤ bits x 12 8) && decide (bits x 12 8 ≤ 16) && decide (bits x 7 5 ≤ 3)

def Queue.slot (q : Queue) (i : Nat) : Nat := (q.base + 64 * (i % 2 ^ q.logcap)) % 2 ^ 57
def Queue.empty (q : Queue) : Bool := q.head = q.tail
def Queue.full (q : Queue) : Bool := (q.tail + 2 ^ 64 - q.head) % 2 ^ 64 = 2 ^ q.logcap

def State.queueAt (s : State) (pa : Nat) : Queue := .decode pa (s.homeNat pa 64)

/-- A stamp (06 R131). -/
def stampOf (k : LaneKey) (wic : W32) (pkg : Nat) : Nat :=
  1 + 2 * (pkg % 512) + 2 ^ 12 * k.lane + 2 ^ 18 * k.coh.slot + 2 ^ 22 * k.coh.core + 2 ^ 28 * k.coh.die + 2 ^ 32 * wic.toNat

def stampKey (x : Nat) : LaneKey := ⟨⟨bits x 31 28, bits x 27 22, bits x 21 18⟩, bits x 17 12⟩

/-- Package number within its pod. -/
def State.pkgOf (s : State) (d : Nat) : Nat := s.dcrBits d offPKGID 8 0

/-- The queue engine writes at a home: at once, for every observer. Log 31 (DESIGN CHOICE). -/
def State.queueWrite (s : State) (k : LaneKey) (pa : Nat) (bs : List Byte) : State := (s.storeAs k pa bs).touchPages pa k.coh none

/-- A queue whose descriptor or entry lies in a frozen or collecting granule cannot be changed. Log 65 (DEDUCED). -/
def State.queueStuck (s : State) (pa : Nat) : Bool := s.keepsImage pa

/-- A global address that the queue engine reaches for a lane: a page with a side-log entry of its fibre holds it (07 R161). -/
def State.reachFor (s : State) (k : LaneKey) (va : W64) : Reached × State :=
  let c := s.heapCtx k
  match if c.priv || !canonical va then none else s.loggedFor k va.toNat with
  | some e => (.fault e.xfault, s)
  | none =>
    match s.reach k.coh.die k.coh.core c.priv va .atomic with
    | (.at x, s1) => (if s1.homeRefuses k.coh.die c.gang x.pa then .fault ⟨6, 0, 0⟩ else .at x, s1)
    | r => r

/-! Taking an entry. -/

/-- The writes of a stamped slot that were made before its push (06 R132). -/
def State.stampedWrites (s : State) (prod : LaneKey) (wic : W32) : List Nat :=
  let before (w : W32) : Bool := (wic - w).toNat < 2 ^ 31
  ((s.writes.filter fun w => w.path = .lsu && w.src.coh = prod.coh
      && ((w.src.lane = prod.lane && before w.wic) || w.also.any fun x => x.1 = prod.lane)).map fun w => w.id)
    ++ (s.atomics.filter fun a => a.src = prod && before a.wic).map fun a => a.id

/-- A lane takes the entry at HEAD, which lies at `pa`: its pending result is number `id`. -/
def State.takeQueue (s : State) (k : LaneKey) (q : Queue) (pa id first pc : Nat) (va : W64) (pred : Option Nat) : State :=
  let stamp := s.homeNat (pa + 56) 8
  let words := wordsOf (s.homeNat pa 56) 14
  let bad := s.badAt pa 64
  let s1 := s.queueWrite k (q.pa + 16) (toBytes (q.head + 1) 8)
  let s2 := s1.queueWrite k (pa + 56) (toBytes (stamp / 2 * 2) 8)
  if bad then ((s2.modLane k fun l => l.unpend id).addLate k (memErr va.toNat pc first 14 none)).eccRecord k pa
  else
    let near := bits stamp 9 1 = s.pkgOf k.coh.die % 512
    let prod := stampKey stamp
    let wic := BitVec.ofNat 32 (bits stamp 63 32)
    let w : QWait := { id := id, key := k, words := words, waits := if near then s.stampedWrites prod wic else [], stampWic := wic
                       prod := prod, scope := q.scope, pred := pred, near := near }
    { s2 with qwaits := s2.qwaits ++ [w] }

/-- A translation fault of the queue engine for a lane, outside an issue: the lane is held where it stands, with the mapping of its
destination (04 R80). Log 57 (DEDUCED). -/
def State.holdAt (s : State) (k : LaneKey) (l : Lane) (first : Nat) (f : XFault) (va : W64) : State :=
  let i : Issue := { key := k.coh, prio := l.prio, pc := l.pc, mask := 1#64 <<< k.lane, age := 0, bytes := 4, word := 0 }
  let (id, s1) := s.holdLanes i [k.lane] f Acc.atomic.code 3 va false
  let drop (x : Lane) : Lane := match x.arrival.bind fun a => a.pend with
    | some p => x.unissue p
    | none => x
  s1.modLane k fun x => { drop x with status := .held id, arrival := none, lastReads := [], keeps := (List.range 14).map (first + ·) }

def State.dropReq (s : State) (k : LaneKey) : State := { s with qreqs := s.qreqs.filter fun r => r.key ≠ k }

/-- A supervisor's waiting QPOP whose ring entry is refused traps (17 R355). -/
def State.refuseReq (s : State) (k : LaneKey) (l : Lane) (va : W64) : State :=
  s.deliver k { memErr va.toNat l.pc 0 0 (some l.pc) with k3 := hwDetail 256 }

/-- Give entries of a queue to its requests, the oldest first, until it is empty, or the first request is held, or its die is stopped. -/
def State.serveQueue (s : State) (pa : Nat) : Nat → State
  | 0 => s
  | fuel + 1 =>
    match s.qreqs.find? fun r => r.desc = pa with
    | none => s
    | some r =>
      let q := s.queueAt pa
      match s.lane? r.key with
      | none => (s.dropReq r.key).serveQueue pa fuel
      | some l =>
        match l.status, l.arrival.bind fun a => a.pend with
        | .parked 1 va, some id =>
          let at_ := va57 (q.slot q.head)
          if q.empty || s.queueStuck pa || !s.awake r.key.coh.die then s
          else
            match s.reachFor r.key at_ with
            | (.fault f, s1) => s1.holdAt r.key l r.first f at_
            | (.refused, s1) => s1.refuseReq r.key l at_
            | (.at x, s1) =>
              if s1.queueStuck x.pa || !s1.homeAwake x.pa r.key.coh none false then s1
              else ((((s1.dropReq r.key).passLane r.key).takeQueue r.key q x.pa id r.first l.pc va none).serveQueue pa fuel)
        | _, _ => s

/-! The checks that every queue instruction makes. -/

/-- What a lane finds at its descriptor. -/
inductive QueueAt where
  | out (o : LaneOut)
  | fault (x : MemFault)
  | at (q : Queue)
  deriving DecidableEq, Repr

/-- Alignment, translation, and the fields of a descriptor (11 R274). -/
def State.findQueue (s : State) (i : Issue) (n : Nat) (va : W64) (first count : Nat) : QueueAt × State :=
  let k := i.lane n
  if va.toNat % 64 ≠ 0 then (.out (.eff (misalign i va 64)), s)
  else
    match s.reachFor k va with
    | (.fault f, s1) => (.fault (MemFault.of n f va.toNat), s1)
    | (.refused, s1) => (.out (.eff (refusedAt i va.toNat)), s1)
    | (.at x, s1) =>
      if s1.badAt x.pa 64 then (.out (.go .seq), (s1.addLate k (memErr va.toNat i.pc first count none)).eccRecord k x.pa)
      else if !queueOk (s1.homeNat x.pa 64) then (.out (.eff (illegal i 6)), s1)
      else (.at (s1.queueAt x.pa), s1)

/-- A lane's operation has to wait: a write that its fibre has observed is not applied at every core (07 R142), or the die of the
descriptor or of the ring entry at `slot` is stopped (15 R341). -/
def State.queueStall (s : State) (i : Issue) (va : W64) (slot : Queue → Nat) (n : Nat) : Bool :=
  let k := i.lane n
  let asleep (x : Reached × State) : Bool := match x.1 with
    | .at y => !s.homeAwake y.pa k.coh none false
    | _ => false
  (s.writes.any fun w => (s.observed k).contains w.id && !w.performedAt 3 k.coh)
    || asleep (s.reachFor k va)
    || match s.findQueue i n va 0 0 with
      | (.at q, s1) => asleep (s1.reachFor k (va57 (slot q)))
      | _ => false

/-- A queue instruction: it stalls, or its executing lanes act one after another. -/
def execQueue (o : Op) (f : Form) (s : State) (waits : Bool) (slot : Queue → Nat)
    (one : Issue → State → Nat → State × Except MemFault LaneOut) : Host.Outcome State Fault Refusal :=
  withIssue s fun i t =>
    let va (n : Nat) : W64 := (t.laneAt i n).regPair f.a.toNat
    if !t.mustWait i f.guard (f.use o) && (t.executing i f.guard).any fun n => t.queueStall i (va n) slot n then t
    else t.issueWith i f.guard (f.use o) (runHolding i Acc.atomic.code 3 waits (one i))

/-! QPUSH (11 R274). -/

def State.pushQueue (s : State) (i : Issue) (f : Form) (n : Nat) (q : Queue) : State × Except MemFault LaneOut :=
  let k := i.lane n
  let l := s.laneAt i n
  let at_ := va57 (q.slot q.tail)
  let answer (t : State) (b : Bool) : State × Except MemFault LaneOut := (t.modLane k fun x => x.setPred f.d.toNat b, .ok (.go .seq))
  if q.full || s.queueStuck q.pa then answer s false
  else
    match s.reachFor k at_ with
    | (.fault x, s1) => (s1, .error (MemFault.of n x at_.toNat))
    | (.refused, s1) => (s1, .ok (.eff (refusedAt i at_.toNat)))
    | (.at x, s1) =>
      if bit (s1.homeNat (x.pa + 56) 8) 0 || s1.queueStuck x.pa then answer s1 false
      else
        let b := f.bField .qpush
        let payload := (List.range 14).flatMap fun j => toBytes (l.reg (b + j)).toNat 4
        let stamp := toBytes (stampOf k l.wic (s1.pkgOf k.coh.die)) 8
        let s2 := s1.queueWrite k x.pa (payload ++ stamp)
        let s3 := s2.queueWrite k (q.pa + 8) (toBytes (q.tail + 1) 8)
        answer (s3.serveQueue q.pa (s3.qreqs.length + 1)) true

/-- What follows a lane's checks of its descriptor. -/
def atQueue (r : QueueAt × State) (use : Queue → State → State × Except MemFault LaneOut) : State × Except MemFault LaneOut :=
  match r with
  | (.out o, t) => (t, .ok o)
  | (.fault x, t) => (t, .error x)
  | (.at q, t) => use q t

/-- A lane held by a fault waits for word C after a long reply (19 R393; 11 R274 has PFAULT). Log 153 (DEDUCED). -/
def execQpush (f : Form) (s : State) : Host.Outcome State Fault Refusal :=
  execQueue .qpush f s true (fun q => q.slot q.tail) fun i t n =>
    atQueue (t.findQueue i n ((t.laneAt i n).regPair f.a.toNat) 0 0) fun q t1 => t1.pushQueue i f n q

/-! QPOP and QTRY (11 R275, R276). -/

/-- A lane leaves a request and parks; its destination is pending. -/
def State.queueWait (s : State) (i : Issue) (f : Form) (n : Nat) (q : Queue) (va : W64) : State × LaneOut :=
  let k := i.lane n
  let id := s.nextId
  let a : Arrival := { op := .qpop, form := f, bytes := i.bytes, word := i.word, guard := true, a := va, b := 0, mode := 0, pend := some id }
  let reqs := if s.qreqs.any fun r => r.key = k then s.qreqs else s.qreqs ++ [⟨k, q.pa, f.d.toNat⟩]
  let put (l : Lane) : Lane := { l.addPend id f.d.toNat 14 0 with arrival := some a }
  (({ s with nextId := id + 1, qreqs := reqs }).modLane k put, .park 1 va)

/-- Whether the entries of a queue are owed to another lane's request. -/
def State.owedElsewhere (s : State) (k : LaneKey) (pa : Nat) : Bool :=
  match s.qreqs.find? fun r => r.desc = pa with
  | some r => r.key ≠ k
  | none => false

/-- A lane pops; `pred` is the predicate of QTRY, which does not wait: with nothing to take it leaves D unwritten, so that a last read of a
register in D takes effect (04 R81). Log 65 (DEDUCED). -/
def State.popQueue (s : State) (i : Issue) (f : Form) (n : Nat) (pred : Option Nat) (va : W64) (q : Queue) :
    State × Except MemFault LaneOut :=
  let k := i.lane n
  let at_ := va57 (q.slot q.head)
  let u := f.use .qtry
  let without (t : State) : State × Except MemFault LaneOut := match pred with
    | some p => (t.modLane k fun l => (l.setPred p false).lastReadAll (u.last.filter u.writes.contains), .ok (.go .seq))
    | none =>
      let r := t.queueWait i f n q va
      (r.1, .ok r.2)
  if q.empty || s.owedElsewhere k q.pa || s.queueStuck q.pa then without s
  else
    match s.reachFor k at_ with
    | (.fault x, s1) => (s1, .error (MemFault.of n x at_.toNat))
    | (.refused, s1) => (s1, .ok (.eff (refusedAt i at_.toNat)))
    | (.at x, s1) =>
      if s1.queueStuck x.pa then without s1
      else
        let id := s1.nextId
        let s2 := ({ s1 with nextId := id + 1 }.dropReq k).modLane k fun l => l.addPend id f.d.toNat 14 f.la
        (s2.takeQueue k q x.pa id f.d.toNat i.pc va pred, .ok (.go .seq))

def popLane (f : Form) (pred : Option Nat) (i : Issue) (s : State) (n : Nat) : State × Except MemFault LaneOut :=
  let va := (s.laneAt i n).regPair f.a.toNat
  atQueue (s.findQueue i n va f.d.toNat 14) fun q t => t.popQueue i f n pred va q

def execQpop (f : Form) (s : State) : Host.Outcome State Fault Refusal := execQueue .qpop f s false (fun q => q.slot q.head) (popLane f none)
def execQtry (f : Form) (s : State) : Host.Outcome State Fault Refusal :=
  execQueue .qtry f s false (fun q => q.slot q.head) (popLane f (some f.c.toNat))

/-- QPOP_COMPLETE: a taken entry of the lane returns once it may; a lane whose request is first takes an entry that is there. -/
def execQpopComplete (l : LaneKey) (s : State) : Host.Outcome State Fault Refusal :=
  if !s.awake l.coh.die then .next s
  else
    match s.qwaits.find? fun q => q.key = l with
    | some q => .next (if s.qwaitDue q then s.landQueue q else s)
    | none =>
      match s.qreqs.find? fun r => r.key = l with
      | some r => .next (if s.homeAwake r.desc l.coh none false then s.serveQueue r.desc (s.qreqs.length + 1) else s)
      | none => .next s

end Sys2Proof.Machine
end

