-- ==== Sys2Proof/Machine/Scratch.lean ====
section
/-! DEFINITION. PIN, UNPIN, STASH, UNSTASH and SWB (11 R268 to R270; 06 R123 to R127), AMARK (11 R277), and the engine steps on
scratch pages: refill and eviction, fill and recall of stash sectors. -/

namespace Sys2Proof.Machine

/-! Pages. -/

def State.modPage (s : State) (d c id : Nat) (f : ScratchPage → ScratchPage) : State := s.modCore d c fun x => x.modPage id f

/-- Writes through a stash page of a core whose sectors they change. -/
def State.stashWrites (s : State) (c : Nat × Nat) (p : ScratchPage) : List Write :=
  s.writes.filter fun w => w.stash = some c && p.sectors.any fun x => overlap w.pa w.size x.pa 128

/-- Where the dirty sectors of a page lie: those of a stash page at their global locations. -/
def ScratchPage.dirtyLocs (p : ScratchPage) : List Nat :=
  if p.stash.isSome then (p.sectors.filter fun x => x.dirty).map fun x => x.pa else p.dirty.map fun n => scratchLoc p.id (128 * n)

/-- A dirty sector that cannot be written back (06 R134). -/
def State.dirtyBad (s : State) (p : ScratchPage) : Option Nat := p.dirtyLocs.find? fun a => s.badAt a 128

/-- The homes of a page's dirty sectors may act. -/
def State.homesAwake (s : State) (c : Nat × Nat) (p : ScratchPage) : Bool :=
  s.awake c.1 && p.dirtyLocs.all fun a => !isDevicePa a || s.awake (homeDie a)

/-- Dirty sectors of a page are written back by a fibre: what its writes left in flight, whichever path made them, are its LSU writes
from now on (11 R270). -/
def State.writeBack (s : State) (k : LaneKey) (p : ScratchPage) : State :=
  let ids := (s.stashWrites (k.coh.die, k.coh.core) p).map fun w => w.id
  (s.modLane k fun l => { l with backs := l.backs.filter s.inFlight ++ ids }).modPage k.coh.die k.coh.core p.id fun x =>
    { x with sectors := x.sectors.map fun y => { y with dirty := false } }

/-- The page is plain scratch again, and reads 0. -/
def State.unstash (s : State) (k : LaneKey) (p : ScratchPage) : State :=
  ((s.writeBack k p).clearPage p.id).modPage k.coh.die k.coh.core p.id fun x =>
    { x with stash := none, sectors := [], dirty := [], absent := [] }

/-! The instructions act once per issue, for the lowest executing lane. -/

/-- What one action of an issue comes to: it waits, or its lanes take an outcome. -/
inductive Once where
  | wait
  | done (s : State) (o : LaneOut)
  deriving DecidableEq, Repr

/-- A fatal access of a lane (06 R117). -/
def State.fatalOnce (s : State) (i : Issue) (n : Nat) : Once := .done (s.abortFatal (i.lane n) i.pc) .off

def execOnce (o : Op) (f : Form) (s : State) (g : Issue → Cohort → Nat → State → Once) : Host.Outcome State Fault Refusal :=
  withIssue s fun i t =>
    let ex := t.executing i f.guard
    match t.cohort? i.key, ex with
    | some c, n :: _ =>
      if t.mustWait i f.guard (f.use o) then t
      else match g i c n t with
        | .wait => t
        | .done t1 out => t1.finish i (f.use o) (allOut ex out)
    | _, _ => t.finish i (f.use o) []

/-- The page of an address in the group of a cohort. -/
def State.pageFor (s : State) (i : Issue) (c : Cohort) (va : Nat) : Option ScratchPage :=
  s.scratchPage i.key.die i.key.core c.gang c.role c.member va

def State.baseAddr (s : State) (i : Issue) (f : Form) (n : Nat) : Nat := (s.laneAt i n).nat32 f.a.toNat

/-- The consecutive pages that PIN and UNPIN name; none when one lies outside the grant. -/
def State.pagesFrom (s : State) (i : Issue) (c : Cohort) (va : Nat) : Nat → Option (List ScratchPage)
  | 0 => some []
  | n + 1 => match s.pageFor i c va, s.pagesFrom i c (va + pageBytes) n with
    | some p, some ps => some (p :: ps)
    | _, _ => none

def pinWith (o : Op) (g : ScratchPage → ScratchPage) (f : Form) (s : State) : Host.Outcome State Fault Refusal :=
  execOnce o f s fun i c n t =>
    match t.pagesFrom i c (t.baseAddr i f n) (f.w2.toNat % 64 + 1) with
    | none => t.fatalOnce i n
    | some ps => .done (foldState (fun (u : State) (p : ScratchPage) => u.modPage i.key.die i.key.core p.id g) ps t) (.go .seq)

def execPin (f : Form) (s : State) : Host.Outcome State Fault Refusal :=
  pinWith .pin (fun p => { p.touchPhysical with pinned := true }) f s
def execUnpin (f : Form) (s : State) : Host.Outcome State Fault Refusal := pinWith .unpin (fun p => { p with pinned := false }) f s

/-- Run an action once the write-backs of a stash page are applied at their homes; an uncorrectable dirty sector aborts the gang. -/
def State.afterWriteBack (s : State) (i : Issue) (p : ScratchPage) (go : State) : Once :=
  let c := (i.key.die, i.key.core)
  if p.stash.isNone then .done s (.go .seq)
  else if !s.homesAwake c p || (s.stashWrites c p).any fun w => !w.home then .wait
  else match s.dirtyBad p with
    | some pa => .done (s.writeBackFails c.1 c.2 p.gang pa) .off
    | none => .done go (.go .seq)

def execSwb (f : Form) (s : State) : Host.Outcome State Fault Refusal :=
  execOnce .swb f s fun i c n t =>
    match t.pageFor i c (t.baseAddr i f n) with
    | none => t.fatalOnce i n
    | some p => t.afterWriteBack i p (t.writeBack (i.lane n) p)

def execUnstash (f : Form) (s : State) : Host.Outcome State Fault Refusal :=
  execOnce .unstash f s fun i c n t =>
    match t.pageFor i c (t.baseAddr i f n) with
    | none => t.fatalOnce i n
    | some p => t.afterWriteBack i p (t.unstash (i.lane n) p)

/-- Whether some granule that the range of a page translates into is thawing (06 R127); a supervisor's range is physical. -/
def State.rangeThaws (s : State) (d : Nat) (priv : Bool) (va : Nat) : Bool :=
  (List.range 4).any fun j =>
    if priv then s.collecting (va + 4096 * j)
    else match s.walk d (BitVec.ofNat 64 (va + 4096 * j)) .stashFill with
      | .ok w => s.collecting w.xlt.pa
      | .error _ => false

/-- The page holds a mapping, and no sector. -/
def State.mapStash (s : State) (k : LaneKey) (p : ScratchPage) (g : Nat) : State :=
  (s.clearPage p.id).modPage k.coh.die k.coh.core p.id fun x =>
    { x.touchPhysical with stash := some (g % 2 ^ 57), sectors := [], dirty := [], absent := [] }

def execStash (f : Form) (s : State) : Host.Outcome State Fault Refusal :=
  execOnce .stash f s fun i c n t =>
    let g := (t.laneAt i n).regPair (f.bField .stash)
    if g.toNat % pageBytes ≠ 0 then .done t (.eff (misalign i g pageBytes))
    else match t.pageFor i c (t.baseAddr i f n) with
      | none => t.fatalOnce i n
      | some p =>
        if t.rangeThaws i.key.die c.priv g.toNat then .wait
        else if p.stash.isNone then .done (t.mapStash (i.lane n) p g.toNat) (.go .seq)
        else t.afterWriteBack i p ((t.unstash (i.lane n) p).mapStash (i.lane n) p g.toNat)

/-- AMARK (11 R277). -/
def execAmark (f : Form) (s : State) : Host.Outcome State Fault Refusal :=
  withIssue s fun i t =>
    if t.mustWait i f.guard (f.use .amark) then t
    else
      let ex := t.executing i f.guard
      let t1 := match ex with
        | n :: _ => t.almLane (i.lane n) 0x52 0 (maskOf ex) (some ((t.laneAt i n).nat32 f.a.toNat + 2 ^ 32 * (i.pc % 2 ^ 57)))
        | [] => t
      t1.finish i (f.use .amark) (allOut ex (.go .seq))

/-! Engine steps (06 R123, R125). A page is named by the number of its contents. -/

def State.findPage (s : State) (id : Nat) : Option ((Nat × Nat) × ScratchPage) :=
  s.cores.findSome? fun c => (c.2.pages.find? fun p => p.id = id).map fun p => (c.1, p)

/-- STASH_FILL: a sector of a stash page is filled ahead of its touch (11 R268). A fault is left to the touching access. -/
def execStashFill (page sector : Nat) (s : State) : Host.Outcome State Fault Refusal :=
  match s.findPage page with
  | some (c, p) =>
    if p.stash.isSome && decide (sector < 128) && s.awake c.1 then
      match s.touchSector c.1 c.2 p sector with
      | (.ok _, s1) => .next s1
      | (.error _, _) => .next s
    else .next s
  | none => .next s

/-- STASH_RECALL: the home takes a sector back: it is written back and not present. -/
def execStashRecall (page sector : Nat) (s : State) : Host.Outcome State Fault Refusal :=
  match s.findPage page with
  | some (c, p) =>
    match p.sectors.find? fun x => x.idx = sector with
    | none => .next s
    | some x =>
      if !s.homesAwake c p || s.writes.any fun w => w.stash = some c && !w.home && overlap w.pa w.size x.pa 128 then .next s
      else .next (s.takeSectors fun c' y => c' = c && y.pa = x.pa)
  | none => .next s

/-- SCRATCH_EVICT: an unpinned page gives up its physical page; its contents move, and its sectors are written back. -/
def execScratchEvict (page : Nat) (s : State) : Host.Outcome State Fault Refusal :=
  match s.findPage page with
  | some (c, p) =>
    if !s.homesAwake c p || !p.physical || p.pinned || (s.core c.1 c.2).covers p || (s.stashWrites c p).any fun w => !w.home then .next s
    else match s.dirtyBad p with
      | some pa => .next (s.writeBackFails c.1 c.2 p.gang pa)
      | none => .next (s.modPage c.1 c.2 page fun q => { q with physical := false, sectors := [], dirty := [], absent := [] })
  | none => .next s

/-- SCRATCH_REFILL: a sector of a page that PIN or a touch brought back is present again. -/
def execScratchRefill (page sector : Nat) (s : State) : Host.Outcome State Fault Refusal :=
  match s.findPage page with
  | some (c, p) =>
    if s.awake c.1 && p.physical then
      .next (s.modPage c.1 c.2 page fun q => { q with absent := q.absent.filter fun x => x ≠ sector })
    else .next s
  | none => .next s

end Sys2Proof.Machine
end

