-- ==== Sys2Proof/Machine/Matrix.lean ====
section
/-! DEFINITION. The matrix instructions (12 R280 to R306): the tensor table, arrival of an octet, MWAIT, and the steps of an
operation that executes. -/

namespace Sys2Proof.Machine

/-! The tensor table. -/

/-- The cores that a gang uses (18 R380): those of its group binding table, those that hold a cohort of it (18 R383), and the issuing core. -/
def State.gangCores (s : State) (k : CohKey) (gang : Nat) : List (Nat × Nat) :=
  let bound := match s.gangOf k with
    | some g => (g.table.filter fun e => e.getLsbD 63).map fun e =>
      let b := bits e.toNat 63 32
      (bits b 18 15, bits b 14 9)
    | none => []
  let held := (s.cohorts.filter fun x => x.2.gang = gang && !x.2.priv && s.pid x.1.die = s.pid k.die).map fun x => (x.1.die, x.1.core)
  dedup ((k.die, k.core) :: bound ++ held)

/-- Replace an entry of a gang's tensor tables; 0 makes it undefined. -/
def State.setTensor (s : State) (k : CohKey) (gang id desc : Nat) : State :=
  let set (c : Core) : Core :=
    let rest := c.tensors.filter fun t => !(t.gang = gang && t.id = id)
    { c with tensors := if desc = 0 then rest else rest ++ [⟨gang, id, desc⟩] }
  foldState (fun (t : State) c => t.modCore c.1 c.2 set) (s.gangCores k gang) s

/-- TDEF (12 R289): the descriptor is read for the lowest executing lane. -/
def execTdef (f : Form) (s : State) : Host.Outcome State Fault Refusal :=
  withIssue s fun i t =>
    let u := f.use .tdef
    let ex := t.executing i f.guard
    match t.cohort? i.key, ex with
    | some c, lead :: _ =>
      let ea := memAddr f (t.laneAt i lead)
      if t.mustWait i f.guard u then t
      else match t.watchHit i false (if f.xm then ex.map fun n => (n, ea, 64) else []) with
        | .none =>
          if t.scoreStall i.key (spaceOf f) ea.toNat 64 false then t
          else if ea.toNat % 64 ≠ 0 then t.finish i u (allOut ex (.eff (misalign i ea 64)))
          else match t.readNow (i.lane lead) (spaceOf f) ea 64 with
            | (.wait, _) => t
            | (.bytes bs seen, t1) =>
              if !tensorOk (ofBytes bs) then t1.finish i u (allOut ex (.eff (illegal i 6)))
              else (((t1.noteAccess [i.lane lead]).observe (i.lane lead) seen).setTensor i.key c.gang f.d.toNat (ofBytes bs)).finish i u (allOut ex (.go .seq))
            | (x, t1) =>
              let (t2, outs) := t1.readFails i ex 0 0 x
              t2.finish i u outs
        | hit => t.takeHit i hit
    | _, _ => t.finish i u []

/-- TQRY (12 R290). -/
def execTqry (f : Form) (s : State) : Host.Outcome State Fault Refusal :=
  execLanes .tqry f s fun i t n =>
    let gang := t.gangNo i.key
    (t.modLane (i.lane n) fun l => l.setPair f.d.toNat (BitVec.ofNat 64 (t.tensor i.key gang f.a.toNat)), .go .seq)

/-- TREL (12 R290). -/
def execTrel (f : Form) (s : State) : Host.Outcome State Fault Refusal :=
  withIssue s fun i t =>
    let ex := t.executing i f.guard
    match t.cohort? i.key, ex with
    | some c, _ :: _ => (t.setTensor i.key c.gang f.d.toNat 0).finish i {} (allOut ex (.go .seq))
    | _, _ => t.finish i {} []

/-! Octet operations (12 R287): the octet's lanes arrive. -/

def execMzero (f : Form) (s : State) : Host.Outcome State Fault Refusal := execConverge .mzero f s
def execMma (f : Form) (s : State) : Host.Outcome State Fault Refusal := execConverge .mma f s
def execMms (f : Form) (s : State) : Host.Outcome State Fault Refusal := execConverge .mms f s
def execMmf (f : Form) (s : State) : Host.Outcome State Fault Refusal := execConverge .mmf f s
def execQuant (f : Form) (s : State) : Host.Outcome State Fault Refusal := execConverge .quant f s
def execDeq (f : Form) (s : State) : Host.Outcome State Fault Refusal := execConverge .deq f s
def execSpz (f : Form) (s : State) : Host.Outcome State Fault Refusal := execConverge .spz f s

/-- What a parked lane keeps of its instruction for the wake. -/
def parkNote (i : Issue) (o : Op) (f : Form) (a : W64) : Arrival :=
  { op := o, form := f, bytes := i.bytes, word := i.word, guard := true, a := a, b := 0, mode := 0 }

/-- MWAIT (12 R301). -/
def execMwait (f : Form) (s : State) : Host.Outcome State Fault Refusal :=
  execLanes .mwait f s fun i t n =>
    if (t.opsOf (i.lane n)).isEmpty then (t.observe (i.lane n) (t.matrixWrites (i.lane n)), .go .seq)
    else (t.modLane (i.lane n) fun l => { l with arrival := some (parkNote i .mwait f 0) }, .park 5 0)

/-! Execution. -/

/-- A lane whose operation raised an effect leaves the frontier for it; late ones wait (12 R300), but for a lane whose capture waits for
the operation (12 R297). -/
def State.raiseOp (s : State) (k : CohKey) (targets : List Nat) (e : Effect) : State :=
  let capturing (n : Nat) : Bool := match (s.lane? ⟨k, n⟩).map fun l => l.status with
    | some (LaneStatus.capturing _ _) => true
    | _ => false
  let now := targets.filter fun n => e.cls ≠ .late || capturing n
  let later := targets.filter fun n => !now.contains n
  (foldState (fun (t : State) n => t.addLate ⟨k, n⟩ e) later s).deliverAll (now.map fun n => s.due ⟨k, n⟩ e)

/-- One k-step or tile of an operation, and what it raises. -/
def State.advanceOp (s : State) (id : Nat) : State :=
  match s.matOps.find? fun x => x.id = id with
  | none => s
  | some op =>
    let targets := s.opTargets op
    match s.opStep op with
    | (s1, .quiet) => s1
    | (s1, .raise e) => s1.raiseOp op.key targets e
    | (s1, .abort) => s1.abortFatal ⟨op.key, op.owner⟩ op.pc

/-- MATRIX_KSTEP_DONE: a k-step of a product and of those fused with it, or the tile of another operation, is computed and written (12
R292, R295). -/
def execMatrixKstepDone (id : Nat) (s : State) : Host.Outcome State Fault Refusal :=
  match s.matOps.find? fun x => x.id = id with
  | none => .next s
  | some op =>
    let pass := s.passOf op
    .next (if s.clocked op.die && s.passReady pass then
      (foldState State.advanceOp (pass.map fun x => x.id) s).retryCaptures op.key
    else s)

end Sys2Proof.Machine
end

