-- ==== Sys2Proof/Machine/Effects.lean ====
section
/-! DEFINITION. Handlers and effects (13 R310 to R313), continuations (03 R65 to R74; 13 R314 to R317), and the end of a fibre (13
R319) with its cohort slot and gang (18 R382). -/

namespace Sys2Proof.Machine

/-! Frame-heap instructions. -/

/-- Run a frame-heap action of a lane: altered heap aborts its gang, a shortage is STACKERR (03 R51, R55), a reserved field that is not 0 is
ILLEGAL (00 R12). Log 143 (DEDUCED). -/
def State.heapLane (s : State) (i : Issue) (n : Nat) (m : HeapM α) (go : α → State → State × LaneOut) : State × LaneOut :=
  match m s with
  | .ok (a, s1) => go a s1
  | .error .corrupt => (s.abortFatal (i.lane n) i.pc, .off)
  | .error .reserved => (s, .eff (illegal i 6))
  | .error .wait => (s, .stall)
  | .error (.full x) => (s, .eff (stackErr i x))

/-- An instruction whose lanes act on the frame heap, each once its earlier accesses are performed; a lane whose gang was aborted
meanwhile is no more. `after` follows the lanes. -/
def execHeapThen (o : Op) (f : Form) (s : State)
    (after : Issue → State × List (Nat × LaneOut) → State × List (Nat × LaneOut)) (g : Issue → State → Nat → State × LaneOut) :
    Host.Outcome State Fault Refusal :=
  withIssue s fun i t =>
    if !((t.executing i f.guard).all fun n => t.heapReady (i.lane n)) then t
    else t.issueWith i f.guard (f.use o) fun t ex =>
      after i (runLanes (fun u n => if (u.lane? (i.lane n)).isNone then (u, .off) else g i u n) ex t)

def execHeap (o : Op) (f : Form) (s : State) (g : Issue → State → Nat → State × LaneOut) : Host.Outcome State Fault Refusal :=
  execHeapThen o f s (fun _ r => r) g

/-- A displacement target: trunc(PC + 4 × disp, 57) (09 R211, 13 R307). -/
def targetOf (pc : Nat) (disp : Int) : Nat := truncInt ((pc : Int) + 4 * disp) 57
def Form.disp (f : Form) : Int := sextNat f.w2.toNat 32

/-! INSTALL and UNINST. -/

/-- Place a handler frame; `sp` is unchanged (13 R310). -/
def installFrame (c : HeapCtx) (l : Lane) (hpc : Nat) (tag mask : BitVec 8) : HeapM Nat :=
  HeapM.bind (placeFrame c l.sp 32) fun h =>
    HeapM.bind (writeFrame c h ⟨l.sp, 1, 0, 0⟩) fun _ =>
      HeapM.bind (writeHandler c h ⟨l.chain, mask, hpc, tag⟩) fun _ => HeapM.pure h

def execInstall (f : Form) (s : State) : Host.Outcome State Fault Refusal :=
  execHeap .install f s fun i t n =>
    let hi := f.hi.toNat
    let k := i.lane n
    let frame := installFrame (t.heapCtx k) (t.laneAt i n) (targetOf i.pc (Form.disp f)) (BitVec.ofNat 8 (bits hi 20 13))
      (BitVec.ofNat 8 (bits hi 12 5))
    t.heapLane i n frame fun h t1 => (t1.modLane k fun l => { l with chain := h }, .go .seq)

/-- Remove the chain head: its PREV, or nothing when the conditions of 13 R311 do not hold. -/
def uninstFrame (c : HeapCtx) (l : Lane) : HeapM (Option Nat) :=
  if l.chain = 0 then HeapM.pure none
  else
    HeapM.bind (readFrame c l.chain) fun fr => HeapM.bind (readHandler c l.chain) fun h =>
      HeapM.bind (readHdr c (segOf l.chain)) fun hdr =>
        let o := l.chain % 512
        let lower := hdr.split && decide (o < hdr.splitOff)
        if fr.kind = 1 && fr.csp = l.sp && (lower || hdr.top = o + 32) then
          HeapM.bind (popFrame c l.chain) fun _ => HeapM.pure (some h.prev)
        else HeapM.pure none

def execUninst (f : Form) (s : State) : Host.Outcome State Fault Refusal :=
  execHeap .uninst f s fun i t n =>
    let k := i.lane n
    t.heapLane i n (uninstFrame (t.heapCtx k) (t.laneAt i n)) fun r t1 => match r with
      | some prev => (t1.modLane k fun l => { l with chain := prev }, .go .seq)
      | none => (t, .eff (illegal i 2))

/-! PERFORM. -/

/-- Log 74 (DEDUCED). -/
def execPerform (f : Form) (s : State) : Host.Outcome State Fault Refusal :=
  execHeap .perform f s fun i t n =>
    let tag := BitVec.ofNat 8 (bits f.hi.toNat 13 6)
    let priv := (t.heapCtx (i.lane n)).priv
    let l := t.laneAt i n
    if tag = 15 then (t, .eff (illegal i 4))
    else
      let e : Effect := { tag := tag, k2 := BitVec.ofNat 64 (bRaw .perform f l true), k3 := 0, cpc := some (i.nextPc priv), xpc := i.pc }
      (t.setLane (i.lane n) (l.complete []), .eff e)

/-! Continuation records. -/

/-- A record that a handle names: its segments, its bytes from the descriptor on, and an uncorrectable location among them. -/
structure ContView where
  desc : ContRec
  segs : List Nat
  body : List Byte
  bad : Option Nat
  deriving DecidableEq, Repr

/-- Bytes of a register area (03 R67). -/
def ContRec.areaSize (r : ContRec) : Nat :=
  let up (n m : Nat) : Nat := (n + m - 1) / m * m
  let a := up (48 + 4 * r.nv) 8 + 8 * r.nsh
  if r.tcount = 0 then a else up a 16 + 16 * r.tcount

/-- The bodies of the record's segments, as many bytes as it has. -/
def readBodies (c : HeapCtx) (n : Nat) : List Nat → HeapM (List Byte × Option Nat)
  | [] => HeapM.pure ([], none)
  | seg :: segs =>
    let m := min n 480
    HeapM.bind (heapLoc c (seg + 32)) fun pa s =>
      let bad := if m ≠ 0 && s.badAt pa m then some pa else none
      HeapM.bind (readBodies c (n - m) segs) (fun r => HeapM.pure (s.home pa m ++ r.1, match bad with
        | some a => some a
        | none => r.2)) s

/-- Words, shadows and entries of a register area. -/
def ContView.vmap (x : ContView) : Nat := ofBytes ((x.body.drop 64).take 16)
def ContView.preds (x : ContView) : BitVec 8 := (x.body.drop 80).headD 0
def ContView.kWord (x : ContView) (j : Nat) : W64 := BitVec.ofNat 64 (ofBytes ((x.body.drop (88 + 8 * j)).take 8))
def ContView.regs (x : ContView) : List Nat := (List.range 128).filter fun n => x.vmap.testBit n
def ContView.word (x : ContView) (j : Nat) : W32 := BitVec.ofNat 32 (ofBytes ((x.body.drop (112 + 4 * j)).take 4))
def ContView.values (x : ContView) : List (Nat × W32) := x.regs.zip ((List.range x.regs.length).map x.word)
def ContView.shadowAt (x : ContView) : Nat := 64 + (48 + 4 * x.desc.nv + 7) / 8 * 8
def ContView.shadowRaw (x : ContView) : List Nat :=
  (List.range x.desc.nsh).map fun j => ofBytes ((x.body.drop (x.shadowAt + 8 * j)).take 8)
def ContView.ticketRaw (x : ContView) : List Nat :=
  let at_ := (x.shadowAt + 8 * x.desc.nsh + 15) / 16 * 16
  (List.range x.desc.tcount).map fun j => ofBytes ((x.body.drop (at_ + 16 * j)).take 16)
def ContView.shadows (x : ContView) : List Shadow := (x.shadowRaw.map Shadow.decode).filter fun y => y.left ≠ 0
def ContView.tickets (x : ContView) : List Ticket := x.ticketRaw.map Ticket.decode

/-- A record that RESUME and DROP accept (03 R68). -/
def ContView.valid (x : ContView) : Bool :=
  let r := x.desc
  contReserved (ofBytes (x.body.take 64)) && (x.body.drop 81).take 7 = List.replicate 7 0
    && r.nv = popcountNat x.vmap 128 && r.tcount ≤ 32 && r.nsh ≤ 30 && r.frm.toNat ≤ 4
    && (x.shadowRaw.all fun y => bits y 39 39 = 0 && bits y 63 44 = 0)
    && x.ticketRaw.all fun y => decide (1 ≤ bits y 63 61) && decide (bits y 63 61 ≤ 4) && bits y 60 57 = 0

/-- Whether a segment address lies in a frame heap. -/
def HeapCtx.within (c : HeapCtx) (s : State) (seg : Nat) : Bool :=
  decide (c.base s ≤ seg) && decide (seg + 512 ≤ c.base s + 512 * c.count s)

/-- The checks that RESUME and DROP make of a handle (03 R69, 13 R314): the record, or the cause of CONTERR. Log 70 (DEDUCED). -/
def openCont (c : HeapCtx) (k : W64) : HeapM (Except Nat ContView) := fun s =>
  let seg := handleSeg k
  if !c.within s seg then .ok (.error 1, s)
  else HeapM.bind (heapRead c seg 32) (fun x =>
    let h := SegHdr.decode x
    if h.gen ≠ handleGen k || !h.capArea then HeapM.pure (.error 1)
    else if !h.ok then HeapM.fail .corrupt
    else HeapM.bind (readBodies c 64 [seg]) fun head =>
      let d := ContRec.decode (ofBytes head.1)
      if d.state = 2 then HeapM.pure (.error 2)
      else if d.state = 3 then HeapM.pure (.error 3)
      else if d.state ≠ 1 then HeapM.pure (.error 4)
      else HeapM.bind (recordChain c seg 3) fun segs =>
        HeapM.bind (readBodies c (64 + d.areaSize) segs.1) fun body =>
          let v : ContView := ⟨d, segs.1, body.1, segs.2.or body.2⟩
          if v.bad.isNone && !v.valid then HeapM.pure (.error 4) else HeapM.pure (.ok v)) s

/-- The state change of RESUME and DROP at the record's home (03 R73), and its CONT record. -/
def changeCont (c : HeapCtx) (k : W64) (state : Nat) : HeapM Unit :=
  HeapM.bind (heapWrite c (handleSeg k + 39) 1 state) fun _ => HeapM.pure ()

def State.contRecord (s : State) (k : LaneKey) (drop : Bool) (handle : W64) : State := s.almLane k 0x11 (boolNat drop) handle

/-- Uncorrectable bytes among the n of a captured frame that RESUME reads or writes. -/
def badFrame (c : HeapCtx) (n va : Nat) : HeapM (Option Nat) :=
  if va = 0 then HeapM.pure none
  else HeapM.bind (heapLoc c va) fun pa s => .ok (if s.badAt pa n then some pa else none, s)

/-- What RESUME cannot read: the record, the header of the base frame, the oldest captured chain frame (03 R74). -/
def badCont (c : HeapCtx) (x : ContView) : HeapM (Option Nat) :=
  HeapM.bind (badFrame c 16 x.desc.basef) fun a => HeapM.bind (badFrame c 32 x.desc.oldh) fun b => HeapM.pure (x.bad.or (a.or b))

/-- The shares that a continuation holds besides its record: those of its captured frames. -/
def contShares (c : HeapCtx) (k : W64) (x : ContView) (s : State) : List (Nat × Nat) :=
  (c.sharesOf s (.cont (handleSeg k))).filter fun y => !x.segs.contains y.1

/-! RESUME. -/

/-- A resume frame for the resumer (03 R70), whose next PC is given. -/
def resumeFrame (c : HeapCtx) (l : Lane) (prio : BitVec 8) (next : Nat) (d : ContRec) : HeapM Nat :=
  HeapM.bind (placeFrame c l.sp 64) fun r =>
    HeapM.bind (writeFrame c r ⟨l.sp, 2, next, prio⟩) fun _ =>
      HeapM.bind (writeHandler c r ⟨l.chain, d.hmask, 0, d.htag⟩) fun _ =>
        let second := (l.kreg 5).toNat + 2 ^ 64 * (l.kreg 6).toNat + 2 ^ 128 * (l.kreg 7).toNat + 2 ^ 192 * l.fflags.toNat
          + 2 ^ 200 * l.frm.toNat + 2 ^ 208 * l.fenable.toNat
        HeapM.bind (heapWrite c (r + 32) 32 second) fun _ => HeapM.pure r

/-- Tie the captured frames to a resume frame. -/
def tieFrames (c : HeapCtx) (r : Nat) (d : ContRec) : HeapM Unit :=
  HeapM.bind (if d.basef = 0 then HeapM.pure () else
    HeapM.bind (readFrame c d.basef) fun f => writeFrame c d.basef { f with csp := r }) fun _ =>
    if d.oldh = 0 then HeapM.pure ()
    else HeapM.bind (readHandler c d.oldh) fun h => writeHandler c d.oldh { h with prev := r }

/-- The lane as the record has it. A restored register is written: a result pending for it is superseded (04 R80, 08 R174). -/
def ContView.lane (x : ContView) (l : Lane) (r : Nat) (value : W64) : Lane :=
  let d := x.desc
  let l1 := foldState (fun (y : Lane) v => y.setReg v.1 v.2) x.values l.releaseAll
  { l1 with
    p := x.preds, k := [0, value, 0, 0, 0, x.kWord 0, x.kWord 1, x.kWord 2], sp := d.sp
    chain := if d.head ≠ 0 then d.head else r, wic := d.wic, fflags := d.fflags, frm := d.frm, fenable := d.fenable, shadows := x.shadows
    bks := d.bks, tickets := x.tickets.filter fun t => t.kind ≠ 4, want := [], arrival := none, lastReads := [], keeps := [] }

/-- Reissue a stopped product for a resumed fibre (12 R298); one that cannot be is discarded. -/
def State.reissue (s : State) (k : LaneKey) (t : Ticket) : State :=
  let n := k.lane
  match s.cohort? k.coh, s.lane? k with
  | some c, some l =>
    match s.fetchWords k.coh c.priv [n] t.addr t.addr 3 with
    | (.ok ws, s1) =>
      match decode (ws.flatMap wordBytes) with
      | .ok (ins, _) =>
        match ins.op with
        | some o =>
          let f := ins.form
          let v := t.value.toNat
          let control := BitVec.ofNat 64 (bits v 15 0 + 2 ^ 32 * bits v 31 16 + 2 ^ 48 * bits v 47 32)
          let op := s1.matOpOf k.coh c t.addr n o f control (Form.mode f l)
          if (o = .mma || o = .mms || o = .mmf) && ins.wf && op.ok then
            let op1 := { op with lanes := [(n, l.stay)], single := some n, alone := decide (l.fenable ≠ 0) }
            ({ s1 with matOps := s1.matOps ++ [op1], nextId := s1.nextId + 1 }).modLane k fun x => x.addPend op1.id op1.first 1 0
          else s1
        | none => s1
      | .error _ => s1
    | (.error _, s1) => s1
  | _, _ => s

/-- A lane that lacks registers for a record parks on growth (03 R69). -/
def State.parkGrowth (s : State) (i : Issue) (n : Nat) (regs : List Nat) : State × LaneOut :=
  (s.modLane (i.lane n) fun l =>
    { l with status := .parked 7 0, prio := i.prio, pc := i.pc, parkedCycles := 0, want := regs }, .off)

/-- The whole of a RESUME after its checks (03 R69): the resume frame, the state change, the captured frames and their shares, and the
record, which is freed. -/
def resumeHeap (c : HeapCtx) (k : W64) (x : ContView) (l : Lane) (prio : BitVec 8) (next : Nat) : HeapM Nat :=
  HeapM.bind (resumeFrame c l prio next x.desc) fun r =>
    HeapM.bind (changeCont c k 2) fun _ =>
      HeapM.bind (tieFrames c r x.desc) fun _ s =>
        HeapM.bind (passShares c (.fibre c.fibre) (contShares c k x s)) (fun _ =>
          HeapM.bind (freeRecord c x.segs) fun _ => HeapM.pure r) s

/-- A record or captured frame that cannot be read after the state change (03 R74): the continuation is lost. Log 73 (DEDUCED). -/
def State.loseCont (s : State) (i : Issue) (n : Nat) (c : HeapCtx) (k : W64) (state : Nat) (pa : Nat) : State × LaneOut :=
  s.heapLane i n (changeCont c k state) fun _ s1 =>
    (((s1.contRecord (i.lane n) (state = 3) k).addLate (i.lane n) (memErr (handleSeg k) i.pc 0 0 none)).eccRecord (i.lane n) pa, .go .seq)

/-- The peak of a cohort (04 R82). -/
def State.peakOf (s : State) (k : CohKey) : Nat := match s.cohort? k with
  | some c => c.peak
  | none => 128

/-- A RESUME of a record that is LIVE and valid: room for the resume frame, registers, and only then the state change (03 R69, R74). -/
def State.resumeWith (s : State) (i : Issue) (n : Nat) (k value : W64) (x : ContView) (bad : Option Nat) : State × LaneOut :=
  let key := i.lane n
  let c := s.heapCtx key
  let l := s.laneAt i n
  match bad with
  | some pa =>
    match placeFrame c l.sp 64 s with
    | .error (.full m) => (s, .eff (stackErr i m))
    | _ => if s.growOk i.key x.regs then s.loseCont i n c k 2 pa else s.parkGrowth i n x.regs
  | none =>
    s.heapLane i n (resumeHeap c k x l i.prio (i.nextPc c.priv)) fun r s1 =>
      if !s.growOk i.key x.regs then s.parkGrowth i n x.regs
      else
        let s2 := ((s1.noteGrown i.key x.regs).contRecord key false k).setLane key (x.lane l r value)
        (foldState (fun (t : State) y => t.reissue key y) (x.tickets.filter fun y => y.kind = 4) s2, .stand x.desc.prio x.desc.pc)

def State.resumeLane (s : State) (i : Issue) (f : Form) (n : Nat) : State × LaneOut :=
  let key := i.lane n
  let c := s.heapCtx key
  let l := s.laneAt i n
  let k := l.regPair f.a.toNat
  s.heapLane i n (openCont c k) fun r s1 => match r with
    | .error cause => (s1, .eff (contErr i k cause))
    | .ok x =>
      if x.bad.isNone && x.regs.any fun m => s.peakOf i.key ≤ m then (s1, .eff (contErr i k 4))
      else s1.heapLane i n (badCont c x) fun bad s2 => s2.resumeWith i n k (BitVec.ofNat 64 (bRaw .resume f l true)) x bad

/-- Lanes that RESUME or DROP the handles that `handle` gives, in increasing order: a lane sees the state change that a lower lane of
the issue made to its record, and raises CONTERR with the cause of that change. One of another issue comes wholly before or after: it finds
the record LIVE, or its GEN advanced (03 R73; 13 R317). Log 154 (DESIGN CHOICE). -/
def contLanes (i : Issue) (cause : Nat) (handle : State → Nat → W64) (f : State → Nat → State × LaneOut) :
    List W64 → List Nat → State → State × List (Nat × LaneOut)
  | _, [], s => (s, [])
  | won, n :: ns, s =>
    let k := handle s n
    let (s1, o) := if won.contains k && (s.lane? (i.lane n)).isSome then (s, .eff (contErr i k cause)) else f s n
    let (s2, os) := contLanes i cause handle f (match o with | .stand _ _ | .go _ => k :: won | _ => won) ns s1
    (s2, (n, o) :: os)

/-- Lanes parked on growth ask for the reserve. -/
def grantAfter (s : State) (i : Issue) (o : Host.Outcome State Fault Refusal) : Host.Outcome State Fault Refusal :=
  match o with
  | .next t => match s.issue with
    | some _ => .next (if (match t.cohort? i.key with | some c => c.parkedOnGrowth | none => false) then t.grantReserve i.key.die i.key.core else t)
    | none => .next t
  | r => r

/-- RESUME and DROP: as `execHeap`, with lanes that see each other's state changes. -/
def execCont (o : Op) (f : Form) (s : State) (cause : Nat) (g : Issue → State → Nat → State × LaneOut) :
    Host.Outcome State Fault Refusal :=
  withIssue s fun i t =>
    if !((t.executing i f.guard).all fun n => t.heapReady (i.lane n)) then t
    else t.issueWith i f.guard (f.use o) fun t ex =>
      contLanes i cause (fun u n => (u.laneAt i n).regPair f.a.toNat)
        (fun u n => if (u.lane? (i.lane n)).isNone then (u, .off) else g i u n) [] ex t

def execResume (f : Form) (s : State) : Host.Outcome State Fault Refusal :=
  let r := execCont .resume f s 2 fun i t n => t.resumeLane i f n
  match s.issue with
  | some i => grantAfter s i r
  | none => r

/-! DROP and CONTQ. -/

/-- What a DROP releases (03 R72): the shares of the captured frames, and the record. -/
def dropHeap (c : HeapCtx) (k : W64) (x : ContView) : HeapM Unit :=
  HeapM.bind (changeCont c k 3) fun _ s =>
    HeapM.bind (releaseFrames c (contShares c k x s)) (fun _ => freeRecord c x.segs) s

/-- Log 73 (DEDUCED). -/
def execDrop (f : Form) (s : State) : Host.Outcome State Fault Refusal :=
  execCont .drop f s 3 fun i t n =>
    let key := i.lane n
    let c := t.heapCtx key
    let k := (t.laneAt i n).regPair f.a.toNat
    t.heapLane i n (openCont c k) fun r t1 => match r with
      | .error cause => (t1, .eff (contErr i k cause))
      | .ok x => match x.bad with
        | some pa => t1.loseCont i n c k 3 pa
        | none => t1.heapLane i n (dropHeap c k x) fun _ t2 => (t2.contRecord key true k, .go .seq)

/-- What CONTQ answers from the header and descriptor of a handle's segment (13 R316). -/
def contAnswer (k : W64) (bs : List Byte) : W32 :=
  let h := SegHdr.decode (ofBytes (bs.take 32))
  let d := ContRec.decode (ofBytes ((bs.drop 32).take 64))
  if h.gen = handleGen k && h.capArea then BitVec.ofNat 32 (d.state + 256 * d.htag.toNat + 65536 * d.nseg) else 0

/-- Log 70 (DEDUCED). -/
def execContq (f : Form) (s : State) : Host.Outcome State Fault Refusal :=
  execHeap .contq f s fun i t n =>
    let key := i.lane n
    let k := (t.laneAt i n).regPair f.a.toNat
    let c : HeapCtx := { t.heapCtx key with priv := false }
    if !c.within t (handleSeg k) then (t.modLane key fun l => l.setReg f.d.toNat 0, .go .seq)
    else match t.readNow key 1 (va57 (handleSeg k)) 96 with
      | (.bytes bs seen, t1) => ((t1.modLane key fun l => l.setReg f.d.toNat (contAnswer k bs)).observe key seen, .go .seq)
      | (x, t1) =>
        let (t2, outs) := t1.readFails i [n] f.d.toNat 1 x
        (t2, (lookup outs n).getD .off)

/-! The end of a fibre. -/

/-- Whether some task record of a gang waits in a post queue of its partition. -/
def State.gangPosted (s : State) (pid gang : Nat) : Bool :=
  s.dies.any fun d => s.pid d.1 = pid && d.2.posts.any fun q => q.2.any fun r => bits r.toNat 511 480 = gang

/-- A gang with no cohort, saved image or task record left ends (18 R382). -/
def State.settleGang (s : State) (d gang : Nat) : State :=
  let pid := s.pid d
  match s.gang? pid gang with
  | none => s
  | some g =>
    if (s.cohorts.any fun x => x.2.gang = gang && !x.2.priv && s.pid x.1.die = pid) || !g.images.isEmpty || s.gangPosted pid gang then s
    else ((s.launchStatus g 3 0).dropGang g).almSched d 0x88 0 (BitVec.ofNat 64 gang)

/-- Lanes have turned empty: rounds that waited for them execute, and an empty slot is released (18 R382). -/
def State.afterEmpty (s : State) (k : CohKey) : State :=
  match s.cohort? k with
  | none => s
  | some c => if c.lanes.isEmpty then (s.releaseSlot k).settleGang k.die c.gang else s.converge k

/-- Failed and rejected side-log entries of a fibre that exits are freed, and recorded (13 R319). -/
def State.exitSide (s : State) (k : LaneKey) : State :=
  let fibre := s.fibreOf k
  let mine (e : SideEntry) : Bool :=
    (e.state = 3 || e.state = 4) && e.slot = k.coh.slot && e.fibres.contains fibre && e.lanes.any fun x => x.lane = k.lane
  let es := (s.core k.coh.die k.coh.core).sideLog.filter mine
  let s1 := foldState (fun (t : State) e => t.slogRecord k.coh e true) es s
  let leave (e : SideEntry) : SideEntry := if mine e then { e with lanes := e.lanes.filter fun x => x.lane ≠ k.lane } else e
  s1.modCore k.coh.die k.coh.core fun c => { c with sideLog := (c.sideLog.map leave).filter fun e => !e.lanes.isEmpty }

/-- The fibre ends, and the shares that it holds are released (03 R54, 13 R319). -/
def State.exitLane (s : State) (i : Issue) (n : Nat) : State × LaneOut :=
  let k := i.lane n
  let c := s.heapCtx k
  s.heapLane i n (releaseFrames c (c.sharesOf s (.fibre c.fibre))) fun _ t =>
    ((t.exitSide k).dropLane k, .off)

/-- Drain the lanes of an issue (03 R59): nothing when one has to wait for another party. -/
def State.drainAll (s : State) (i : Issue) : List Nat → Option State
  | [] => some s
  | n :: ns => match s.drainRegs (i.lane n) with
    | (true, t) => t.drainAll i ns
    | (false, _) => none

/-- What follows an issue in which lanes may have ended. -/
def afterExit (s : State) (o : Host.Outcome State Fault Refusal) : Host.Outcome State Fault Refusal :=
  match o, s.issue with
  | .next t, some i => if t.issues = s.issues then .next t else .next (t.afterEmpty i.key)
  | r, _ => r

def execExit (f : Form) (s : State) : Host.Outcome State Fault Refusal :=
  match s.issue with
  | none => .fault .noIssue
  | some i => match s.drainAll i (s.executing i f.guard) with
    | none => .next { s with issue := none }
    | some t => afterExit t (execHeap .exit f t fun i u n => u.exitLane i n)

end Sys2Proof.Machine
end

