-- ==== Sys2Proof/Machine/Control.lean ====
section
/-! DEFINITION. Branches, jumps, calls and returns (09 R210 to R215), with the sampled branch records of the Almanac (22 R430). -/

namespace Sys2Proof.Machine

/-! Branch records. -/

/-- A taken branch of an issue is counted; one in 2^(BRATE + 4) is recorded while ALM_CTL.BRS is set. An indirect branch has a
target. Log 67 (DEDUCED). -/
def State.noteBranch (s : State) (i : Issue) (lane : Nat) (prio : BitVec 8) (target : Option Nat) : State :=
  let d := i.key.die
  let c := i.key.core
  let n := (s.core d c).branches + 1
  let s1 := s.modCore d c fun x => { x with branches := n }
  if (s.dcr d offALMCTL).getLsbD 0 && n % 2 ^ (s.dcrBits d offALMCTL 7 4 + 4) = 0 then
    s1.almLane (i.lane lane) 0x13 (prio.toNat + 256 * boolNat target.isSome) (BitVec.ofNat 64 i.pc) target
  else s1

/-- The first lane that goes elsewhere. -/
def takenOf (outs : List (Nat × LaneOut)) : Option (Nat × BitVec 8 × Nat) :=
  outs.findSome? fun x => match x.2 with
    | .go (.goesTo p pc) => some (x.1, p, pc)
    | _ => none

/-- A branch whose executing lanes go where `g` says. -/
def execBranch (o : Op) (f : Form) (s : State) (indirect : Bool) (g : Issue → Lane → LaneOut) : Host.Outcome State Fault Refusal :=
  withIssue s fun i t => t.issueWith i f.guard (f.use o) fun t ex =>
    let outs := ex.map fun n => (n, g i (t.laneAt i n))
    match takenOf outs with
    | some (n, p, pc) => (t.noteBranch i n p (if indirect then some pc else none), outs)
    | none => (t, outs)

/-! BRA, BRP, PRIO, NOP. -/

/-- PRI, first-word bits [31:24]. -/
def Form.pri (f : Form) : BitVec 8 := BitVec.ofNat 8 (bits f.hi.toNat 20 13)
def Form.braShort (f : Form) : Int := sextNat (bits f.hi.toNat 12 0) 13
def Form.brpShort (f : Form) : Int := sextNat (bits f.hi.toNat 8 0) 9
def Form.brpPred (f : Form) : Nat := bits f.hi.toNat 12 10
def Form.brpSense (f : Form) : Bool := f.hi.getLsbD 9

def execBra (f : Form) (s : State) : Host.Outcome State Fault Refusal :=
  execBranch .bra f s false fun i _ => .go (.goesTo (Form.pri f) (targetOf i.pc (Form.braShort f)))
def execBraLong (f : Form) (s : State) : Host.Outcome State Fault Refusal :=
  execBranch .braLong f s false fun i _ => .go (.goesTo (Form.pri f) (targetOf i.pc (Form.disp f)))

/-- BRP (09 R211): taken when the predicate equals NOT S. -/
def brpOut (f : Form) (l : Lane) (target : Nat) : LaneOut :=
  if l.pred (Form.brpPred f) = !Form.brpSense f then .go (.goesTo (Form.pri f) target) else .go .seq

def execBrp (f : Form) (s : State) : Host.Outcome State Fault Refusal :=
  execBranch .brp f s false fun i l => brpOut f l (targetOf i.pc (Form.brpShort f))
def execBrpLong (f : Form) (s : State) : Host.Outcome State Fault Refusal :=
  execBranch .brpLong f s false fun i l => brpOut f l (targetOf i.pc (Form.disp f))

def execPrio (f : Form) (s : State) : Host.Outcome State Fault Refusal :=
  execLanes .prio f s fun i t _ =>
    let priv := match t.cohort? i.key with
      | some c => c.priv
      | none => false
    (t, .go (.goesTo (Form.pri f) (i.nextPc priv)))

def execNop (f : Form) (s : State) : Host.Outcome State Fault Refusal := execRegs .nop f s fun _ l => .ok (l, .seq)

/-! JMPR. -/

/-- Lanes that jump outside the canonical range, with the priority and the target. -/
def wildLanes (outs : List (Nat × LaneOut)) : List (Nat × BitVec 8 × Nat) :=
  outs.filterMap fun x => match x.2 with
    | .go (.goesTo p pc) => if 2 ^ 57 ≤ pc then some (x.1, p, pc) else none
    | _ => none

/-- Lanes that stand at one pair outside the canonical range: their fetch there faults at once (09 R212), with one record (19 R394). Log 48 (DEDUCED). -/
def State.holdWild (s : State) (i : Issue) (last : List Nat) (g : List (Nat × BitVec 8 × Nat)) : State :=
  match g with
  | [] => s
  | x :: _ =>
    let j : Issue := { i with prio := x.2.1, pc := x.2.2 % 2 ^ 57 }
    let ns := g.map fun y => y.1
    let (id, s1) := s.holdLanes j ns ⟨4, 4, 0⟩ Acc.fetch.code 5 (BitVec.ofNat 64 x.2.2) false
    foldState (fun (t : State) n => t.modLane (i.lane n) fun l =>
      { l.complete last with status := .held id, prio := j.prio, pc := j.pc }) ns s1

/-- After the lanes of JMPR or CALLR: those of a user that jump outside the canonical range are held, each pair with its own record. -/
def holdJumps (i : Issue) (priv : Bool) (last : List Nat) (r : State × List (Nat × LaneOut)) : State × List (Nat × LaneOut) :=
  let wild := if priv then [] else wildLanes r.2
  let pairs := dedup (wild.map fun x => (x.2.1, x.2.2 % 2 ^ 57))
  let groups := pairs.map fun p => wild.filter fun x => (x.2.1, x.2.2 % 2 ^ 57) = p
  (foldState (fun (t : State) g => t.holdWild i last g) groups r.1,
    r.2.map fun x => if wild.any fun y => y.1 = x.1 then (x.1, .off) else x)

/-- The target of JMPR or CALLR in a lane (09 R212): an effect, or where it goes. -/
def jumpCheck (i : Issue) (priv : Bool) (target : W64) : Option Effect :=
  if target.toNat % 4 ≠ 0 then some (misalign i target 4)
  else if priv && bits target.toNat 63 56 ≠ 0 then some (fetchErr i.pc target.toNat true)
  else none

def jumpPrio (o : Op) (f : Form) (l : Lane) : BitVec 8 := BitVec.ofNat 8 (bRaw o f l false)

/-- A lane jumps to a checked target; one outside the canonical range keeps its upper bits, for the hold. -/
def jumpOut (priv : Bool) (prio : BitVec 8) (target : W64) : LaneOut :=
  .go (.goesTo prio (if !priv && canonical target then target.toNat % 2 ^ 57 else target.toNat))

/-- Note the branch of an issue whose lanes have acted. Log 67 (DEDUCED). -/
def noteTaken (i : Issue) (r : State × List (Nat × LaneOut)) : State × List (Nat × LaneOut) :=
  match takenOf r.2 with
  | some (n, p, pc) => (r.1.noteBranch i n p (some pc), r.2)
  | none => r

/-- The issuing cohort runs in privileged mode. -/
def State.issuePriv (s : State) (i : Issue) : Bool := match s.cohort? i.key with
  | some c => c.priv
  | none => false

def execJmpr (f : Form) (s : State) : Host.Outcome State Fault Refusal :=
  withIssue s fun i t => t.issueWith i f.guard (f.use .jmpr) fun t ex =>
    let priv := t.issuePriv i
    noteTaken i (holdJumps i priv ((f.use .jmpr).lastOf true) (runLanes (fun u n =>
      let l := u.laneAt i n
      let target := l.regPair f.a.toNat
      match jumpCheck i priv target with
      | some e => (u, .eff e)
      | none => (u, jumpOut priv (jumpPrio .jmpr f l) target)) ex t))

/-! CALL and CALLR (09 R213). -/

/-- Place a call frame of F bytes. -/
def callFrame (c : HeapCtx) (l : Lane) (bytes rpc : Nat) (prio : BitVec 8) : HeapM Nat :=
  HeapM.bind (placeFrame c l.sp bytes) fun a =>
    HeapM.bind (writeFrame c a ⟨l.sp, 0, rpc, prio⟩) fun _ => HeapM.pure a

def State.callLane (s : State) (i : Issue) (n bytes : Nat) (go : State → State × LaneOut) : State × LaneOut :=
  let k := i.lane n
  let c := s.heapCtx k
  s.heapLane i n (callFrame c (s.laneAt i n) bytes (i.nextPc c.priv) i.prio) fun a s1 =>
    go (s1.modLane k fun l => { l with sp := a })

def execCall (f : Form) (s : State) : Host.Outcome State Fault Refusal :=
  execHeap .call f s fun i t n =>
    t.callLane i n (16 * bits f.hi.toNat 12 5) fun u => (u, .go (.goesTo (Form.pri f) (targetOf i.pc (Form.disp f))))

def execCallr (f : Form) (s : State) : Host.Outcome State Fault Refusal :=
  let after (i : Issue) (r : State × List (Nat × LaneOut)) := holdJumps i (r.1.issuePriv i) ((f.use .callr).lastOf true) r
  execHeapThen .callr f s after fun i t n =>
    let l := t.laneAt i n
    let target := l.regPair f.a.toNat
    let priv := t.issuePriv i
    match jumpCheck i priv target with
    | some e => (t, .eff e)
    | none => t.callLane i n (16 * f.c.toNat) fun u => (u, jumpOut priv (jumpPrio .callr f l) target)

/-! RET (09 R214, 03 R53, R71). -/

/-- What a RET comes to, by the frame at `sp`. -/
inductive RetKind where
  | plain | ends
  /-- Past the base of a resumed continuation, to a resume frame. -/
  | past (resume : Nat)
  deriving DecidableEq, Repr

def retKind (c : HeapCtx) (sp : Nat) : HeapM (RetKind × Frame) :=
  HeapM.bind (readHdr c (segOf sp)) fun _ => HeapM.bind (readFrame c sp) fun f =>
    if f.csp = 0 then HeapM.pure (if f.rpc = 0 then .ends else .plain, f)
    else HeapM.bind (readFrame c f.csp) fun g =>
      HeapM.pure (if g.kind = 2 then .past f.csp else if f.rpc = 0 then .ends else .plain, f)

/-- Handlers that the frame installed and did not remove are unlinked (13 R312); one that lies in another segment is popped from it.
The chain head that remains. Log 66 (DEDUCED). -/
def unlink (c : HeapCtx) (frame head : Nat) : Nat → HeapM Nat
  | 0 => HeapM.pure head
  | fuel + 1 =>
    if head = 0 then HeapM.pure 0
    else HeapM.bind (readFrame c head) fun f => HeapM.bind (readHandler c head) fun h =>
      if f.kind ≠ 1 || f.csp ≠ frame then HeapM.pure head
      else if segOf head = segOf frame then unlink c frame h.prev fuel
      else HeapM.bind (popFrame c head) fun _ => unlink c frame h.prev fuel

/-- The lane past the base of a resumed continuation (03 R71). -/
def returnPast (c : HeapCtx) (l : Lane) (r : Nat) : HeapM Lane :=
  HeapM.bind (popFrame c l.sp) fun _ =>
    HeapM.bind (readFrame c r) fun f => HeapM.bind (readHandler c r) fun hd =>
      HeapM.bind (enterHandler c r f hd { l with k := [0, l.regPair 0, 0, 0, 0] ++ l.k.drop 5 }) fun m =>
        HeapM.pure { m with tickets := l.tickets, bks := false }

/-- One RET: the lane's new state and pair. Log 66 (DEDUCED). -/
def retLane (c : HeapCtx) (l : Lane) (fuel : Nat) : HeapM (Option (Lane × BitVec 8 × Nat)) :=
  HeapM.bind (retKind c l.sp) fun x =>
    match x.1 with
    | .ends => HeapM.pure none
    | .past r =>
      HeapM.bind (unlink c l.sp l.chain fuel) fun head =>
        HeapM.bind (returnPast c { l with chain := head } r) fun m => HeapM.pure (some (m, m.prio, m.pc))
    | .plain =>
      HeapM.bind (unlink c l.sp l.chain fuel) fun head =>
        HeapM.bind (popFrame c l.sp) fun _ =>
          HeapM.pure (some ({ l with chain := head, sp := x.2.csp }, x.2.rprio, x.2.rpc))

/-- What the lanes of a RET wait for: a fibre that ends drains, one that returns past a base reads `v0:v1`. -/
def State.retReady (s : State) (i : Issue) : List Nat → Option State
  | [] => some s
  | n :: ns =>
    let k := i.lane n
    match retKind (s.heapCtx k) (s.laneAt i n).sp s with
    | .error _ => s.retReady i ns
    | .ok ((.plain, _), _) => s.retReady i ns
    | .ok ((.past _, _), _) => if (s.laneAt i n).waitsFor 0 || (s.laneAt i n).waitsFor 1 then none else s.retReady i ns
    | .ok ((.ends, _), _) => match s.drainRegs k with
      | (true, t) => t.retReady i ns
      | (false, _) => none

def State.returnLane (s : State) (i : Issue) (n : Nat) : State × LaneOut :=
  let k := i.lane n
  s.heapLane i n (retLane (s.heapCtx k) (s.laneAt i n) (walkFuel s)) fun r s1 => match r with
    | none => s.exitLane i n
    | some (m, p, pc) => (s1.setLane k m, .go (.goesTo p pc))

def execRet (f : Form) (s : State) : Host.Outcome State Fault Refusal :=
  match s.issue with
  | none => .fault .noIssue
  | some i => match s.retReady i (s.executing i f.guard) with
    | none => .next { s with issue := none }
    | some t => afterExit t (execHeap .ret f t fun i u n => u.returnLane i n)

end Sys2Proof.Machine
end

