-- ==== Sys2Proof/Machine/Launch.lean ====
section
/-! DEFINITION. Starting fibres (13 R318), posting work (13 R320), barriers (13 R322 to R326), launching gangs, bindings and
supervisor calls (13 R327 to R329). -/

namespace Sys2Proof.Machine

/-- An instruction that performs FENCE `lsu` at a scope in the lanes `needs` names before they act: it stalls until those fences end,
and while a lane finds that the issue has to wait, and a lane with a pending fence effect takes it. Log 68 (DEDUCED). -/
def execFenced (o : Op) (f : Form) (scope : Nat) (needs : Issue → State → Nat → Bool)
    (g : Issue → State → List Nat → State × List (Nat × LaneOut)) (s : State) : Host.Outcome State Fault Refusal :=
  withIssue s fun i t =>
    let u := f.use o
    let ex := t.executing i f.guard
    let fs := ex.filter (needs i t)
    if t.mustWait i f.guard u then t
    else if ex.isEmpty then t.finish i u []
    else if !(fs.all fun n => t.fenceReady (i.lane n) scope [.lsu]) then t
    else if !t.growOk i.key u.writes then t.refuseGrowth i u ex
    else
      let (t1, fx) := (t.noteGrown i.key u.writes).fenceLanes i scope [.lsu] fs
      let (t2, outs) := g i t1 (ex.filter fun n => (lookup fx n).isNone)
      if outs.any fun x => x.2 = .stall then t else t2.finish i u ((fx.map fun x => (x.1, .eff x.2)) ++ outs)

/-- Each lane writes a predicate and goes on. -/
def State.answerAll (s : State) (i : Issue) (p : Nat) (b : Bool) (ns : List Nat) : State × List (Nat × LaneOut) :=
  (foldState (fun (t : State) n => t.modLane (i.lane n) fun l => l.setPred p b) ns s, allOut ns (.go .seq))

/-! SPAWN. -/

/-- The root handler of a cohort's gang (03 R54); 0 when there is none. -/
def State.rootOf (s : State) (k : CohKey) : Nat := match s.gangOf k with
  | some g => g.root
  | none => 0

def Cohort.emptySlot (c : Cohort) : Option Nat := (List.range Config.width).find? fun m => (c.lane? m).isNone

def State.spawnLane (s : State) (i : Issue) (f : Form) (n : Nat) : State × LaneOut :=
  let k := i.lane n
  let answer (t : State) (b : Bool) : State × LaneOut := (t.modLane k fun l => l.setPred f.d.toNat b, .go .seq)
  match (s.cohort? i.key).bind fun c => (c.emptySlot).map fun m => (c, m) with
  | none => answer s false
  | some (c, m) =>
    let l := s.laneAt i n
    s.heapLane i n (startStack { s.heapCtx k with fibre := s.fibres } (s.rootOf i.key)) fun r s1 =>
      let new : Lane := { k := [l.regPair f.a.toNat, BitVec.ofNat 64 n, 0, 0, 0, 0, 0, 0], sp := r.1, chain := r.2
                          obs := dedup (l.obs ++ l.made), preemptDue := c.preempting }
      answer (s1.placeFibre ⟨i.key, m⟩ new 0x80 (targetOf i.pc (Form.disp f))) true

def execSpawn (f : Form) (s : State) : Host.Outcome State Fault Refusal :=
  execFenced .spawn f 0 (fun _ _ _ => true) (fun i t ns =>
    runLanes (fun u n => if (u.lane? (i.lane n)).isNone then (u, .off) else u.spawnLane i f n) ns t) s

/-! POST. -/

/-- The quad nearest to the channel of a device address (06 R120). -/
def quadFor (pa : Nat) : Nat :=
  let c := bits pa 15 10
  6 * (c / 32) + c % 32 * 6 / 32

def postQueueSize : Nat := 256

/-- A task record (13 R320). -/
def taskRecord (tick : Nat) (entry data : W64) (args : List W64) (cont : Bool) (gang die pkg : Nat) : BitVec 512 :=
  let arg (j : Nat) : Nat := (args.getD j 0).toNat
  BitVec.ofNat 512 (tick % 2 ^ 64 + 2 ^ 64 * entry.toNat + 2 ^ 128 * data.toNat + 2 ^ 192 * arg 0 + 2 ^ 256 * arg 1 + 2 ^ 320 * arg 2
    + 2 ^ 384 * arg 3 + 2 ^ 448 * boolNat cont + 2 ^ 464 * (die % 16) + 2 ^ 468 * (pkg % 4096) + 2 ^ 480 * gang)

def Die.posted (x : Die) (quad : Nat) : List (BitVec 512) := (numGet x.posts quad).getD []

/-- Append to the post queue of a quad; whether there was room. -/
def State.enqueueTask (s : State) (d quad : Nat) (r : BitVec 512) : Bool × State :=
  let q := (s.die d).posted quad
  if postQueueSize ≤ q.length then (false, s) else (true, s.modDie d fun x => { x with posts := numSet x.posts quad (q ++ [r]) })

/-- The record of a lane's block of 12 registers. -/
def State.taskOf (s : State) (i : Issue) (b : Nat) (cont : Bool) (n : Nat) : BitVec 512 :=
  let l := s.laneAt i n
  let gang := s.gangNo i.key
  taskRecord s.tick (l.regPair b) (l.regPair (b + 2)) ((List.range 4).map fun j => l.regPair (b + 4 + 2 * j)) cont gang i.key.die
    (s.dcrBits i.key.die offPKGID 11 0)

/-- The post of an issue, for its lowest lane; the target lies in this package, so the fence is at `.PKG`. It stalls while the target die's
clock is stopped (23 R450). Lanes that take an effect of the fence leave the issue, and the others execute it again without them, so
that their own lowest lane gives the record. Log 68 (DEDUCED). -/
def postIssue (o : Op) (cont : Bool) (f : Form) (s : State) : Host.Outcome State Fault Refusal :=
  withIssue s fun i t =>
    let u := f.use o
    let ex := t.executing i f.guard
    if t.mustWait i f.guard u then t
    else match ex with
      | [] => t.finish i u []
      | lead :: _ =>
        let b := f.bField o
        let l := t.laneAt i lead
        let entry := l.regPair b
        if !cont && entry.toNat % 4 ≠ 0 then t.finish i u (allOut ex (.eff (misalign i entry 4)))
        else
          let (x, t1) := t.findGlobal (i.lane lead) .load (l.regPair (b + 2))
          match x.loc?, faultOf lead [] x with
          | none, some y =>
            let (id, t2) := t1.holdLanes i ex y.f 1 0 (BitVec.ofNat 64 y.va) false
            t2.finish i u (allOut ex (.held id))
          | none, none => t
          | some a, _ =>
            if !(ex.all fun n => t1.fenceReady (i.lane n) 3 [.lsu]) then t
            else
              let (t2, fx) := t1.fenceLanes i 3 [.lsu] ex
              let dest := if isDevicePa a.pa then (homeDie a.pa, quadFor a.pa) else (i.key.die, quadOf i.key.core)
              if !fx.isEmpty then
                t2.finish i u (ex.map fun n => (n, match lookup fx n with
                  | some e => .eff e
                  | none => .stand i.prio i.pc))
              else if !t2.awake dest.1 then t
              else
                let (ok, t3) := t2.enqueueTask dest.1 dest.2 (t2.taskOf i b cont lead)
                let (t4, outs) := t3.answerAll i f.d.toNat ok ex
                t4.finish i u outs

def execPost (f : Form) (s : State) : Host.Outcome State Fault Refusal := postIssue .post false f s
def execPostCont (f : Form) (s : State) : Host.Outcome State Fault Refusal := postIssue .postCont true f s

/-! Barriers. -/

/-- The instance of a scope that holds a core, by its lowest core's number (01 R15). -/
def scopeInst (scope : Nat) (k : CohKey) : Nat :=
  match scope with
  | 0 => observerOf k
  | 1 => Config.cores * k.die + 4 * quadOf k.core
  | 2 => Config.cores * k.die
  | _ => 0

def Barrier.named (b : Barrier) (pid gang scope inst id : Nat) : Bool :=
  b.pid = pid && b.gang = gang && b.scope = scope && b.inst = inst && b.id = id

def State.barrier (s : State) (pid gang scope inst id : Nat) : Barrier :=
  (s.barriers.find? fun b => b.named pid gang scope inst id).getD ⟨pid, gang, scope, inst, id, 0, 0, 0, []⟩

def State.setBarrier (s : State) (b : Barrier) : State :=
  { s with barriers := (s.barriers.filter fun x => !x.named b.pid b.gang b.scope b.inst b.id) ++ [b] }

/-- An ID that the gang may use at a scope (13 R322). Log 76 (DEDUCED). -/
def State.granted (s : State) (k : CohKey) (scope id : Nat) : Bool :=
  decide (id < barrierIds scope) && match s.gangOf k with
    | some g => g.grants.contains (scope, id)
    | none => false

def phaseBits : Nat := 2 ^ 23

/-- A phase is complete (13 R323). -/
def Barrier.complete (b : Barrier) (phase : Nat) : Bool :=
  let d := (b.phase + phaseBits - phase) % phaseBits
  decide (1 ≤ d) && decide (d < 2 ^ 22)

def tokenOf (scope id phase : Nat) : W32 := BitVec.ofNat 32 (2 ^ 31 + 2 ^ 28 * scope + 2 ^ 23 * id + phase)

/-- The one step of an arrival (13 R324): the token, unless the count differs from the phase's. Log 75 (DEDUCED). -/
def Barrier.arrive (b : Barrier) (n : Nat) (seen : List Nat) : Option (W32 × Barrier) :=
  let exp := if b.arrived = 0 then n else b.exp
  if exp ≠ n then none
  else
    let b1 := { b with exp := exp, seen := seen }
    some (tokenOf b.scope b.id b.phase,
      if b.arrived + 1 = exp then { b1 with phase := (b.phase + 1) % phaseBits, arrived := 0 } else { b1 with arrived := b.arrived + 1 })

/-- A lane arrives: its token, or ILLEGAL. -/
def State.arriveLane (s : State) (i : Issue) (f : Form) (n : Nat) : Option (W32 × State) :=
  match s.cohort? i.key with
  | none => none
  | some c =>
    let scope := f.rs.toNat
    let b := s.barrier (s.pid i.key.die) c.gang scope (scopeInst scope i.key) f.c.toNat
    let mine := (s.laneAt i n).obs
    (b.arrive f.w2.toNat ((b.seen ++ mine.filter fun x => !b.seen.contains x).filter s.inFlight)).map fun r => (r.1, s.setBarrier r.2)

/-- The barrier of a token. -/
def State.tokenBarrier (s : State) (k : CohKey) (token : Nat) : Barrier :=
  let gang := s.gangNo k
  s.barrier (s.pid k.die) gang (bits token 30 28) (scopeInst (bits token 30 28) k) (bits token 27 23)

/-- A wait for the phase of a token: over, or the lane parks; `done` is what completion does to the lane. -/
def State.awaitPhase (s : State) (i : Issue) (o : Op) (f : Form) (n token : Nat) (done : Lane → Lane) : State × LaneOut :=
  let b := s.tokenBarrier i.key token
  if b.complete (bits token 22 0) then ((s.modLane (i.lane n) done).observe (i.lane n) (b.seen.filter s.inFlight), .go .seq)
  else (s.modLane (i.lane n) fun l => { l with arrival := some (parkNote i o f (BitVec.ofNat 64 token)) },
    .park 2 (BitVec.ofNat 64 (bits token 30 28 * 256 + bits token 27 23)))

/-- The token that a BAR's D already holds for its own barrier (13 R325). -/
def heldToken (f : Form) (l : Lane) : Option Nat :=
  let x := l.nat32 f.d.toNat
  if bit x 31 && bits x 30 28 = f.rs.toNat && bits x 27 23 = f.c.toNat then some x else none

def barGranted (f : Form) (i : Issue) (t : State) : Bool := t.granted i.key f.rs.toNat f.c.toNat

def execBar (f : Form) (s : State) : Host.Outcome State Fault Refusal :=
  let done (l : Lane) : Lane := l.setReg f.d.toNat 0
  execFenced .bar f f.rs.toNat (fun i t n => barGranted f i t && (heldToken f (t.laneAt i n)).isNone) (fun i t ns =>
    runLanes (fun u n =>
      if !barGranted f i u then (u, .eff (illegal i 2))
      else match heldToken f (u.laneAt i n) with
        | some x => u.awaitPhase i .bar f n x done
        | none => match u.arriveLane i f n with
          | none => (u, .eff (illegal i 2))
          | some (token, u1) => (u1.modLane (i.lane n) fun l => l.setReg f.d.toNat token).awaitPhase i .bar f n token.toNat done) ns t) s

def execBara (f : Form) (s : State) : Host.Outcome State Fault Refusal :=
  execFenced .bara f f.rs.toNat (fun i t _ => barGranted f i t) (fun i t ns =>
    runLanes (fun u n =>
      match if barGranted f i u then u.arriveLane i f n else none with
      | none => (u, .eff (illegal i 2))
      | some (token, u1) => (u1.modLane (i.lane n) fun l => l.setReg f.d.toNat token, .go .seq)) ns t) s

/-- Log 76 (DEDUCED). -/
def execBarw (f : Form) (s : State) : Host.Outcome State Fault Refusal :=
  execLanes .barw f s fun i t n =>
    let token := (t.laneAt i n).nat32 f.a.toNat
    if !bit token 31 then (t, .go .seq)
    else if !t.granted i.key (bits token 30 28) (bits token 27 23) then (t, .eff (illegal i 2))
    else t.awaitPhase i .barw f n token id

/-! LAUNCH, RBIND, SCALL. -/

def deviceQueueSize : Nat := 64

def execLaunch (f : Form) (s : State) : Host.Outcome State Fault Refusal :=
  let addr (i : Issue) (t : State) (n : Nat) : W64 := (t.laneAt i n).regPair f.a.toNat
  let leadOk (i : Issue) (t : State) : Bool := match t.executing i f.guard with
    | n :: _ => (addr i t n).toNat % 64 = 0
    | [] => true
  execFenced .launch f 5 (fun i t _ => leadOk i t) (fun i t ns =>
    match ns with
    | [] => (t, [])
    | n :: _ =>
      let a := addr i t n
      if a.toNat % 64 ≠ 0 then (t, allOut ns (.eff (misalign i a 64)))
      else
        let d := i.key.die
        if deviceQueueSize ≤ (t.die d).dlq.length then t.answerAll i f.d.toNat false ns
        else (t.modDie d fun x => { x with dlq := x.dlq ++ [64 * bits a.toNat 56 6] }).answerAll i f.d.toNat true ns) s

def execRbind (f : Form) (s : State) : Host.Outcome State Fault Refusal :=
  execLanes .rbind f s fun i t n =>
    let a := (t.laneAt i n).nat32 f.a.toNat
    let b := match t.gangOf i.key with
      | some g => g.binding (bits a 31 30) (bits a 29 24)
      | none => 0
    (t.modLane (i.lane n) fun l => l.setReg f.d.toNat (BitVec.ofNat 32 b), .go .seq)

def offSRQBASE : Nat := 0x8
def offSRQHEAD : Nat := 0x10
def offSRQTAIL : Nat := 0x18

/-- Where the next supervisor request of a die goes. -/
def State.srqSlot (s : State) (d : Nat) : Nat := 16384 * s.dcrBits d offSRQBASE 56 14 + 64 * (s.dcrBits d offSRQTAIL 31 0 % 256)

/-- Enqueue a supervisor request (17 R364); whether there was room. -/
def State.scallEnqueue (s : State) (k : LaneKey) (gang pc : Nat) (service : Nat) (block : W64) : Bool × State :=
  let d := k.coh.die
  let head := s.dcrBits d offSRQHEAD 31 0
  let tail := s.dcrBits d offSRQTAIL 31 0
  if 256 ≤ (tail + 2 ^ 32 - head) % 2 ^ 32 then (false, s)
  else
    let entry := 2 ^ 236 * k.lane + 2 ^ 242 * k.coh.slot + 2 ^ 246 * k.coh.core + 2 ^ 252 * d + 2 ^ 256 * (s.tick % 2 ^ 64) + 2 ^ 320 * pc
      + 2 ^ 384 * block.toNat + 2 ^ 448 * (service % 2 ^ 32) + 2 ^ 480 * gang
    (true, (s.engineStore k (s.srqSlot d) (toBytes entry 64)).setDcr d offSRQTAIL (BitVec.ofNat 64 ((tail + 1) % 2 ^ 32)))

def execScall (f : Form) (s : State) : Host.Outcome State Fault Refusal :=
  let addr (i : Issue) (t : State) (n : Nat) : W64 := (t.laneAt i n).regPair f.a.toNat
  execFenced .scall f 2 (fun i t n => (addr i t n).toNat % 64 = 0) (fun i t ns =>
    runLanes (fun u n =>
      let a := addr i u n
      let gang := u.gangNo i.key
      if a.toNat % 64 ≠ 0 then (u, .eff (misalign i a 64))
      else if !u.homeAwake (u.srqSlot i.key.die) i.key none false then (u, .stall)
      else
        let (ok, u1) := u.scallEnqueue (i.lane n) gang i.pc (bRaw .scall f (u.laneAt i n) false) a
        (u1.modLane (i.lane n) fun l => l.setPred f.d.toNat ok, .go .seq)) ns t) s

end Sys2Proof.Machine
end

