-- ==== Sys2Proof/Machine/Image.lean ====
section
/-! DEFINITION. Halting and restarting a cohort (17 R373), and cohort images: their bytes, saving and restoring (17 R374 to R376,
02 R46, R47; 04 R86). -/

namespace Sys2Proof.Machine

/-! Targets (17 R365, R373). -/

def targetKey (w : Nat) : CohKey := ⟨bits w 13 10, bits w 9 4, bits w 3 0⟩
/-- A supervisor slot (17 R354). -/
def superSlot (k : CohKey) : Bool := k.slot = 15 && superCores.contains k.core
def targetOk (w : Nat) : Bool := w / 2 ^ 14 = 0 && decide ((targetKey w).core < Config.cores) && !superSlot (targetKey w)

/-! Halting. -/

/-- Drain the pending register writes of lanes (03 R59); whether all are drained. -/
def State.drainLanes (s : State) (k : CohKey) : List Nat → Bool × State
  | [] => (true, s)
  | n :: ns =>
    let (a, s1) := s.drainRegs ⟨k, n⟩
    let (b, s2) := s1.drainLanes k ns
    (a && b, s2)

/-- Every running product of a cohort stops (12 R297). -/
def State.stopProducts (s : State) (k : CohKey) : State :=
  foldState (fun (t : State) (op : MatOp) => if op.key = k && op.isProduct then t.stopOp op else t) s.matOps s

def State.laneNumbers (s : State) (k : CohKey) : List Nat :=
  match s.cohort? k with
  | some c => c.lanes.map fun x => x.1
  | none => []

def Cohort.captures (c : Cohort) : Bool := c.lanes.any fun x => match x.2.status with | .capturing _ _ => true | _ => false

/-- PARK and UNPARK records (22 R430). -/
def State.parkRecord (s : State) (k : CohKey) (type halt : Nat) : State :=
  match s.cohort? k with
  | some c => s.alm k.die k.core type k.slot 0 halt (BitVec.ofNat 64 c.gang)
  | none => s

/-- Halt a cohort (17 R373); whether the halt is complete. Log 81 (DEDUCED). -/
def State.halt (s : State) (k : CohKey) : Bool × State :=
  match s.cohort? k with
  | none => (true, s)
  | some c =>
    if c.halted && !c.halting then (true, s)
    else
      let s1 := (s.settleStall k).modCohort k fun x => { x with halted := true, halting := true, active := false, activeCycles := 0 }
      let s2 := s1.retryCaptures k
      let (ok, s3) := s2.drainLanes k (s2.laneNumbers k)
      let s4 := s3.stopProducts k
      let busy := match s4.cohort? k with
        | some x => x.captures
        | none => false
      if ok && !busy then (true, (s4.modCohort k fun x => { x with halting := false }).parkRecord k 0x42 1) else (false, s4)

/-- A parked lane takes what fell due to it while its cohort stood (17 R373). Log 81 (DEDUCED). -/
def State.parkedDues (s : State) (k : CohKey) : List Due :=
  match s.cohort? k with
  | none => []
  | some c => c.lanes.filterMap fun x => match x.2.status with
    | .parked _ _ =>
      if x.2.preemptDue then some (s.due ⟨k, x.1⟩ (preemptEffect x.2.pc))
      else if x.2.limitDue then some (s.due ⟨k, x.1⟩ { limitEffect x.2.pc with cpc := some x.2.pc })
      else none
    | _ => none

/-- Deliver PREEMPT or LIMIT to the parked lanes of a cohort to which one is due (02 R42, 18 R384). -/
def State.deliverParked (s : State) (k : CohKey) : State :=
  if s.stands k then s
  else
    let dues := s.parkedDues k
    let s1 := foldState (fun (t : State) (d : Due) => t.modLane d.key fun l => l.clearDue d.effect) dues s
    s1.deliverAll dues

/-- Reissue the stopped products that a lane lists (12 R298). -/
def State.reissueAll (s : State) (k : LaneKey) : State :=
  match s.lane? k with
  | none => s
  | some l =>
    let s1 := s.setLane k { l with tickets := l.tickets.filter fun t => t.kind ≠ 4 }
    foldState (fun (t : State) y => t.reissue k y) (l.tickets.filter fun t => t.kind = 4) s1

/-- HALTC.GO (17 R373). -/
def State.restart (s : State) (k : CohKey) : State :=
  match s.cohort? k with
  | none => s
  | some c =>
    if !c.halted then s
    else
      let s0 := { s with readied := s.readied + 1 }
      let s1 := (s0.parkRecord k 0x43 1).modCohort k fun x => { x with halted := false, halting := false, readyAt := s.readied }
      let s2 := foldState (fun (t : State) n => t.reissueAll ⟨k, n⟩) (s1.laneNumbers k) s1
      (s2.retryCaptures k).deliverParked k

/-! The bytes of an image (17 R374). -/


def imageLanes : Nat := 0x0500
def imageRegs : Nat := 0x10500
def laneRecordSize : Nat := 1024

/-- The record of a lane in STATE `state`, whose pair is given. Log 77 (DEDUCED). -/
def Lane.record (l : Lane) (state : Nat) (prio : BitVec 8) (pc : Nat) : List Byte :=
  let head := (l.k.flatMap fun x => toBytes x.toNat 8) ++ toBytes l.sp 8 ++ toBytes l.chain 8 ++ toBytes (if state = 1 then 0 else pc) 8
    ++ [BitVec.ofNat 8 state, prio, l.p, l.fflags.setWidth 8, l.frm.setWidth 8, l.fenable.setWidth 8,
        BitVec.ofNat 8 l.shadows.length, BitVec.ofNat 8 l.tickets.length]
    ++ toBytes l.wic.toNat 4
  let withShadows := padEnd 128 head ++ l.shadows.flatMap fun x => toBytes x.encode 8
  padEnd laneRecordSize (padEnd 384 withShadows ++ l.tickets.flatMap fun t => toBytes t.encode 16)

/-- The record of a lane slot. -/
def Cohort.laneRecord (c : Cohort) (n : Nat) : List Byte :=
  match c.lane? n with
  | none => zeros laneRecordSize
  | some l => match entryOf c.frontier n, l.status with
    | some e, _ => l.record 1 e.prio e.pc
    | none, .held _ => l.record 3 l.prio l.pc
    | none, _ => l.record 2 l.prio l.pc

def Cohort.mappedRegs (c : Cohort) : List Nat := (List.range 128).filter c.mapped

/-- The image of a cohort, whose lanes have withdrawn and drained. Log 77 (DEDUCED). -/
def Cohort.imageBytes (c : Cohort) : List Byte :=
  let regs := c.mappedRegs
  let regBytes := regs.flatMap fun n => c.image n
  let occ := (maskOf (c.lanes.map fun x => x.1)).toNat
  let head := 1 + 2 ^ 8 * 64 + 2 ^ 64 * occ + 2 ^ 152 * c.role + 2 ^ 154 * c.member + 2 ^ 160 * c.minR + 2 ^ 168 * c.peak
    + 2 ^ 176 * regs.length + 2 ^ 184 * c.frontier.length + 2 ^ 192 * c.gang + 2 ^ 224 * (imageRegs + regBytes.length)
  let fr := padEnd (0x480 - 64) (c.frontier.flatMap fun e => e.image)
  let map := padEnd 128 (toBytes (regs.foldl (fun m n => m + 2 ^ n) 0) 16)
  toBytes head 64 ++ fr ++ map ++ (List.range Config.width).flatMap c.laneRecord ++ regBytes

/-! Saving (17 R375). -/

/-- The lanes give up their partial work, and list only tickets that are outstanding. Log 43 (DEDUCED). -/
def State.beforeSave (s : State) (k : CohKey) : State :=
  foldState (fun (t : State) n =>
    let t1 := t.withdraw ⟨k, n⟩
    t1.modLane ⟨k, n⟩ fun l => { l with tickets := t1.liveTickets k.die (t1.heapCtx ⟨k, n⟩).gang l.tickets }) (s.laneNumbers k) s

/-- The LSU, matrix and queue writes of a cohort's fibres have left the list: they are applied everywhere, or were rejected. Log 78 (DEDUCED). -/
def State.cohortQuiet (s : State) (k : CohKey) : Bool := s.writes.all fun w => w.src.coh ≠ k || w.path = .cpy

/-- What the fibre of a lane keeps beside its image. -/
def Lane.saved (n : Nat) (l : Lane) : SavedLane :=
  { lane := n, fibre := l.fibre, late := l.late, fenceFx := l.fenceFx, limitDue := l.limitDue, acquires := l.acquires, obs := l.obs
    made := l.made, backs := l.backs }

/-- The lane of an image takes what its fibre kept, and is that fibre again. -/
def SavedLane.restore (x : SavedLane) (l : Lane) : Lane :=
  { l with
    fibre := x.fibre, late := x.late, fenceFx := x.fenceFx, limitDue := x.limitDue, acquires := x.acquires, obs := x.obs, made := x.made
    backs := x.backs }

/-- Accesses of the held lanes of a saved cohort end with their holds (17 R370): a lane waiting for room in the side log too. -/
def State.forgetHolds (s : State) (k : CohKey) : State :=
  let mine := (s.holds.filter fun h => h.coh = k).map fun h => h.id
  s.modCore k.die k.core fun c => { c with sideWait := c.sideWait.filter fun x => !mine.contains x.1 }

/-- The slot is given up after its image is written: the group's pages stay, unpinned; the gang has one more image. -/
def State.leaveSlot (s : State) (k : CohKey) (addr : Nat) : State :=
  match s.cohort? k with
  | none => s
  | some c =>
    let image : SavedImage := ⟨addr, k, c.role, c.member, c.lanes.map fun x => x.2.saved x.1⟩
    let s1 := (s.forgetHolds k).modGang (s.pid k.die) c.gang fun g => { g with images := g.images ++ [image] }
    let s2 := ((s1.forgetCohort k).dropCohort k).alm k.die k.core 0x41 k.slot 0 c.unbindInfo (BitVec.ofNat 64 c.gang)
    ((s2.settlePark k c.gang c.role c.member).sweepPages.settleReserve k.die k.core).settlePreempt k.die

/-! Restoring (17 R376). -/

/-- A frontier entry image (02 R46). -/
def parseEntry (bs : List Byte) : Entry :=
  let x := ofBytes bs
  { prio := BitVec.ofNat 8 (bits x 63 56), pc := 4 * bits x 55 1, mask := BitVec.ofNat 64 (bits x 127 64)
    age := if bit x 0 then agedAt else 0 }

/-- What 02 R47 asks of the entries. -/
def entriesOk : List Entry → Bool
  | [] => true
  | e :: es => e.mask ≠ 0 && (es.all fun x => (x.mask &&& e.mask = 0) && !(x.samePair e.prio e.pc)) && entriesOk es

/-- A lane record: its STATE, and the lane without its registers. -/
structure LaneImage where
  state : Nat
  lane : Lane
  ok : Bool
  deriving DecidableEq, Repr

def allZero (bs : List Byte) : Bool := bs.all fun b => b = 0

def parseLane (bs : List Byte) : LaneImage :=
  let at_ (o n : Nat) : Nat := ofBytes ((bs.drop o).take n)
  let byte (o : Nat) : Nat := at_ o 1
  let shadows := (List.range (byte 94)).map fun j => at_ (128 + 8 * j) 8
  let tickets := (List.range (byte 95)).map fun j => at_ (384 + 16 * j) 16
  let lane : Lane := {
    prio := BitVec.ofNat 8 (byte 89), pc := at_ 80 8 % 2 ^ 57, p := BitVec.ofNat 8 (byte 90)
    k := (List.range 8).map fun j => BitVec.ofNat 64 (at_ (8 * j) 8)
    sp := at_ 64 8, chain := at_ 72 8, fflags := BitVec.ofNat 5 (byte 91), frm := BitVec.ofNat 3 (byte 92)
    fenable := BitVec.ofNat 5 (byte 93), wic := BitVec.ofNat 32 (at_ 96 4)
    shadows := (shadows.map Shadow.decode).filter fun y => y.left ≠ 0, tickets := tickets.map Ticket.decode }
  { state := byte 88, lane := lane
    ok := byte 88 ≤ 3 && byte 94 ≤ 30 && byte 95 ≤ 32 && byte 92 ≤ 4 && byte 91 < 32 && byte 93 < 32
      && allZero ((bs.drop 100).take 28) && allZero ((bs.drop 368).take 16) && allZero ((bs.drop 896).take 128)
      && at_ 80 8 % 4 = 0 && at_ 80 8 / 2 ^ 57 = 0 && at_ 64 8 / 2 ^ 57 = 0 && at_ 72 8 / 2 ^ 57 = 0
      && (shadows.all fun y => bits y 39 39 = 0 && bits y 63 44 = 0)
      && tickets.all fun y => decide (1 ≤ bits y 63 61) && decide (bits y 63 61 ≤ 4) && bits y 60 57 = 0 }

/-- A parsed image: its header fields, entries, lanes that are not empty, and register images. -/
structure CohortImage where
  gang : Nat
  role : Nat
  member : Nat
  minR : Nat
  peak : Nat
  nreg : Nat
  entries : List Entry
  lanes : List (Nat × LaneImage)
  regs : List (Nat × List Byte)
  ok : Bool
  deriving DecidableEq, Repr

/-- Mapped registers of an image. -/
def imageMap (bs : List Byte) : List Nat :=
  let m := ofBytes ((bs.drop 0x480).take 16)
  (List.range 128).filter fun n => m.testBit n

/-- Size of a register image with its padding (04 R86). -/
def regImageSize (fmt : Nat) : Nat := (imageSize fmt + 15) / 16 * 16

/-- Cut the register images apart. -/
def cutRegs : List Nat → List Byte → List (Nat × List Byte)
  | [], _ => []
  | n :: ns, bs =>
    let m := regImageSize (ofBytes (bs.take 1))
    (n, bs.take m) :: cutRegs ns (bs.drop m)

def regImageOk (bs : List Byte) : Bool := ofBytes (bs.take 1) ≤ 4 && allZero ((bs.drop 1).take 7)

/-- Whether the lanes of STATE 1 are those that stand in entries. -/
def standsOk (es : List Entry) (ls : List (Nat × LaneImage)) : Bool :=
  (List.range Config.width).all fun n =>
    let inEntry := (entryOf es n).isSome
    let ready := match lookup ls n with
      | some l => l.state = 1
      | none => false
    inEntry = ready

/-- Log 80 (DEDUCED). -/
def parseImage (bs : List Byte) : CohortImage :=
  let h := ofBytes (bs.take 64)
  let nfr := bits h 191 184
  let es := (List.range nfr).map fun j => parseEntry ((bs.drop (0x40 + 16 * j)).take 16)
  let all := (List.range Config.width).map fun n => (n, parseLane ((bs.drop (imageLanes + laneRecordSize * n)).take laneRecordSize))
  let map := imageMap bs
  let regs := cutRegs map (bs.drop imageRegs)
  { gang := bits h 223 192, role := bits h 153 152, member := bits h 159 154, minR := bits h 167 160, peak := bits h 175 168
    nreg := bits h 183 176, entries := es, lanes := all.filter fun x => x.2.state ≠ 0, regs := regs
    ok := bits h 511 256 = 0 && bits h 151 128 = 0 && bits h 63 16 = 0 && bits h 7 0 = 1 && bits h 15 8 = 64 && nfr ≤ 64
      && bits h 183 176 = map.length && allZero ((bs.drop 0x490).take 112) && entriesOk es && standsOk es all
      && (all.all fun x => x.2.ok) && regs.all fun x => regImageOk x.2 }

/-- A register of a lane in an image. -/
def CohortImage.values (g : CohortImage) (n : Nat) : List (Nat × W32) :=
  g.regs.filterMap fun x =>
    if (ofBytes ((x.2.drop 8).take 8)).testBit n then some (x.1, imageLane (ofBytes (x.2.take 1)) x.2 n) else none

/-- The slot matches the header (17 R376). Log 80 (DEDUCED). Log 82 (DEDUCED). -/
def CohortImage.fits (g : CohortImage) (c : Cohort) : Bool :=
  c.start = 0 && c.lanes.isEmpty && c.gang = g.gang && c.role = g.role && c.member = g.member && c.minR = g.minR && c.peak = g.peak

/-- Put the lanes of an image into a bound, empty slot, where `kept` is what their fibres kept. -/
def State.restoreLanes (s : State) (k : CohKey) (g : CohortImage) (kept : List SavedLane) : List (Nat × LaneImage) → State
  | [] => s
  | (n, x) :: rest =>
    let due := match s.cohort? k with
      | some c => c.preempting
      | none => false
    let e := entryOf g.entries n
    let l : Lane := { x.lane with
      v := g.values n, fibre := s.fibres, stay := s.fibres, preemptDue := due
      prio := match e with | some y => y.prio | none => x.lane.prio
      pc := match e with | some y => y.pc | none => x.lane.pc }
    let l := match kept.find? fun y => y.lane = n with
      | some y => y.restore l
      | none => l
    let s1 := { s with fibres := s.fibres + 1 }.setLane ⟨k, n⟩ l
    let s2 := if e.isSome then s1 else s1.modCohort k fun c => c.insert l.prio l.pc (1#64 <<< n)
    s2.restoreLanes k g kept rest

/-- The saved cohort of a gang that an image is of: the one written at its address, else the first of its group, else the first. -/
def Gang.savedAt (g : Gang) (addr role member : Nat) : Option SavedImage :=
  (g.images.find? fun x => x.addr = addr).or <| (g.images.find? fun x => x.role = role && x.member = member).or g.images.head?

/-- The image is saved no more. -/
def State.useImage (s : State) (pid : Nat) (g : CohortImage) (addr : Nat) : State :=
  s.modGang pid g.gang fun x => match x.savedAt addr g.role g.member with
    | some y => { x with images := x.images.erase y }
    | none => x

/-- A pre-emption of a gang is pending (18 R384). -/
def State.preemptPending (s : State) (pid gang : Nat) : Bool :=
  s.dies.any fun d => s.pid d.1 = pid && match d.2.preempt with
    | some r => r.gangs.contains gang
    | none => false

/-- A cohort of a gang has been committed: its time budget counts again unless a pre-emption is pending (18 R384). -/
def State.recommitted (s : State) (pid gang : Nat) : State :=
  s.modGang pid gang fun g => { g with preempted := s.preemptPending pid gang }

/-- Restore an image into a slot (17 R376). Log 82 (DEDUCED). -/
def State.restore (s : State) (k : CohKey) (g : CohortImage) (addr : Nat) : State :=
  let s1 := { s with readied := s.readied + 1 }.modCohort k fun c => { c with
    frontier := g.entries.foldl (fun (fr : List Entry) (e : Entry) => insertEntry fr e.prio e.pc e.mask e.age) [], readyAt := s.readied }
  let kept := ((s.gang? (s.pid k.die) g.gang).bind fun x => x.savedAt addr g.role g.member).map fun x => x.lanes
  let s2 := (s1.restoreLanes k g (kept.getD []) g.lanes).useImage (s.pid k.die) g addr
  let s3 := foldState (fun (t : State) n => t.reissueAll ⟨k, n⟩) (s2.laneNumbers k) s2
  s3.recommitted (s.pid k.die) g.gang

/-- Bytes of an image, given how to read n bytes of it from an offset. -/
def imageTotal (rd : Nat → Nat → List Byte) : List Nat → Nat → Nat
  | [], n => n
  | _ :: ns, n => imageTotal rd ns (n + regImageSize (ofBytes (rd n 1)))

def imageLength (rd : Nat → Nat → List Byte) : Nat :=
  let m := ofBytes (rd 0x480 16)
  imageTotal rd ((List.range 128).filter fun n => m.testBit n) imageRegs

end Sys2Proof.Machine
end

