-- ==== Sys2Proof/Machine/Bind.lean ====
section
/-! DEFINITION. Bind records, gang contexts, and the commit of a chain (18 R380, R381; 04 R83; 06 R123; 13 R321). -/

namespace Sys2Proof.Machine

/-! Records. -/

/-- What a gang context holds (18 R380). -/
structure GangCtx where
  root : Nat
  grants : List (Nat × Nat)
  table : List W64
  deriving DecidableEq, Repr

/-- How a cohort starts (18 R380). -/
inductive StartKind where
  | code (pc : Nat)
  | tasks (rs : List (BitVec 512))
  | image (addr : Nat) (g : CohortImage)
  | empty
  deriving DecidableEq, Repr

/-- A bind record, with its context and what it starts; `ok` says that its layout is kept. -/
structure BindRec where
  key : CohKey
  gang : Nat
  role : Nat
  member : Nat
  minR : Nat
  peak : Nat
  cls : Nat := 0
  nfib : Nat
  first : Bool
  pages : Nat
  tlimit : Nat := 0
  ctx : GangCtx
  start : StartKind
  ok : Bool := true
  /-- The record as read; 0 for one that the Calends made. -/
  raw : BitVec 512 := 0
  deriving DecidableEq, Repr

/-- Barrier IDs of a grant field. -/
def grantBits (scope x n : Nat) : List (Nat × Nat) := ((List.range n).filter fun i => x.testBit i).map fun i => (scope, i)

def grantsOf (core quad die pkg pod : Nat) : List (Nat × Nat) :=
  grantBits 0 core 16 ++ grantBits 1 quad 16 ++ grantBits 2 die 32 ++ grantBits 3 pkg 32 ++ grantBits 4 pod 16

/-- An entry of a group binding table: unused, or laid out as 18 R380 says. -/
def tableEntryOk (e : W64) : Bool := !e.getLsbD 63 || (bits e.toNat 31 8 = 0 && bits e.toNat 40 32 = 0)

/-- No role and member appear twice. -/
def tableOk : List W64 → Bool
  | [] => true
  | e :: es => (!e.getLsbD 63 || es.all fun x => !(x.getLsbD 63 && bits x.toNat 7 0 = bits e.toNat 7 0)) && tableOk es

/-- Read n bytes at a physical address; nothing when the part has no such memory or the bytes are uncorrectable. -/
def State.readPhys (s : State) (d a n : Nat) : Option Nat :=
  if s.physOk d a && s.physOk d (a + n - 1) && !s.badAt a n then some (s.homeNat a n) else none

/-- A gang context in memory. -/
def State.readCtx (s : State) (d a : Nat) : Option GangCtx :=
  match s.readPhys d a 64 with
  | none => none
  | some x =>
    let gbt := bits x 120 64
    match s.readPhys d gbt 512 with
    | none => none
    | some t =>
      let table := (List.range 64).map fun i => BitVec.ofNat 64 (t / 2 ^ (64 * i))
      let g := grantsOf (bits x 143 128) (bits x 159 144) (bits x 191 160) (bits x 223 192) (bits x 239 224)
      if bits x 511 256 = 0 && bits x 255 240 = 0 && bits x 127 121 = 0 && bits x 63 57 = 0 && x % 4 = 0 && gbt % 512 = 0
          && table.all tableEntryOk && tableOk table then
        some ⟨bits x 56 0, g, table⟩
      else none

def emptyCtx : GangCtx := ⟨0, [], []⟩

/-- An image at a physical address. -/
def State.readImage (s : State) (d a : Nat) : Option CohortImage :=
  match s.readPhys d a imageRegs with
  | none => none
  | some _ =>
    let n := imageLength (fun o m => s.home (a + o) m)
    match s.readPhys d a n with
    | none => none
    | some _ =>
      let g := parseImage (s.home a n)
      if g.ok then some g else none

/-- The reserved bits of a task record are 0 (13 R320; 00 R12). -/
def taskOk (t : BitVec 512) : Bool := bits t.toNat 463 449 = 0

/-- What a record starts, when START, TASKS and IMAGE break no rule. -/
def State.readStart (s : State) (d start tasks image nfib : Nat) : Option StartKind :=
  if start ≠ 0 then (if tasks = 0 && image = 0 && 1 ≤ nfib && nfib ≤ 64 && start % 4 = 0 then some (.code start) else none)
  else if tasks ≠ 0 then
    (if image = 0 && 1 ≤ nfib && nfib ≤ 64 then
      (s.readPhys d tasks (64 * nfib)).bind fun x =>
        let ts := (List.range nfib).map fun i => BitVec.ofNat 512 (x / 2 ^ (512 * i))
        if ts.all taskOk then some (.tasks ts) else none
    else none)
  else if image ≠ 0 then
    (if nfib = 0 && image % 64 = 0 then (s.readImage d image).map fun g => .image image g else none)
  else if nfib = 0 then some .empty else none

/-- A bind record (18 R380), and the address of the next. Log 84 (DEDUCED). -/
def State.readBind (s : State) (d a : Nat) : BindRec × Nat :=
  match s.readPhys d a 64 with
  | none => ({ key := ⟨0, 0, 0⟩, gang := 0, role := 0, member := 0, minR := 0, peak := 0, nfib := 0, first := false, pages := 0
               ctx := emptyCtx, start := .empty, ok := false }, 0)
  | some x =>
    let ctx := if bits x 69 64 = 0 then s.readCtx d (bits x 120 64) else none
    let start := s.readStart d (bits x 56 0) (bits x 248 192) (bits x 447 384) (bits x 348 342)
    ({ key := ⟨bits x 333 330, bits x 329 324, bits x 323 320⟩, gang := bits x 287 256, role := bits x 335 334
       member := bits x 341 336, minR := bits x 359 352, peak := bits x 367 360, cls := bits x 351 349, nfib := bits x 348 342
       first := bit x 374, pages := bits x 373 368, tlimit := bits x 319 288, ctx := ctx.getD emptyCtx, start := start.getD .empty
       raw := BitVec.ofNat 512 x
       ok := ctx.isSome && start.isSome && bits x 511 448 = 0 && bits x 383 375 = 0 && bits x 255 249 = 0 && bits x 191 185 = 0
         && bits x 127 121 = 0 && bits x 63 57 = 0 && bits x 184 128 % 64 = 0 }, bits x 184 128)

/-- Log 84 (DEDUCED). -/
def chainLimit : Nat := 1024

/-- A chain from its first record; one that goes on when n records have been read ends in a malformed record. -/
def State.readChain (s : State) (d : Nat) : Nat → Nat → List BindRec
  | 0, a => [{ (s.readBind d a).1 with ok := false }]
  | n + 1, a =>
    let (r, next) := s.readBind d a
    if r.ok && next ≠ 0 then r :: s.readChain d n next else [r]

/-! Checks. -/

def BindRec.sameGroup (a b : BindRec) : Bool := a.gang = b.gang && a.role = b.role && a.member = b.member

/-- Ranges of a record's fields (18 R380, R381; 04 R82; 19 R407). Log 84 (DEDUCED). -/
def State.bindOk (s : State) (pid : Nat) (rs : List BindRec) (r : BindRec) : Bool :=
  r.ok && 1 ≤ r.minR && r.minR ≤ r.peak && r.peak ≤ 128 && r.pages ≤ 48 && r.nfib ≤ 64 && r.key.core < Config.cores && r.gang ≠ 0
    && s.pid r.key.die = pid && pid ≠ 0 && (rs.all fun x => !x.sameGroup r || x.pages = r.pages)
    && rs.all fun x => x.gang ≠ r.gang || x.tlimit = r.tlimit

/-- The position of the first element that fails. -/
def firstBad (p : α → Bool) : List α → Nat → Option Nat
  | [], _ => none
  | x :: xs, n => if p x then firstBad p xs (n + 1) else some n

/-- Where the groups of a gang are: its binding table, its cohorts and its saved cohorts. -/
def State.coresOf (s : State) (g : Gang) : List (Nat × Nat) :=
  ((g.table.filter fun e => e.getLsbD 63).map fun e => (bits e.toNat 50 47, bits e.toNat 46 41))
    ++ ((s.cohorts.filter fun x => !x.2.priv && x.2.gang = g.id && s.pid x.1.die = g.pid).map fun x => (x.1.die, x.1.core))
    ++ g.images.map fun x => (x.key.die, x.key.core)

/-- A barrier ID is free of other gangs in the instance of its scope that holds a core (18 R381). -/
def State.idFree (s : State) (pid gang : Nat) (k : CohKey) (x : Nat × Nat) : Bool :=
  s.gangs.all fun g => (g.id = gang && g.pid = pid) || !g.grants.contains x
    || (s.coresOf g).all fun c => scopeInst x.1 ⟨c.1, c.2, 0⟩ ≠ scopeInst x.1 k

/-- Pages that a core has granted, and that a record adds. -/
def State.pagesGranted (s : State) (r : BindRec) : List ScratchPage :=
  (s.core r.key.die r.key.core).pages.filter fun p => p.gang = r.gang && p.role = r.role && p.member = r.member
def State.pagesAdded (s : State) (r : BindRec) : Nat := if r.first then r.pages - (s.pagesGranted r).length else 0

/-- The context is that of the gang if it is resident (18 R381). -/
def State.ctxFits (s : State) (pid : Nat) (r : BindRec) : Bool :=
  match s.gang? pid r.gang with
  | some g => g.grants = r.ctx.grants && g.root = r.ctx.root && g.table = r.ctx.table
  | none => true

/-- The slot of a record as it is once the chain is installed; `full` says that what an image names has its registers. -/
def BindRec.reserved (r : BindRec) (full : Bool) : Cohort :=
  let n := match r.start with
    | .image _ g => if full then g.nreg else 0
    | _ => 0
  { gang := r.gang, role := r.role, member := r.member, minR := r.minR, peak := r.peak
    lanes := if n = 0 then [] else [(0, { v := (List.range n).map fun i => (i, 0) })] }

/-- An image fits its record, and its registers need no reserve (04 R84, as 17 R376 has it) beside the records of the chain on its core:
`prev` come before it, and have their registers, and `here` are all. -/
def State.imageFits (s : State) (prev here : List BindRec) (r : BindRec) : Bool :=
  match r.start with
  | .image _ g =>
    let put (t : State) (x : BindRec) : State := t.setCohort x.key (x.reserved (prev.any fun y => y.key = x.key))
    g.gang = r.gang && g.role = r.role && g.member = r.member && g.minR = r.minR && g.peak = r.peak
      && (here.foldl put s).mayGrow r.key 0 g.nreg
  | _ => true

/-- Admission of a record beside those of the chain that its core has reserved already, of all that name it (18 R381, 04 R83, 06 R123). -/
def State.admits (s : State) (pid : Nat) (prev here : List BindRec) (r : BindRec) : Bool :=
  let d := r.key.die
  let c := r.key.core
  let mins := ((s.coreCohorts d c).map fun x => x.2.minR).sum + (prev.map fun x => x.minR).sum + r.minR
  let peak := prev.foldl (fun m x => max m x.peak) (max (s.maxPeak d c) r.peak)
  let pages := (s.core d c).pages.length + (prev.map s.pagesAdded).sum + s.pagesAdded r
  (s.cohort? r.key).isNone && (prev.all fun x => x.key ≠ r.key) && !superSlot r.key
    && decide (mins + peak ≤ Config.physRegs) && decide (pages ≤ 48)
    && s.ctxFits pid r && (prev.all fun x => x.gang ≠ r.gang || x.ctx = r.ctx)
    && (r.ctx.grants.all fun x => s.idFree pid r.gang r.key x) && s.imageFits prev here r

/-- The first record of a chain that a core refuses; cores reserve in increasing order (18 R381). -/
def State.refusedAt (s : State) (pid : Nat) (rs : List BindRec) : Option Nat :=
  let order (k : CohKey) : Nat := Config.cores * k.die + k.core
  let indexed := rs.zip (List.range rs.length)
  let fails (x : BindRec × Nat) : Bool :=
    let here := indexed.filter fun y => y.1.key.die = x.1.key.die && y.1.key.core = x.1.key.core
    !s.admits pid ((here.filter fun y => y.2 < x.2).map fun y => y.1) (here.map fun y => y.1) x.1
  ((indexed.filter fails).foldl (fun (b : Option (BindRec × Nat)) x => match b with
    | none => some x
    | some y => if order x.1.key < order y.1.key then some x else some y) none).map fun x => x.2

/-- Fibres that a record starts afresh, each with a segment (03 R54). -/
def BindRec.segments (r : BindRec) : Nat :=
  match r.start with
  | .code _ => r.nfib
  | .tasks rs => rs.length
  | _ => 0

/-! Installing. -/

/-- A request to pre-empt the cohort of a slot is pending (18 R385). -/
def State.slotPreempts (s : State) (k : CohKey) : Bool := match s.cohort? k with
  | some c => c.preempting
  | none => false

/-- The fibres of a START record, in slots n − 1 down to 0. -/
def State.startCode (s : State) (r : BindRec) (pc : Nat) : Nat → State
  | 0 => s
  | n + 1 =>
    let s1 := s.startCode r pc n
    match startStack ⟨⟨r.key, n⟩, false, r.gang, s1.fibres⟩ r.ctx.root s1 with
    | .ok (x, s2) =>
      s2.placeFibre ⟨r.key, n⟩ { sp := x.1, chain := x.2, preemptDue := s1.slotPreempts r.key } 0x80 pc
    | .error _ => s1.abortFatal ⟨r.key, n⟩ pc

/-- A fibre of a task record (13 R321): its first LSU access acquires at the scope of its POST, `.PKG`. A CONT task stands at the root
handler with the stack of R54, at its root frame and with that frame's PREV as chain head (03 R60). Log 82 (DEDUCED). -/
def State.startTask (s : State) (r : BindRec) (n : Nat) (t : BitVec 512) : State :=
  let f (hi lo : Nat) : W64 := BitVec.ofNat 64 (bits t.toNat hi lo)
  let entry := f 127 64
  let data := f 191 128
  let a0 := f 255 192
  let a1 := f 319 256
  let a2 := f 383 320
  let a3 := f 447 384
  let c : HeapCtx := ⟨⟨r.key, n⟩, false, r.gang, s.fibres⟩
  let due := s.slotPreempts r.key
  match startStack c r.ctx.root s with
  | .error _ => s.abortFatal ⟨r.key, n⟩ (if bit t.toNat 448 then r.ctx.root else entry.toNat)
  | .ok (x, s1) =>
    if bit t.toNat 448 then
      s1.placeFibre ⟨r.key, n⟩
        { sp := x.2, k := [entry, 2, data, 0x8000000000000000, a0, a1, a2, a3], preemptDue := due, acquires := some 3 } 0x80 r.ctx.root
    else
      s1.placeFibre ⟨r.key, n⟩
        { sp := x.1, chain := x.2, k := [data, a0, a1, a2, a3, 0, 0, 0], preemptDue := due, acquires := some 3 } 0x80 (entry.toNat % 2 ^ 57)

def State.startTasks (s : State) (r : BindRec) : Nat → List (BitVec 512) → State
  | _, [] => s
  | n, t :: ts => (s.startTask r n t).startTasks r (n + 1) ts

/-- Role 0 declares the registers of the gang's task cohorts (18 R383). -/
def State.noteRole (s : State) (pid : Nat) (r : BindRec) : State :=
  if r.role = 0 && r.member ≠ 63 then s.modGang pid r.gang fun g => { g with min0 := r.minR, peak0 := r.peak } else s

/-- The gang of a record, made if it is new: its barriers begin at 0 (13 R322). -/
def State.ensureGang (s : State) (pid : Nat) (r : BindRec) : State :=
  State.noteRole (pid := pid) (r := r) <|
  match s.gang? pid r.gang with
  | some _ => s.recommitted pid r.gang
  | none =>
    let g : Gang := {
      id := r.gang, pid := pid, cls := r.cls, root := r.ctx.root, tlimit := r.tlimit, table := r.ctx.table, grants := r.ctx.grants
      committed := s.tick }
    { s with barriers := s.barriers.filter fun b => !(b.gang = r.gang && b.pid = pid), gangs := s.gangs ++ [g] }

/-- A pre-emption of the gang that is pending on the die takes the new slot among its targets (18 R385). -/
def State.joinPreempt (s : State) (k : CohKey) (gang : Nat) : State :=
  match (s.die k.die).preempt with
  | none => s
  | some p =>
    if p.target.getLsbD 63 && bits p.target.toNat 31 0 = gang then
      (s.modDie k.die fun x => { x with preempt := some { p with open_ := p.open_ ++ [k] } }).modCohort k fun c => { c with preempting := true }
    else s

/-- The bind record of a cohort: as read, or as the Calends made it, where the addresses of their own data are not stated. Log 99 (DESIGN CHOICE). -/
def State.bindWords (s : State) (r : BindRec) : BitVec 512 × State :=
  if r.raw ≠ 0 then (r.raw, s)
  else
    let (a, s1) := s.drawValue
    let (b, s2) := s1.drawValue
    let (c, s3) := s2.drawValue
    let start := match r.start with
      | .code pc => pc
      | .tasks _ => 2 ^ 192 * (a.toNat % 2 ^ 57)
      | .image addr _ => 2 ^ 384 * addr
      | .empty => 0
    (BitVec.ofNat 512 (start + 2 ^ 64 * (b.toNat % 2 ^ 51 * 64) + 2 ^ 128 * (c.toNat % 2 ^ 51 * 64) + 2 ^ 256 * r.gang + 2 ^ 288 * r.tlimit
      + 2 ^ 320 * r.key.slot + 2 ^ 324 * r.key.core + 2 ^ 330 * r.key.die + 2 ^ 334 * r.role + 2 ^ 336 * r.member + 2 ^ 342 * r.nfib
      + 2 ^ 349 * r.cls + 2 ^ 352 * r.minR + 2 ^ 360 * r.peak + 2 ^ 368 * r.pages + 2 ^ 374 * (if r.first then 1 else 0)), s3)

/-- Install one record of a chain that is admitted. -/
def State.installBind (s : State) (pid : Nat) (r : BindRec) : State :=
  let held := (s.pagesGranted r).map fun p => p.index
  let s1 := s.ensureGang pid r
  let (word, s2) := (if r.first then s1.grantPages r.key r.gang r.role r.member ((List.range r.pages).filter fun j => !held.contains j) else s1).bindWords r
  let co : Cohort := { gang := r.gang, role := r.role, member := r.member, minR := r.minR, peak := r.peak, cls := r.cls
                       start := match r.start with | .code pc => pc | _ => 0
                       order := s2.nextId, bind := word }
  let image := match r.start with
    | .image _ _ => 1
    | _ => 0
  let s3 := ({ s2 with nextId := s2.nextId + 1 }.setCohort r.key co).alm r.key.die r.key.core 0x40 r.key.slot 0
    (r.member + 64 * r.role + 256 * r.nfib + 2 ^ 15 * image) (BitVec.ofNat 64 r.gang)
  s3.joinPreempt r.key r.gang

/-- Start what an installed record names. -/
def State.startBind (s : State) (r : BindRec) : State :=
  match r.start with
  | .code pc => s.startCode r pc r.nfib
  | .tasks ts => s.startTasks r 0 ts
  | .image addr g => s.restore r.key g addr
  | .empty => s

/-- A CONT task of a gang without a root handler aborts the gang at the bind (13 R321). -/
def BindRec.orphan (r : BindRec) : Bool :=
  r.ctx.root = 0 && match r.start with
    | .tasks ts => ts.any fun t => bit t.toNat 448
    | _ => false

/-- The SYNC of a cohort that binds on a traced core (23 R460). -/
def State.traceBind (s : State) (k : CohKey) : State :=
  match s.cohort? k with
  | some c => if s.traces k.die k.core then s.traceSync k.die k.core k.slot c.frontier else s
  | none => s

def State.startBinds (s : State) : List BindRec → State
  | [] => s
  | r :: rs =>
    if (s.cohort? r.key).isNone then s.startBinds rs
    else if r.orphan then (s.abortGang ⟨r.key, 0⟩ 2 0).startBinds rs
    else ((s.startBind r).traceBind r.key).startBinds rs

/-- The result of a chain: RESULT, INDEX, and the CAUSE of a refusal. -/
structure BindResult where
  result : Nat
  index : Nat := 0
  cause : Nat := 0
  deriving DecidableEq, Repr

/-- A start segment lies in memory whose die is stopped, so that the chain cannot be committed yet (23 R450). -/
def startsWait (c : HeapCtx) (root : Nat) : Nat → State → Bool
  | 0, _ => false
  | n + 1, s => match startStack c root s with
    | .ok (_, s1) => startsWait c root n s1
    | .error .wait => true
    | .error _ => false

/-- Commit a chain on the dies of a partition (18 R381); RESULT 0 says that it has to wait. Log 83 (DEDUCED). -/
def State.commit (s : State) (d : Nat) (rs : List BindRec) : BindResult × State :=
  let pid := s.pid d
  match firstBad (s.bindOk pid rs) rs 0 with
  | some n => (⟨3, n, 2⟩, s)
  | none =>
    match s.refusedAt pid rs with
    | some n => (⟨2, n, 0⟩, s)
    | none =>
      let c : HeapCtx := ⟨⟨⟨d, 0, 0⟩, 0⟩, false, 0, s.fibres⟩
      let need := (rs.map fun r => r.segments).sum
      if need ≠ 0 && c.freeCount s < need + c.reserve s then (⟨2, 0, 0⟩, s)
      else if startsWait c 1 need s then (⟨0, 0, 0⟩, s)
      else (⟨1, 0, 0⟩, (foldState (fun (t : State) r => t.installBind pid r) rs s).startBinds rs)

/-! CAL_BIND. -/

def offBINDST : Nat := 0x68

/-- The result of a chain, in CAL_BINDST and the scheduler Almanac (22 R431). Log 83 (DEDUCED). -/
def State.reportBind (s : State) (d gang : Nat) (r : BindResult) : State :=
  if r.result = 0 then s
  else (s.setDcr d offBINDST (BitVec.ofNat 64 (r.result + 2 ^ 8 * (r.index % 256) + 2 ^ 16 * r.cause))).almSched d 0x81
    (r.result + 4 * (r.index % 256) + 2 ^ 10 * r.cause) (BitVec.ofNat 64 gang)

/-- Submit the chain at a physical address. Log 114 (DEDUCED). Log 128 (DEDUCED). -/
def State.submitChain (s : State) (d a : Nat) : BindResult × State :=
  let rs := s.readChain d chainLimit a
  let (r, s1) := if a % 64 ≠ 0 then (⟨3, 0, 2⟩, s) else if s.ckState (s.pid d) ≠ 0 then (⟨2, 0, 0⟩, s) else s.commit d rs
  (r, s1.reportBind d (match rs with | x :: _ => x.gang | [] => 0) r)

end Sys2Proof.Machine
end

