-- ==== Sys2Proof/Machine/Preempt.lean ====
section
/-! DEFINITION. Pre-emption (02 R42; 18 R385, R386), time limits (18 R384), and CAL_BIND. -/

namespace Sys2Proof.Machine

def offIMGBASE : Nat := 0x78

/-- Whether a die is awake: it is powered and its clocks run. -/
def State.calendsAwake (s : State) (d : Nat) : Bool := decide (d < Config.dies) && s.sec.powered && !(s.die d).stopped

/-! Requests. -/

/-- The slots that a CAL_PREEMPT value targets (18 R385): bound, and no supervisor's. -/
def State.preemptTargets (s : State) (d : Nat) (v : W64) : List CohKey :=
  if v.getLsbD 63 then
    (s.cohorts.filter fun x => x.1.die = d && !x.2.priv && x.2.gang = bits v.toNat 31 0).map fun x => x.1
  else
    let k : CohKey := { targetKey (bits v.toNat 13 0) with die := d }
    match s.cohort? k with
    | some c => if c.priv then [] else [k]
    | none => []

/-- PREEMPT falls due to every fibre of a target; its products stop (02 R42, 12 R297). -/
def State.preemptCohort (s : State) (k : CohKey) : State :=
  let all (c : Cohort) : Cohort := { c with
    preempting := true
    lanes := c.lanes.map fun (x : Nat × Lane) => (x.1, { x.2 with preemptDue := true }) }
  let gang := s.gangNo k
  let s1 := s.alm k.die k.core 0x44 k.slot 0 0 (BitVec.ofNat 64 gang)
  ((s1.stopProducts k).modCohort k all).deliverParked k

/-- A write of CAL_PREEMPT; ignored while a request is pending. -/
def State.requestPreempt (s : State) (d : Nat) (v : W64) : State :=
  match (s.die d).preempt with
  | some _ => s
  | none =>
    let ks := s.preemptTargets d v
    let gangs := dedup ((if v.getLsbD 63 then [bits v.toNat 31 0] else [])
      ++ ks.filterMap fun k => (s.cohort? k).map fun c => c.gang)
    let p : PreemptReq := { target := v, left := 50000, open_ := ks, forced := 0, gangs := gangs }
    let s1 := ((s.modDie d fun x => { x with preempt := some p }).setDcr d offPRST 1).almSched d 0x82 0 v
    let note (t : State) (g : Nat) : State := t.modGang (s.pid d) g fun x => { x with preempted := true }
    let s2 := if ks.isEmpty then s1 else foldState note gangs s1
    (foldState (fun (t : State) k => t.preemptCohort k) ks s2).settlePreempt d

def execCalPreempt (die : Nat) (v : W64) (s : State) : Host.Outcome State Fault Refusal :=
  .next (if s.calendsAwake die then s.requestPreempt die v else s)

/-! The deadline. -/

/-- Where the forced image of a slot goes (18 R385). -/
def State.forcedPlace (s : State) (k : CohKey) : Nat := 2 ^ 17 * s.dcrBits k.die offIMGBASE 56 17 + 0x20000 * (16 * k.core + k.slot)

/-- An engine of the die writes bytes from the start of a granule on, over n granules. -/
def State.engineStores (s : State) (k : LaneKey) (a : Nat) : Nat → List Byte → State
  | 0, _ => s
  | n + 1, bs => (s.engineStore k a (bs.take granuleBytes)).engineStores k (a + granuleBytes) n (bs.drop granuleBytes)

/-- The forced save of one target (18 R385): halted, saved, and its slot released. A halt that cannot end yet, or a write of its fibres that is
still in flight, leaves it for later. Log 78 (DEDUCED). -/
def State.forceSave (s : State) (k : CohKey) : State :=
  if !s.slotPreempts k then s
  else
    match s.halt k with
    | (false, s1) => s1
    | (true, s1) =>
      let at_ := s1.forcedPlace k
      if !(s1.cohortQuiet k && s1.homeAwake at_ k none false) then s1
      else
        let s2 := s1.beforeSave k
        match s2.cohort? k with
        | none => s2
        | some c =>
          let s3 := (((s2.endPark k c.gang c.role c.member).engineStores ⟨k, 0⟩ at_ 2 c.imageBytes)).alm k.die k.core 0x44 k.slot 0 1
            (BitVec.ofNat 64 c.gang)
          let s4 := s3.modDie k.die fun x => { x with preempt := x.preempt.map fun p => { p with forced := p.forced + 1 } }
          s4.leaveSlot k at_

def execPreemptDeadline (die : Nat) (s : State) : Host.Outcome State Fault Refusal :=
  match (s.die die).preempt with
  | none => .next s
  | some p =>
    .next (if p.left = 0 && s.calendsAwake die then
      (foldState (fun (t : State) k => t.forceSave k) p.open_ s).settlePreempt die
    else s)

/-! Time limits. -/

/-- The cohorts of a gang. -/
def State.gangCohorts (s : State) (g : Gang) : List CohKey :=
  (s.cohorts.filter fun x => !x.2.priv && x.2.gang = g.id && s.pid x.1.die = g.pid).map fun x => x.1

/-- The budget of a gang has run out, and the dies of its cohorts are awake (18 R384, 23 R450). -/
def State.limitNow (s : State) (g : Gang) : Bool :=
  g.tlimit ≠ 0 && !g.limitFired && decide (1000 * g.tlimit ≤ g.used) && (s.gangCohorts g).all fun k => s.awake k.die

/-- LIMIT falls due to every fibre of a gang (18 R384), those in images too. -/
def State.limitGang (s : State) (g : Gang) : State :=
  let all (c : Cohort) : Cohort := { c with lanes := c.lanes.map fun (x : Nat × Lane) => (x.1, { x.2 with limitDue := true }) }
  let saved (x : SavedImage) : SavedImage := { x with lanes := x.lanes.map fun (l : SavedLane) => { l with limitDue := true } }
  let s1 := s.modGang g.pid g.id fun x => { x with limitFired := true, images := x.images.map saved }
  foldState (fun (t : State) k => (t.modCohort k all).deliverParked k) (s.gangCohorts g) s1

def execGangTimeLimit (gang : Nat) (s : State) : Host.Outcome State Fault Refusal :=
  match s.gangs.find? fun g => g.id = gang && s.limitNow g with
  | some g => .next (s.limitGang g)
  | none => .next s

/-! CAL_BIND. -/

def execCalBind (die : Nat) (v : W64) (s : State) : Host.Outcome State Fault Refusal :=
  .next (if s.calendsAwake die then (s.submitChain die (64 * bits v.toNat 56 6)).2 else s)

end Sys2Proof.Machine
end

