-- ==== Sys2Proof/Machine/Time.lean ====
section
/-! DEFINITION. The passing of reference ticks (01 R18): core cycles of each die with `$cyc` and `$ncyc` (04 R88), ages (02 R36),
parked cycles (02 R40), the active set (02 R43), and every time that is counted in ticks (18 R384, R385; 19 R396; 23 R450; 24
R468; 25 R478). -/

namespace Sys2Proof.Machine

/-- `$ncyc` increment per core cycle of a step (04 R88). -/
def incOf (step : Nat) : Nat := [109227, 100825, 93623, 87381, 81920, 77101, 72818, 68985, 65536].getD step 65536

/-- One tick of a die: its core cycles, and the die after it. A relock or a stop lets no cycle pass. Log 50 (DEDUCED). -/
def Die.tick (x : Die) : Nat × Die :=
  if x.stopped then (0, { x with stopTicks := x.stopTicks + 1 })
  else
    let y := { x with
      preempt := x.preempt.map fun (p : PreemptReq) => { p with left := p.left - 1 }
      heads := x.heads.map fun (h : LaunchHead) => { h with waited := h.waited + 1, retry := h.retry - 1 }
      requeue := x.requeue.map fun (g : Nat × Nat) => (g.1, g.2 - 1)
      postWait := (x.postWait.map fun (q : Nat × Nat) => (q.1, q.2 - 1)).filter fun q => q.2 ≠ 0 }
    let z := { y with relock := x.relock.map fun (r : Relock) => { r with left := r.left - 1 } }
    if x.relocking then (0, z)
    else
      let t := x.tenths + 12 + x.step
      let n := t / 10
      (n, { z with tenths := t % 10, cyc := x.cyc + BitVec.ofNat 64 n, ncyc := x.ncyc + BitVec.ofNat 64 (n * incOf x.step) })

/-- Parked cycles of a lane (02 R40). -/
def Lane.parkedFor (l : Lane) (n : Nat) : Lane :=
  match l.status with
  | .parked _ _ => { l with parkedCycles := l.parkedCycles + n }
  | _ => l

/-- Core cycles pass for a cohort: none of its counts move while it is halted or its group is parked (17 R373, 23 R457), nor do those
of lanes at barriers while another group of the gang is parked. -/
def Cohort.cycles (c : Cohort) (n : Nat) (gangParked : Bool) : Cohort :=
  let wait (l : Lane) : Lane := match l.status with
    | .parked 2 _ => if gangParked then l else l.parkedFor n
    | _ => l.parkedFor n
  let c1 := { c with lanes := c.lanes.map fun (x : Nat × Lane) => (x.1, wait x.2) }
  if c.active then { c1.ageBy n with activeCycles := c.activeCycles + n } else c1

/-- Whether a tick counts toward a gang's time limit (18 R384, 23 R450, R457). -/
def State.budgetRuns (s : State) (g : Gang) : Bool :=
  g.tlimit ≠ 0 && !g.limitFired && !g.preempted && !s.gangParked g.pid g.id
    && (s.dies.all fun d => !(s.pid d.1 = g.pid && d.2.stopped))

/-- The wait of a partition's checkpoint for its buddy counts, as no die of the partition is stopped (23 R450). -/
def State.ckWaits (s : State) (x : Nat × Ck) : Bool := x.2.state = 3 && s.dies.all fun d => !(s.pid d.1 = x.1 && d.2.stopped)

/-- One reference tick, which every core and die counts at once: `$tick` may differ by one tick between them (04 R88, R89; 00 R8), and does
not in this model. Log 4 (DESIGN CHOICE). Log 155 (DESIGN CHOICE). -/
def State.tickOnce (s : State) : State :=
  let moved := (List.range Config.dies).map fun d => (d, (s.die d).tick)
  let cyclesOf (d : Nat) : Nat := match lookup moved d with
    | some x => x.1
    | none => 0
  let cohorts := s.cohorts.map fun (x : CohKey × Cohort) =>
    if x.2.halted || s.groupParked x.1 x.2 || cyclesOf x.1.die = 0 then x
    else (x.1, x.2.cycles (cyclesOf x.1.die) (!x.2.priv && s.gangParked (s.pid x.1.die) x.2.gang))
  let gangs := s.gangs.map fun g => if s.budgetRuns g then { g with used := g.used + 1 } else g
  State.traceTick (State.almCatchUp { s with
    tick := s.tick + 1
    arbiter := s.arbiter + 1
    dies := moved.map fun x => (x.1, x.2.2)
    cohorts := cohorts
    gangs := gangs
    cks := s.cks.map fun (x : Nat × Ck) => if s.ckWaits x then (x.1, { x.2 with waited := x.2.waited + 1 }) else x })

/-- The tick at which a boot stage begins (25 R473). -/
def stageTick (n : Nat) : Nat :=
  [0, 0, 2000000, 40000000, 60000000, 160000000, 200000000, 210000000, 220000000, 230000000].getD n 0

/-- The next boot stage begins at this tick (25 R473). Log 106 (DEDUCED). -/
def State.bootDue (s : State) : Bool := s.sec.powered && decide (s.sec.stage < 9) && decide (stageTick (s.sec.stage + 1) ≤ s.tick)

def arbiterTicks : Nat := 10000

/-- The arbiter, which runs from boot stage 7 on with the clock of die 0, passes at this tick (25 R473, R478). -/
def State.arbiterDue (s : State) : Bool :=
  s.clocked 0 && decide (7 ≤ s.sec.stage) && decide (s.sec.stage < 15) && decide (arbiterTicks ≤ s.arbiter)

/-- A started cut has still to reach a die whose clock runs, at the latest by this tick (22 R435). -/
def State.cutDue (s : State) (c : Cut) : Bool :=
  c.started && (List.range Config.dies).any fun d =>
    !c.notified.contains d && s.awake d && decide (c.t0 + 10 + 8 * hops c.origin d ≤ s.tick)

/-- The deadline of a pre-emption has come, and a target of it is not yet halted (18 R385). -/
def State.deadlineDue (s : State) (d : Nat × Die) : Bool := match d.2.preempt with
  | none => false
  | some p => p.left = 0 && s.calendsAwake d.1 && p.open_.any fun k => match s.cohort? k with
      | some c => c.preempting && !c.halted
      | none => false

/-- Something has to happen at this very tick: a relock ends (01 R18), a die stops or the stopped dies go on (23 R450, R451), a cut
reaches a die or Almanacs freeze (22 R435), a time limit falls due (18 R384), the targets of a pre-emption are halted (18 R385), the
arbiter passes (25 R478), or a boot stage begins (25 R473). Time does not pass before it has. Log 4 (DESIGN CHOICE). -/
def State.timeWaits (s : State) : Bool :=
  s.sec.powered
    && ((s.dies.any fun d => match d.2.relock with
          | some r => r.left = 0 && !d.2.stopped
          | none => false)
      || (s.sol.stopped && s.sol.resuming && decide (s.sol.resumeAt.toNat ≤ s.tick))
      || (s.sol.arm && decide (s.sol.stopAt.toNat ≤ s.tick)
          && (List.range Config.dies).any fun d => (s.sol.dies = 0 || s.sol.dies.getLsbD d) && !(s.die d).stopped)
      || (s.cuts.any fun c => s.cutDue c
          || (c.started && decide (c.t0 + 256 ≤ s.tick) && c.dies.any fun d => !c.frozen.contains d && s.awake d))
      || s.gangs.any s.limitNow || s.dies.any s.deadlineDue || s.arbiterDue || s.bootDue)

/-- Reference ticks pass. Log 4 (DESIGN CHOICE). -/
def State.elapse (s : State) : Nat → State
  | 0 => s
  | n + 1 => if s.timeWaits then s else s.tickOnce.elapse n

end Sys2Proof.Machine
end

