-- ==== Sys2Proof/Machine/Fetch.lean ====
section
/-! DEFINITION. How an issue comes about: the active set (02 R43), the entry a cohort takes (02 R34, R36, R42), what is raised before
it issues (03 R58), the fetch, and the checks of an instruction's words (08 R180). -/

namespace Sys2Proof

/-- Privileged instructions (08 R180, 17 R365). -/
def Op.privileged (o : Op) : Bool := o.rule.maj = 0x3E

/-- Instructions that privileged mode refuses (17 R355). -/
def Op.userOnly (o : Op) : Bool :=
  [Op.install, .uninst, .resume, .drop, .spawn, .post, .postCont, .launch, .scall].contains o

/-- Cause 2 checks that depend on the mode: instructions that privileged mode refuses, and trap registers (17 R355, R356). -/
def Instr.modeOk (i : Instr) (priv : Bool) : Bool :=
  match i.op with
  | some .sread => priv || i.form.a.toNat < 16
  | some .swrite => priv || i.form.d.toNat < 16
  | some o => !(priv && o.userOnly)
  | none => true

/-- Registers below the kernel's peak (04 R82). -/
def Instr.belowPeak (i : Instr) (peak : Nat) : Bool :=
  match i.op with
  | some .pair => i.pairForm.belowPeak peak
  | some o => i.form.belowPeak o peak
  | none => true

/-- The registers pass cause 1 in the mode: a trap register is wide where it is a register at all, and its number reserved in user mode,
where one register is named (09 R204, R205; 17 R356). -/
def Instr.regsOk (i : Instr) (peak : Nat) (priv : Bool) : Bool :=
  match i.op with
  | some o =>
    if o ≠ .pair && i.form.trapReg o then
      if priv then i.form.runsAligned o && i.belowPeak peak else (i.form.runs o).all (·.first < peak)
    else i.belowPeak peak
  | none => true

/-- The cause of ILLEGAL for an instruction, if any, in the order of 08 R180. -/
def Instr.illegalCause (i : Instr) (peak : Nat) (priv : Bool) : Option Nat :=
  if !i.regsOk peak priv then some 1
  else if (match i.op with | some o => o.privileged | none => false) && !priv then some 3
  else if !i.wf || !i.modeOk priv then some 2
  else none

end Sys2Proof

namespace Sys2Proof.Machine

/-! The active set. -/

def activePlaces : Nat := 4

/-- Whether an active cohort may be displaced (02 R43). -/
def Cohort.displaceable (c : Cohort) : Bool := c.active && (c.frontier.isEmpty || 4096 ≤ c.activeCycles)

/-- Among two displaceable cohorts the one that leaves (02 R43). -/
def leavesFirst (a b : CohKey × Cohort) : Bool :=
  if a.2.frontier.isEmpty ≠ b.2.frontier.isEmpty then a.2.frontier.isEmpty
  else if a.2.activeCycles ≠ b.2.activeCycles then b.2.activeCycles < a.2.activeCycles
  else a.1.slot < b.1.slot

/-- The best element of a list by an order. -/
def best (before : α → α → Bool) : List α → Option α
  | [] => none
  | x :: xs => match best before xs with
    | none => some x
    | some y => if before y x then some y else some x

/-- Ready cohorts of a core outside the active set that may issue. -/
def State.waiting (s : State) (d c : Nat) : List (CohKey × Cohort) :=
  (s.coreCohorts d c).filter fun x => !x.2.active && !x.2.frontier.isEmpty && !x.2.halted

/-- The first waiting cohort enters the active set of its core, if a place is free or a cohort may leave (02 R43). -/
def State.displace (s : State) (d c : Nat) : State :=
  match best (fun a b : CohKey × Cohort => a.2.readyAt < b.2.readyAt) (s.waiting d c) with
  | none => s
  | some x =>
    let enter (t : State) : State := t.modCohort x.1 fun y => { y with active := true, activeCycles := 0 }
    let now := (s.coreCohorts d c).filter fun y => y.2.active
    if now.length < activePlaces then enter s
    else
      match best leavesFirst (now.filter fun y => y.2.displaceable) with
      | none => s
      | some y =>
        enter ({ s with readied := s.readied + 1 }.modCohort y.1 fun z => { z with active := false, activeCycles := 0, readyAt := s.readied })

def execActiveSetDisplace (die core : Nat) (s : State) : Host.Outcome State Fault Refusal :=
  .next (if s.awake die then s.displace die core else s)

/-- A cohort that is not active asks for a place. -/
def State.enterActive (s : State) (k : CohKey) : State :=
  match s.cohort? k with
  | some c => if c.active then s else s.displace k.die k.core
  | none => s

/-! Ageing. -/

/-- ENTRY_AGED: the entry has reached its age (02 R36), which selection reads; nothing else changes. An entry that has not is not
aged by the step. -/
def execEntryAged (_c : CohKey) (_prio : BitVec 8) (_pc : Nat) (s : State) : Host.Outcome State Fault Refusal := .next s

/-! The issue. -/

/-- What an issue comes to: it is over, or an instruction (or a step at the boundary) runs in the state with the entry issuing. -/
inductive Prepared where
  | ended (s : State)
  | run (i : Instr) (s : State)
  deriving DecidableEq, Repr

/-- The lanes of the entry take one effect. -/
def State.raiseAll (s : State) (i : Issue) (e : Effect) : State := s.handOut i (i.lanes.map fun n => (n, e))

/-- A fetch fails (08 R164, 17 R355): the lanes are held, or take an effect. Log 49 (DEDUCED). -/
def State.fetchFail (s : State) (i : Issue) : Fetched → State
  | .fault f va =>
    let (id, t) := s.holdLanes i i.lanes f 0 5 va false
    t.finish i {} (i.lanes.map fun n => (n, .held id))
  | .logged ns f va =>
    let (id, t) := s.holdLanes i ns f 0 5 va false
    t.finish i {} (i.lanes.map fun n => (n, if ns.contains n then .held id else .stand i.prio i.pc))
  | .raise e => s.raiseAll i e
  | .word _ => s

/-- Check the words of the entry's instruction and run it (08 R180). -/
def State.checkWords (s : State) (i : Issue) (peak : Nat) (priv : Bool) (bs : List Byte) : Prepared :=
  match decode bs with
  | .error _ => .ended (s.raiseAll i (illegal i 1))
  | .ok (ins, _) =>
    match ins.illegalCause peak priv with
    | some n => .ended (s.raiseAll i (illegal i n))
    | none => .run ins { s with issue := some i }

/-- Fetch the entry's instruction and check it. -/
def State.fetchEntry (s : State) (i : Issue) (c : Cohort) : Prepared :=
  match s.fetchWords i.key c.priv i.lanes i.pc i.pc 1 with
  | (.error x, t) => .ended (t.fetchFail i x)
  | (.ok ws, t) =>
    let w := ws.headD 0
    let i1 := { i with bytes := wordLength w, word := w }
    match t.fetchWords i.key c.priv i.lanes i.pc (i.pc + 4) ((wordLength w - 4) / 4) with
    | (.error x, t1) => .ended (t1.fetchFail i1 x)
    | (.ok rest, t1) => t1.checkWords i1 c.peak c.priv ((w :: rest).flatMap wordBytes)

/-- A QTRY of a lane of the entry has taken an entry whose predicate is still to be written (11 R276). -/
def State.owesPred (s : State) (k : CohKey) (mask : W64) : Bool :=
  s.qwaits.any fun q => q.key.coh = k && q.pred.isSome && mask.getLsbD q.key.lane

/-- The entry a cohort has selected issues. -/
def State.startEntry (s : State) (k : CohKey) (c : Cohort) (e : Entry) : Prepared :=
  let i : Issue := { key := k, prio := e.prio, pc := e.pc, mask := e.mask, age := e.age, bytes := 4, word := 0 }
  let t := s.takeAtomics k e.mask
  if !(t.lateFx i).isEmpty then .run .lateEffect { t with issue := some i }
  else if t.boundaryFx i ≠ .none then .run .boundaryEffect { t with issue := some i }
  else if t.heldAlone k e.mask || t.owesPred k e.mask then .ended t
  else t.fetchEntry i c

/-- A copy whose issue stalled part-way goes on (11 R265): nothing else of its cohort issues, nor is raised, until it ends. Log 135 (DEDUCED). -/
def State.resumeStall (s : State) (k : CohKey) (st : Stall) : Prepared :=
  .run st.instr { s with issue := some { key := k, prio := st.prio, pc := st.pc, mask := st.mask, age := 0, bytes := st.bytes, word := st.word } }

/-- A cohort whose issue stalled part-way: at a FREEZE or THAW, what has fallen due to a lane that has not started is delivered first, and
the stalled issue is cut short (11 R271). -/
def State.prepareStall (s : State) (k : CohKey) (st : Stall) : Prepared :=
  let rest := st.mask &&& ~~~maskOf st.started
  let i : Issue := { key := k, prio := st.prio, pc := st.pc, mask := rest, age := 0, bytes := st.bytes, word := st.word }
  if st.yields && (!(s.lateFx i).isEmpty || !(s.dueFx i).isEmpty) then .ended (s.settleStall k)
  else s.resumeStall k st

/-- A cohort's turn to issue. -/
def State.prepare (s : State) (k : CohKey) : Prepared :=
  match s.cohort? k with
  | none => .ended s
  | some c =>
    if !s.awake k.die || c.halted || (!c.priv && decide (4 ≤ s.ckState (s.pid k.die))) || s.groupParked k c || c.frontier.isEmpty then .ended s
    else
      let t := s.enterActive k
      match t.cohort? k with
      | none => .ended t
      | some c1 =>
        if !c1.active then .ended t
        else match c1.stall, c1.select with
          | some st, _ => t.prepareStall k st
          | none, none => .ended t
          | none, some e => t.startEntry k c1 e

/-- What follows an issue: trace and sampling. `old` is the state in which the entry issued. -/
def State.issued (s old : State) : State :=
  match old.issue with
  | some i =>
    if s.issues = old.issues then s
    else
      let fr := match old.cohort? i.key with
        | some c => c.frontier
        | none => []
      (s.traceIssue i fr).sampleIssue old i
  | none => s

/-! Where an instruction is placed for the step to run it. -/

/-- Where `withFetchWord` puts an instruction and the tables that map it. Log 6 (DESIGN CHOICE). -/
def placedAt : Nat := 0x20000
def placedRoot : Nat := 0x10000
/-- Where it puts the region owner table and the freeze counts of die 0 (19 R408, R409). Log 6 (DESIGN CHOICE). -/
def placedOwners : Nat := 0x18000
/-- Log 6 (DESIGN CHOICE). -/
def placedCounts : Nat := 0x100000

/-- Code in memory at `placedAt`. Log 6 (DESIGN CHOICE). -/
def State.placeCode (s : State) (bs : List Byte) : State := { s with mem := Memory.writeN s.mem placedAt bs }

/-- A page table that maps the low 512 GiB to themselves: a root entry, and a leaf of level 3 that permits everything. Log 6 (DESIGN CHOICE). -/
def State.identityMap (s : State) : State :=
  let m := Memory.writeN s.mem placedRoot (toBytes (1 + 1024 * ((placedRoot + 4096) / 4096)) 8)
  { s with mem := Memory.writeN m (placedRoot + 4096) (toBytes 0xDF 8) }

/-- One fibre, ready at `placedAt` in an active cohort of a slot. Log 6 (DESIGN CHOICE). -/
def State.placeCohort (s : State) (k : CohKey) (priv : Bool) : State :=
  s.setCohort k { gang := 1, priv := priv, lanes := [(0, { pc := placedAt })], frontier := [⟨0x80, placedAt, 1, 0⟩], active := true,
                  start := placedAt }

/-- The instruction stands where the next step fetches (a supervisor slot for privileged instructions). Log 6 (DESIGN CHOICE). -/
def State.placeInstruction (s : State) (priv : Bool) (bs : List Byte) : State :=
  let k : CohKey := ⟨0, 0, if priv then 15 else 0⟩
  let s1 := ((s.placeCode bs).setDcr 0 offMEMTOP (BitVec.ofNat 64 (2 ^ 36))).placeCohort k priv
  let s2 := if priv then s1
    else
      let s3 := (((s1.identityMap).setDcr 0 offATP (BitVec.ofNat 64 (10 * 2 ^ 60 + placedRoot / 4096))).setDcr 0 offPART 1)
      { (s3.setDcr 0 offROTBASE (BitVec.ofNat 64 placedOwners)).setDcr 0 offFRZMAPBASE (BitVec.ofNat 64 placedCounts) with
        mem := Memory.writeN s3.mem placedOwners (toBytes 1 2) }
  { s2 with agenda := [.issue k] }

end Sys2Proof.Machine
end

