-- ==== Sys2Proof/Machine/Calends.lean ====
section
/-! DEFINITION. The Calends: launch queues (18 R378), launch records (18 R379), placement (18 R383), task records (13 R321, 18 R382,
R383) and the passes of the shipped firmware (18 R387). -/

namespace Sys2Proof.Machine

def offHLQBASE : Nat := 0x40
def offHLQHEAD : Nat := 0x48
def offHLQTAIL : Nat := 0x50

/-! Queues. -/

/-- The tail write of the host queue (18 R378). -/
def State.writeHlqTail (s : State) (d : Nat) (v : W64) : State :=
  let tail := v.toNat % 2 ^ 32
  let head := s.dcrBits d offHLQHEAD 31 0
  if 2 ^ s.dcrBits d offHLQBASE 4 0 < (tail + 2 ^ 32 - head) % 2 ^ 32 then s else s.setDcr d offHLQTAIL (BitVec.ofNat 64 tail)

def execCalHlqtail (die : Nat) (v : W64) (s : State) : Host.Outcome State Fault Refusal :=
  .next (if s.calendsAwake die then s.writeHlqTail die v else s)

/-- Read n bytes of the partition's memory, within one page; nothing when it cannot be read. -/
def State.readVirt (s : State) (d va n : Nat) : Option Nat × State :=
  match s.translate d noCore (va57 va) .load with
  | (.ok x, s1) => (if s1.badAt x.pa n then none else some (s1.homeNat x.pa n), s1)
  | (.error _, s1) => (none, s1)

/-- A launch entry that cannot be read is dropped (18 R378, 22 R431). -/
def State.dropLaunch (s : State) (d va : Nat) : State := s.almSched d 0x84 0 (BitVec.ofNat 64 va)

/-- The status doubleword of a launch record (18 R379). -/
def statusWord (state cause gang : Nat) : Nat := 2 ^ 8 * cause + state + 2 ^ 32 * gang

/-- Write the status of a record; whether it could be written. -/
def State.writeStatus (s : State) (d va state cause gang : Nat) : Bool × State :=
  match s.translate d noCore (va57 (va + 56)) .store with
  | (.ok x, s1) => (true, s1.engineStore ⟨⟨d, 0, 0⟩, 0⟩ x.pa (toBytes (statusWord state cause gang) 8))
  | (.error _, s1) => (false, s1)

/-- The memory that the Calends reach at an address is on a die whose clock runs (23 R450); what does not translate is no memory. -/
def State.virtAwake (s : State) (d va : Nat) : Bool := match (s.translate d noCore (va57 va) .load).1 with
  | .ok x => s.homeAwake x.pa ⟨d, 0, 0⟩ none false
  | .error _ => true

/-- The role entries of a record. -/
def State.readRoles (s : State) (d at_ : Nat) : Nat → Option (List (BitVec 256)) × State
  | 0 => (some [], s)
  | n + 1 =>
    match s.readVirt d at_ 32 with
    | (none, s1) => (none, s1)
    | (some x, s1) => match s1.readRoles d (at_ + 32) n with
      | (some xs, s2) => (some (BitVec.ofNat 256 x :: xs), s2)
      | r => r

/-- The record taken from the host queue or the device queue of a die, and not yet committed. -/
def Die.headOf (x : Die) (device : Bool) : Option LaunchHead := x.heads.find? fun h => h.device = device

def State.setHead (s : State) (d : Nat) (device : Bool) (h : Option LaunchHead) : State :=
  s.modDie d fun x => { x with heads := h.toList ++ x.heads.filter fun y => y.device ≠ device }

/-- Take a launch record: its contents are read, and STATE becomes 1; one that cannot be read is refused or dropped (18 R378). Log 87 (DEDUCED). -/
def State.takeLaunch (s : State) (d va : Nat) (device : Bool) : State :=
  let s0 := s.almSched d 0x80 (boolNat device) (BitVec.ofNat 64 va)
  let refuse (t : State) : State := match t.writeStatus d va 4 1 0 with
    | (true, t1) => t1
    | (false, t1) => t1.dropLaunch d va
  match s0.readVirt d va 64 with
  | (none, s1) => refuse s1
  | (some x, s1) =>
    match s1.readRoles d (64 * bits x 56 6) (x % 4 + 1) with
    | (none, s2) => refuse s2
    | (some rs, s2) =>
      (s2.writeStatus d va 1 0 0).2.setHead d device
        (some { va := va, device := device, record := BitVec.ofNat 512 x, roles := rs, waited := 0, retry := 0 })

/-- Where the next entry of the host queue is. -/
def State.hostEntry (s : State) (d : Nat) : Nat :=
  let base := s.dcr d offHLQBASE
  4096 * bits base.toNat 56 12 + 8 * (s.dcrBits d offHLQHEAD 31 0 % 2 ^ bits base.toNat 4 0)

/-- The next entry of the host queue. One that cannot be read is dropped, and DROPLR names it (22 R431). -/
def State.takeHost (s : State) (d : Nat) : State :=
  let at_ := s.hostEntry d
  let s1 := s.setDcr d offHLQHEAD (BitVec.ofNat 64 ((s.dcrBits d offHLQHEAD 31 0 + 1) % 2 ^ 32))
  match s1.readVirt d at_ 8 with
  | (none, s2) => s2.dropLaunch d at_
  | (some x, s2) => s2.takeLaunch d (64 * bits x 56 6) false

/-- The next entry of the device queue. -/
def State.takeDevice (s : State) (d : Nat) : State :=
  match (s.die d).dlq with
  | [] => s
  | va :: rest => (s.modDie d fun x => { x with dlq := rest }).takeLaunch d va true

/-- CAL_DLQPOP: the Calends, when they hold no record of the device queue, take its next. -/
def execCalDlqpop (die : Nat) (s : State) : Host.Outcome State Fault Refusal :=
  .next (if s.calendsAwake die && ((s.die die).headOf true).isNone then s.takeDevice die else s)

/-- The lowest die of a die's partition serves the host queue. -/
def State.lowestDie (s : State) (d : Nat) : Bool := (List.range d).all fun e => s.pid e ≠ s.pid d

/-- The address of the record that comes next in a queue; none when the queue is empty, or the entry cannot be read. -/
def State.nextLaunch (s : State) (d : Nat) (device : Bool) : Option Nat :=
  if device then (s.die d).dlq.head?
  else if s.lowestDie d && s.dcrBits d offHLQHEAD 31 0 ≠ s.dcrBits d offHLQTAIL 31 0 then
    some ((((s.readVirt d (s.hostEntry d) 8).1.map fun x => 64 * bits x 56 6)).getD 0)
  else none

/-- A gang that waits to be committed again goes before records of its class that are not yet taken (18 R387). Log 95 (DEDUCED). -/
def State.requeuedFirst (s : State) (d va : Nat) : Bool :=
  match (s.readVirt d va 64).1 with
  | none => false
  | some x => (s.die d).requeue.any fun g => match s.gang? (s.pid d) g.1 with
    | some y => y.cls = bits x 242 240 && !y.images.isEmpty
    | none => false

/-- A queue of a die has a record to serve: one taken before, or a next one that may be taken. -/
def State.hasLaunch (s : State) (d : Nat) (device : Bool) : Bool :=
  ((s.die d).headOf device).isSome || match s.nextLaunch d device with
    | some va => !s.requeuedFirst d va
    | none => false

/-! Launch records (18 R379). -/

/-- A group to place: role, member, fibres, registers, pages, entry PC, and the core it must take, if any. -/
structure Group where
  role : Nat
  member : Nat
  nfib : Nat
  minR : Nat
  peak : Nat
  pages : Nat
  entry : Nat
  core : Option (Nat × Nat) := none
  deriving DecidableEq, Repr

def roleMembers (r : BitVec 256) : Nat := bits r.toNat 85 80

def roleOk (r : BitVec 256) : Bool :=
  let x := r.toNat
  bits x 255 107 = 0 && 1 ≤ bits x 106 96 && bits x 106 96 ≤ 1024 && bits x 95 94 = 0 && bits x 93 88 ≤ 48 && bits x 87 86 = 0
    && 1 ≤ bits x 85 80 && 1 ≤ bits x 71 64 && bits x 71 64 ≤ bits x 79 72 && bits x 79 72 ≤ 128 && bits x 63 57 = 0 && x % 4 = 0

/-- The conditions that refuse a record with CAUSE 2. -/
def launchOk (x : Nat) (roles : List (BitVec 256)) : Bool :=
  let mc := bit x 243
  bits x 447 368 = 0 && bits x 319 292 = 0 && bits x 255 244 = 0 && bits x 127 121 = 0 && bits x 65 64 = 0 && bits x 63 57 = 0
    && bits x 5 2 = 0 && roles.all roleOk && (roles.map roleMembers).sum ≤ 64
    && (if mc then x % 4 = 0 && (roles.all fun r => roleMembers r = 1) && bits x 367 320 ≠ 0 else bits x 367 320 = 0)

def groupOf (r : BitVec 256) (role member : Nat) (core : Option (Nat × Nat)) : Group :=
  let x := r.toNat
  { role := role, member := member, nfib := bits x 106 96, minR := bits x 71 64, peak := bits x 79 72, pages := bits x 93 88
    entry := bits x 56 0, core := core }

/-- The groups of a record in order of role, then member. -/
def groupsOf (x : Nat) (roles : List (BitVec 256)) : List Group :=
  if bit x 243 then
    let cores := (List.range Config.cores).filter fun c => (bits x 367 320).testBit c
    (cores.zip (List.range cores.length)).map fun y => groupOf (roles.headD 0) 0 y.2 (some (bits x 291 288, y.1))
  else
    (roles.zip (List.range roles.length)).flatMap fun r => (List.range (roleMembers r.1)).map fun m => groupOf r.1 r.2 m none

/-- The context of a record, with a binding table. -/
def launchCtx (x : Nat) (table : List W64) : GangCtx :=
  ⟨bits x 120 64, grantsOf (bits x 143 128) (bits x 159 144) (bits x 191 160) (bits x 223 192) (bits x 239 224), table⟩

/-! Placement (18 R383). -/

/-- The records of a group on a core: one cohort for each 64 fibres, in the lowest free slots; nothing when they are not admitted. -/
def State.placeOn (s : State) (pid gang x : Nat) (prev : List BindRec) (g : Group) (at_ : Nat × Nat) : Option (List BindRec) :=
  let key (n : Nat) : CohKey := ⟨at_.1, at_.2, n⟩
  let free := (List.range Config.slots).filter fun n =>
    (s.cohort? (key n)).isNone && (prev.all fun r => r.key ≠ key n) && !superSlot (key n)
  let n := (g.nfib + 63) / 64
  let here := prev.filter fun r => r.key.die = at_.1 && r.key.core = at_.2
  let rec build : List Nat → Nat → List BindRec → Option (List BindRec)
    | [], _, _ => some []
    | slot :: rest, i, acc =>
      let r : BindRec := {
        key := key slot, gang := gang, role := g.role, member := g.member, minR := g.minR, peak := g.peak, cls := bits x 242 240
        nfib := min 64 (g.nfib - 64 * i), first := i = 0, pages := g.pages, tlimit := bits x 287 256, ctx := launchCtx x []
        start := .code g.entry }
      if s.admits pid acc (acc ++ [r]) r then (build rest (i + 1) (acc ++ [r])).map fun rs => r :: rs else none
  if free.length < n then none else build (free.take n) 0 here

def quadCores (q : Nat) : List Nat := (List.range 4).map (4 * q + ·)

/-- Quads of a die in order of distance from one of them, the lower number first on a tie. Log 85 (DESIGN CHOICE). -/
def quadsFrom (q : Nat) : List Nat := (List.range 12).flatMap fun n => (List.range 12).filter fun p => absDiff p q = n

/-- Cores in the order in which a group tries them. -/
def State.tryCores (s : State) (pid d q : Nat) : List (Nat × Nat) :=
  let near := (quadsFrom q).flatMap fun p => (quadCores p).map fun c => (d, c)
  let others := (List.range Config.dies).filter fun e => hops e d = 1 && s.pid e = pid
  near ++ others.flatMap fun e => (List.range Config.cores).map fun c => (e, c)

/-- Place groups one after another from a die and quad. -/
def State.placeGroups (s : State) (pid gang x : Nat) (d q : Nat) (prev : List BindRec) : List Group → Option (List BindRec)
  | [] => some prev
  | g :: gs =>
    let tries := match g.core with
      | some c => if s.pid c.1 = pid then [c] else []
      | none => s.tryCores pid d q
    match tries.findSome? fun c => s.placeOn pid gang x prev g c with
    | none => none
    | some rs =>
      let k := (rs.headD { key := ⟨d, 4 * q, 0⟩, gang := 0, role := 0, member := 0, minR := 0, peak := 0, nfib := 0, first := false
                           pages := 0, ctx := emptyCtx, start := .empty }).key
      s.placeGroups pid gang x k.die (quadOf k.core) (prev ++ rs) gs

/-- The binding table of a placed gang: its groups in order, then unused entries (18 R380, 13 R328). -/
def tableOf (pkg : Nat) (rs : List BindRec) : List W64 :=
  let es := (rs.filter fun r => r.first).map fun r => BitVec.ofNat 64 (r.member + 2 ^ 6 * r.role
    + 2 ^ 32 * (2 ^ 31 + 2 ^ 19 * (pkg % 4096) + 2 ^ 15 * r.key.die + 2 ^ 9 * r.key.core))
  (es ++ List.replicate 64 0).take 64

/-- A gang identifier that is not in use (18 R377, R382). Log 86 (DESIGN CHOICE). -/
def State.freshGang (s : State) (pid n : Nat) : Nat → Nat
  | 0 => n
  | fuel + 1 =>
    if n ≠ 0 && (s.gang? pid n).isNone && !s.gangPosted pid n then n else s.freshGang pid ((n + 1) % 2 ^ 32) fuel

/-- More identifiers than gangs and posted records can take, and 0. -/
def State.gangTries (s : State) : Nat := s.gangs.length + (s.dies.map fun d => (d.2.posts.map fun q => q.2.length).sum).sum + 2

/-- The partition's dies as they are when empty: what can be held at all (18 R379). -/
def State.emptied (s : State) : State :=
  { s with
    cohorts := s.cohorts.filter fun x => x.2.priv
    gangs := []
    cores := s.cores.map fun c => (c.1, { c.2 with pages := [] }) }

/-- What becomes of a launch record: its chain, a refusal, or a lack of resources. -/
inductive Planned where
  | chain (rs : List BindRec)
  | refuse (cause : Nat)
  | short
  deriving DecidableEq, Repr

/-- Where a first group may start: the quads of the die from one of them on, then those of the partition's other dies. -/
def State.startQuads (s : State) (pid d q : Nat) : List (Nat × Nat) :=
  ((List.range 12).map fun n => (d, (q + n) % 12))
    ++ ((List.range Config.dies).filter fun e => e ≠ d && s.pid e = pid).flatMap fun e => (List.range 12).map fun n => (e, n)

/-- Plan a record, whose first group starts at the first quad, from a chosen one on, from where the empty partition holds the gang. Log 85 (DESIGN CHOICE). -/
def State.planLaunch (s : State) (d gang quad : Nat) (h : LaunchHead) : Planned :=
  let x := h.record.toNat
  let pid := s.pid d
  if !launchOk x h.roles then .refuse 2
  else
    let gs := groupsOf x h.roles
    match (s.startQuads pid d quad).find? fun a => (s.emptied.placeGroups pid gang x a.1 a.2 [] gs).isSome with
    | none => .refuse 3
    | some a => match s.placeGroups pid gang x a.1 a.2 [] gs with
      | none => .short
      | some rs => .chain (rs.map fun r => { r with ctx := launchCtx x (tableOf (s.dcrBits d offPKGID 11 0) rs) })

/-! Pre-emption for the head (18 R387). -/

/-- A running gang that may be pre-empted for a record of a class: the youngest of a lower class, or, once the record has waited 20
ms, the one of its class that has run longest. -/
def State.victim (s : State) (pid cls : Nat) (late : Bool) : Option Gang :=
  let running := s.gangs.filter fun g => g.pid = pid && s.cohorts.any fun x => !x.2.priv && x.2.gang = g.id && s.pid x.1.die = pid
  match best (fun a b : Gang => b.committed < a.committed) (running.filter fun g => g.cls < cls) with
  | some g => some g
  | none => if late then best (fun a b : Gang => a.committed < b.committed) (running.filter fun g => g.cls = cls) else none

/-- Request the pre-emption of a gang on each die that holds a slot of it. -/
def State.preemptGang (s : State) (d : Nat) (g : Gang) : State :=
  let ds := (List.range Config.dies).filter fun e => s.pid e = g.pid && s.cohorts.any fun x => x.1.die = e && !x.2.priv && x.2.gang = g.id
  (foldState (fun (t : State) e => t.requestPreempt e (BitVec.ofNat 64 (2 ^ 63 + g.id))) ds s).modDie d fun x =>
    { x with requeue := x.requeue ++ [(g.id, 0)] }

/-- A pre-emption is pending on some die of a partition. -/
def State.anyPending (s : State) (pid : Nat) : Bool := s.dies.any fun d => s.pid d.1 = pid && d.2.preempt.isSome

def shortWait : Nat := 20000000

/-- The delay of a retry: 10 to 40 µs, chosen at random (18 R387). -/
def State.retryDelay (s : State) : Nat × State :=
  let (n, s1) := s.choose 30001
  (10000 + n, s1)

/-- A head record cannot be committed yet: another try later, and pre-emption in its favour. Log 132 (DEDUCED). -/
def State.deferHead (s : State) (d : Nat) (h : LaunchHead) : State :=
  let (n, s1) := s.retryDelay
  let s2 := s1.setHead d h.device (some { h with retry := n })
  if s2.anyPending (s2.pid d) then s2
  else match s2.victim (s2.pid d) (bits h.record.toNat 242 240) (shortWait ≤ h.waited) with
    | some g => s2.preemptGang d g
    | none => s2

/-- Try to commit a head record. Log 85 (DESIGN CHOICE). -/
def State.tryHead (s : State) (d : Nat) (h : LaunchHead) : State :=
  if h.retry ≠ 0 then s
  else
    let (n, s1) := s.choose (2 ^ 32 - 1)
    let (q, s2) := s1.choose 12
    let gang := s2.freshGang (s2.pid d) (n + 1) s2.gangTries
    let done (t : State) : State := t.setHead d h.device none
    match s2.planLaunch d gang q h with
    | .refuse cause => done (s2.writeStatus d h.va 4 cause 0).2
    | .short => s2.deferHead d h
    | .chain rs =>
      match s2.commit d rs with
      | (⟨0, _, _⟩, _) => s
      | (⟨1, i, c⟩, s3) =>
        let s4 := (s3.reportBind d gang ⟨1, i, c⟩).modGang (s3.pid d) gang fun g => { g with launch := some h.va, launchDie := d }
        done (s4.writeStatus d h.va 2 0 gang).2
      | (r, s3) => (s3.reportBind d gang r).deferHead d h

/-! Gangs to be committed again from their images (18 R386, R387). -/

/-- The chain that restores a gang's images into the slots they left. -/
def State.imageChain (s : State) (d : Nat) (g : Gang) : List BindRec :=
  let pages (x : SavedImage) : Nat :=
    ((s.core x.key.die x.key.core).pages.filter fun p => p.gang = g.id && p.role = x.role && p.member = x.member).length
  g.images.map fun x =>
    let img := s.readImage d x.addr
    { key := x.key, gang := g.id, role := x.role, member := x.member, minR := (img.map fun y => y.minR).getD 0
      peak := (img.map fun y => y.peak).getD 0, cls := g.cls, nfib := 0, first := false, pages := pages x, tlimit := g.tlimit
      ctx := ⟨g.root, g.grants, g.table⟩, start := match img with | some y => .image x.addr y | none => .empty, ok := img.isSome }

/-- The first gang of the die's list: it is committed if it can be, else tried again later; one that has ended, or has no image, is passed
over. Log 95 (DEDUCED). -/
def State.tryRequeue (s : State) (d : Nat) : State :=
  match (s.die d).requeue with
  | [] => s
  | (id, wait) :: rest =>
    let next (t : State) (xs : List (Nat × Nat)) : State := t.modDie d fun x => { x with requeue := xs ++ rest }
    if wait ≠ 0 || s.preemptPending (s.pid d) id then s
    else match s.gang? (s.pid d) id with
      | none => next s []
      | some g =>
        if g.images.isEmpty then next s []
        else
          match s.commit d (s.imageChain d g) with
          | (⟨0, _, _⟩, _) => s
          | (⟨1, i, c⟩, s1) => next (s1.reportBind d id ⟨1, i, c⟩) []
          | (r, s1) =>
            let (n, s2) := (s1.reportBind d id r).retryDelay
            next s2 [(id, n)]

/-! Task records. -/

/-- The records at the front of a queue that one pass binds together: of one gang, up to 64. Log 89 (DEDUCED). -/
def frontTasks (gang : Nat) : List (BitVec 512) → Nat → List (BitVec 512)
  | [], _ => []
  | _, 0 => []
  | r :: rs, n + 1 => if bits r.toNat 511 480 = gang then r :: frontTasks gang rs n else []

def State.dropTask (s : State) (d quad : Nat) (n : Nat) : State :=
  s.modDie d fun x => { x with posts := numSet x.posts quad ((x.posted quad).drop n) }

/-- The admissible core of a quad with the fewest bound cohorts, and the record there (18 R383). -/
def State.taskBind (s : State) (d quad : Nat) (g : Gang) (ts : List (BitVec 512)) : Option BindRec :=
  let bound (c : Nat) : Nat := (s.coreCohorts d c).length
  let at_ (c : Nat) : Option BindRec :=
    ((List.range Config.slots).find? fun n => (s.cohort? ⟨d, c, n⟩).isNone && !superSlot ⟨d, c, n⟩).bind fun n =>
      let r : BindRec := {
        key := ⟨d, c, n⟩, gang := g.id, role := 0, member := 63, minR := g.min0, peak := g.peak0, cls := g.cls, nfib := ts.length
        first := false, pages := 0, tlimit := g.tlimit, ctx := ⟨g.root, g.grants, g.table⟩, start := .tasks ts }
      if s.admits g.pid [] [r] r then some r else none
  let cores := (quadCores quad).filterMap fun c => (at_ c).map fun r => (bound c, c, r)
  (best (fun a b : Nat × Nat × BindRec => a.1 < b.1 || (a.1 = b.1 && a.2.1 < b.2.1)) cores).map fun x => x.2.2

/-- Bind the task records at the front of a quad's queue; one of a gang that has ended is dropped (18 R382). Log 89 (DEDUCED). -/
def State.startQuad (s : State) (d quad : Nat) : State :=
  match (s.die d).posted quad with
  | [] => s
  | r :: rest =>
    let gang := bits r.toNat 511 480
    match s.gang? (s.pid d) gang with
    | none => (s.dropTask d quad 1).almSched d 0x84 1 (BitVec.ofNat 64 (bits r.toNat 191 128))
    | some g =>
      let ts := frontTasks gang (r :: rest) Config.width
      let later (t : State) : State :=
        let (n, t1) := t.retryDelay
        t1.modDie d fun x => { x with postWait := numSet x.postWait quad n }
      match s.taskBind d quad g ts with
      | none => later s
      | some b =>
        match s.commit d [b] with
        | (⟨0, _, _⟩, _) => s
        | (⟨1, i, c⟩, s1) => (s1.dropTask d quad ts.length).reportBind d gang ⟨1, i, c⟩
        | (r, s1) => later (s1.reportBind d gang r)

/-- The post queue of a quad is tried: a failed commit is not repeated before its delay is over (18 R387). -/
def State.serveQuad (s : State) (d quad : Nat) : State :=
  if (numGet (s.die d).postWait quad).isSome then s else s.startQuad d quad

def execTaskStart (die quad : Nat) (s : State) : Host.Outcome State Fault Refusal :=
  .next (if s.calendsAwake die && decide (quad < 12) && s.ckState (s.pid die) = 0 then s.serveQuad die quad else s)

/-! A pass. -/

/-- The queue that a pass serves: the host queue and the device queue of the lowest die take turns while both have a record (18 R387). -/
def State.serveQueueOf (s : State) (d : Nat) : Option Bool :=
  match s.hasLaunch d false, s.hasLaunch d true with
  | true, true => some (s.die d).serveDevice
  | true, false => some false
  | false, true => some true
  | false, false => none

/-- Take the next record of a queue, if none of it is waiting, and try to commit it. -/
def State.serveLaunch (s : State) (d : Nat) (device : Bool) : State :=
  let s1 := s.modDie d fun x => { x with serveDevice := !device }
  let s2 := if ((s1.die d).headOf device).isSome then s1 else if device then s1.takeDevice d else s1.takeHost d
  match (s2.die d).headOf device with
  | some h => s2.tryHead d h
  | none => s2

/-- What a pass reads and writes of a queue is on dies whose clocks run: its next entry, and the record. -/
def State.launchAwake (s : State) (d : Nat) (device : Bool) : Bool :=
  let record (va : Nat) : Bool := s.virtAwake d va && s.virtAwake d (va + 56) && match (s.readVirt d va 8).1 with
    | some x => s.virtAwake d (64 * bits x 56 6)
    | none => true
  match (s.die d).headOf device, s.nextLaunch d device with
  | some h, _ => record h.va
  | none, some va => (device || s.virtAwake d (s.hostEntry d)) && record va
  | none, none => true

/-- The quads' post queues first, then a gang to be committed again, then one launch record (18 R387). Log 95 (DEDUCED). -/
def State.calendsPass (s : State) (d : Nat) : State :=
  let s1 := (foldState (fun (t : State) q => t.serveQuad d q) (List.range 12) s).tryRequeue d
  match s1.serveQueueOf d with
  | some device => if s1.launchAwake d device then s1.serveLaunch d device else s1
  | none => s1

def execCalendsPass (die : Nat) (s : State) : Host.Outcome State Fault Refusal :=
  .next (if s.calendsAwake die && s.pid die ≠ 0 && s.ckState (s.pid die) = 0 then s.calendsPass die else s)

end Sys2Proof.Machine
end

