-- ==== Sys2Proof/Machine/FaultQueue.lean ====
section
/-! DEFINITION. Fault records and their replies (19 R393 to R400, 17 R369 to R371): the queue, replies, replays of held lanes and
side-log entries, completion words of a long reply. -/

namespace Sys2Proof.Machine

/-! The queue (19 R394, R395). -/

def frqLimit : Nat := 1024

/-- The 64 bytes of a record. -/
def FaultRec.encode (r : FaultRec) : Nat :=
  r.rid.toNat + 2 ^ 32 * (r.cause % 256) + 2 ^ 40 * r.acc + 2 ^ 44 * r.path + 2 ^ 48 * r.level + 2 ^ 52 * boolNat r.dm
    + 2 ^ 64 * (r.cw % 2 ^ 64) + 2 ^ 128 * r.va.toNat + 2 ^ 192 * r.mask.toNat + 2 ^ 256 * (r.pc % 2 ^ 57) + 2 ^ 320 * (r.gang % 2 ^ 32)
    + 2 ^ 360 * r.die + 2 ^ 364 * r.core + 2 ^ 370 * r.slot + 2 ^ 384 * (r.tick % 2 ^ 64) + 2 ^ 448 * r.pte.toNat

def Die.frqUsed (x : Die) : Nat := x.frq.length + x.out.length

/-- The side-log entry that a record is written for takes its RID (19 R398). -/
def giveRid (page : Nat) (r : FaultRec) : List SideEntry → List SideEntry
  | [] => []
  | e :: es =>
    if e.page = page && e.state = 1 && e.rid = 0 && e.gang = r.gang && e.slot = r.slot && e.pc = r.pc
        && maskOf (e.lanes.map fun x => x.lane) = r.mask then
      { e with rid := r.rid } :: es
    else e :: giveRid page r es

/-- Write a record to the queue of a die, which has a free slot. Log 22 (DESIGN CHOICE). -/
def State.writeFault (s : State) (d : Nat) (r : FaultRec) : State :=
  let x := s.die d
  let r1 := { r with rid := x.rid, tick := s.tick, stops := x.stopTicks, die := d }
  let next : W32 := if x.rid + 1 = 0 then 1 else x.rid + 1
  let s1 := s.modDie d fun y => { y with frq := y.frq ++ [r1], rid := next }
  let s2 := if frqLimit ≤ (s1.die d).frqUsed then s1.setDcr d offFRQSTAT (BitVec.ofNat 64 (2 ^ 63)) else s1
  let s3 := match r.waiter with
    | .side c page => s2.modCore d c fun y => { y with sideLog := giveRid page r1 y.sideLog }
    | _ => s2
  if r.oneWay then s3
  else s3.alm d r.core 0x20 r.slot ((maskList r.mask).headD 0) (r.cause + 2 ^ 8 * r.acc + 2 ^ 12 * r.path) r.va
    (some (r1.rid.toNat + 2 ^ 32 * r.mask.toNat))

def execFaultRecordWrite (die : Nat) (s : State) : Host.Outcome State Fault Refusal :=
  match (s.die die).frWait with
  | [] => .next s
  | r :: rest =>
    .next (if s.awake die && decide ((s.die die).frqUsed < frqLimit) then
      (s.modDie die fun x => { x with frWait := rest }).writeFault die r
    else s)

/-- Take the oldest record (17 R369). -/
def State.takeFault (s : State) (d : Nat) : Option (FaultRec × State) :=
  match (s.die d).frq with
  | [] => none
  | r :: rest => some (r, s.modDie d fun x => { x with frq := rest, out := if r.oneWay then x.out else x.out ++ [r] })

/-! Held lanes. -/

/-- The held lanes become ready at the faulting instruction. -/
def State.releaseHold (s : State) (h : Hold) : State :=
  (foldState (fun (t : State) k => (t.modLane k fun l => { l with lastReads := [] }).readyLane k h.prio h.pc) (s.holdLanesOf h) s).dropHold h.id

/-- PFAULT (03 R61). -/
def pfault (va : W64) (word : W64) (pc : Nat) : Effect :=
  { tag := 3, k2 := va, k3 := word ||| BitVec.ofNat 64 hwBit, cpc := some pc, xpc := pc }

/-- A *long* reply to held lanes: PFAULT, or the wait for word C (19 R393); lanes of a halted cohort become ready (17 R373). Log 52 (DEDUCED). -/
def State.longHold (s : State) (h : Hold) (word : W64) : State :=
  if s.stands h.coh then s.releaseHold h
  else if h.waits then s.modHold h.id fun x => { x with word := some word.toNat }
  else
    let ks := s.holdLanesOf h
    let s1 := s.dropHold h.id
    let dues := ks.map fun k => s1.due k (pfault ((lookup h.vas k.lane).getD h.va) word h.pc)
    s1.deliverAll dues

/-- A lane that was held for want of a log entry goes on after its store. -/
def State.passStore (s : State) (k : LaneKey) : State :=
  match s.cohort? k.coh, s.lane? k with
  | some c, some l =>
    let n := match l.arrival with
      | some a => a.bytes
      | none => 4
    let next := if c.priv then (l.pc + n) % 2 ^ 64 else (l.pc + n) % 2 ^ 57
    (s.setLane k { l.complete l.lastReads with lastReads := [], counted := false }).readyLane k l.prio next
  | _, _ => s

/-- Lanes held for want of a log entry retire into the log without a fault record (11 R253). -/
def State.retireHold (s : State) (h : Hold) : State :=
  let d := h.coh.die
  let c := h.coh.core
  match lookup (s.core d c).sideWait h.id with
  | none => s
  | some e =>
    if !(s.core d c).sideRoom e then s
    else
      let ks := s.holdLanesOf h
      let s2 := (s.modCore d c fun x => { x with sideWait := removeKey x.sideWait h.id }).pushSide h.coh e
      (foldState (fun (t : State) k => t.passStore k) ks s2).dropHold h.id

/-- A side-log entry of a core that replays, of the page of an address. -/
def State.replaying (s : State) (d c va : Nat) : Bool := (s.core d c).sideLog.any fun e => e.state = 2 && e.holds va

/-- HELD_LANE_REPLAY: lanes of a resolved record become ready once the page's log entries have replayed (07 R161). -/
def execHeldLaneReplay (id : Nat) (s : State) : Host.Outcome State Fault Refusal :=
  match s.holds.find? fun h => h.id = id with
  | none => .next s
  | some h =>
    .next (if !s.awake h.coh.die then s
    else if h.noRecord then s.retireHold h
    else if h.resolved && !s.replaying h.coh.die h.coh.core h.va.toNat then s.releaseHold h
    else s)

/-! Side-log entries (19 R398, R399). -/

/-- The replay of the entries of a page starts. -/
def State.startReplay (s : State) (d c va run : Nat) : State :=
  foldState (fun (t : State) e => t.modSide d c e.id fun x => { x with state := 2, word := none, run := run }) (s.waitingSide d c va) s

/-- Where the accesses of an entry lie, or the first fault. Log 92 (DEDUCED). -/
def State.findSide (s : State) (d c : Nat) (acc : Acc) : List SideLane → Except (XFault × Nat) (List (SideLane × Nat)) × State
  | [] => (.ok [], s)
  | x :: xs =>
    if x.data.isEmpty then s.findSide d c acc xs
    else match s.translate d c (BitVec.ofNat 64 x.va) acc with
      | (.error f, s1) => (.error (f, x.va), s1)
      | (.ok y, s1) => match s1.findSide d c acc xs with
        | (.ok ys, s2) => (.ok ((x, y.pa) :: ys), s2)
        | r => r

/-- What the access of a replay follows: what its fibre follows if it still is in its slot, and else its fibre's own writes to the bytes, in
order, with those of the entry (07 R137, R138). -/
def State.replayDeps (s : State) (k : LaneKey) (fibre pa n batch : Nat) : List Nat :=
  if s.fibreIs k fibre then s.depsOf [k] .lsu pa n batch
  else (s.writes.filter fun w => overlap w.pa w.size pa n && w.src.coh = k.coh && w.path = .lsu
      && (w.batch = batch || (w.src.lane, w.fibre) = (k.lane, fibre))).map fun w => w.id

/-- Make the accesses of an entry again, for the fibres that made them. -/
def State.sendSide (s : State) (d c : Nat) (e : SideEntry) : List (SideLane × Nat) → State
  | [] => s.modSide d c e.id fun x => { x with lanes := x.lanes.map fun y => { y with sent := true } }
  | (x, pa) :: rest =>
    let k : LaneKey := ⟨⟨d, c, e.slot⟩, x.lane⟩
    let batch := 2 * e.id + 1
    let w : Write := {
      id := s.nextId, src := k, fibre := x.fibre, gang := e.gang, path := .lsu, wic := x.wic, pc := e.pc, va := x.va, pa := pa
      data := x.data, red := if e.acc = 4 then some (e.op, e.size) else none, side := some e.id, sys := e.sys, batch := batch
      deps := s.replayDeps k x.fibre pa x.data.length batch
      also := (e.lanes.filter fun y => y.data.isEmpty).map fun y => (y.lane, y.fibre) }
    { s with writes := s.writes ++ [w], nextId := s.nextId + 1 }.sendSide d c e rest

/-- Replay one entry: its accesses are made, or it waits again with a new record. Log 27 (DEDUCED). Log 92 (DEDUCED). -/
def State.replaySide (s : State) (d c : Nat) (e : SideEntry) : State :=
  match s.findSide d c (if e.acc = 4 then .reduction else .store) e.lanes with
  | (.ok xs, s1) => s1.sendSide d c e xs
  | (.error (f, va), s1) =>
    let s2 := s1.modSide d c e.id fun x => { x with state := 1, cause := f.cause, rid := 0 }
    s2.postFault d (faultRec f e.acc 0 (BitVec.ofNat 64 va) (maskOf (e.lanes.map fun x => x.lane)) e.pc e.gang ⟨d, c, e.slot⟩ (.side c e.page))

/-- SIDE_LOG_REPLAY: the next entry of a page, in SEQ order. -/
def execSideLogReplay (die core page : Nat) (s : State) : Host.Outcome State Fault Refusal :=
  match (s.core die core).sideLog.find? fun e => e.state = 2 && e.page = page && !(e.lanes.all fun x => x.sent) with
  | some e => .next (if s.awake die then s.replaySide die core e else s)
  | none => .next s

/-! Engines that wait (11 R266, 12 R300). -/

/-- The engine tries its access again. -/
def State.engineAgain (s : State) (id : Nat) : State :=
  { s with
    jobs := s.jobs.map fun (j : Job) => if j.id = id then { j with waiting := false, cw := none } else j
    matOps := s.matOps.map fun (x : MatOp) => if x.id = id then { x with waiting := false, word := none } else x }

def State.engineLong (s : State) (id : Nat) (word va : W64) : State :=
  { s with
    jobs := s.jobs.map fun (j : Job) => if j.id = id && j.waiting then { j with cw := some word.toNat } else j
    matOps := s.matOps.map fun (x : MatOp) =>
      if x.id = id && x.waiting then { x with word := some word.toNat, failVa := va.toNat } else x }

/-- The piece of a copy whose mapping failed is left unwritten; a completion word is tried again. Log 94 (DEDUCED). -/
def Job.skipPiece (j : Job) : Job :=
  let k := { j with waiting := false, cw := none, retry := false }
  if j.complete || j.frz then k
  else match j.got with
    | _ :: rest => { k with got := rest, bad := true }
    | [] => { k with todo := j.todo.tail, bad := true }

/-- The mapping that an engine waits for has failed. Log 94 (DEDUCED). -/
def State.engineFailed (s : State) (id : Nat) : State :=
  match s.waitingJob id, s.waitingOp id with
  | some j, _ => s.modJob j.skipPiece
  | none, some x =>
    let targets := s.opTargets x
    let s1 := s.stopOp { x with waiting := false }
    let s2 := { s1 with matOps := s1.matOps.filter fun y => y.id ≠ id }
    foldState (fun (t : State) n => t.addLate ⟨x.key, n⟩ (x.memErr x.failVa)) targets s2
  | none, none => s

/-! Replies (17 R370). -/

/-- Whether the reply to a record still acts on somebody. -/
def State.replyActs (s : State) (d : Nat) (r : FaultRec) : Bool :=
  match r.waiter with
  | .lanes id => s.holds.any fun h => h.id = id
  | .side c page => (s.core d c).sideLog.any fun e => e.page = page && e.gang = r.gang
  | .engine id => (s.waitingJob id).isSome || (s.waitingOp id).isSome
  | .home key _ => (s.gang? (s.pid key.coh.die) r.gang).isSome
  | .none => false

/-- *resolved*: the page's log entries replay, and then the record's lanes (19 R397). -/
def State.replyResolved (s : State) (d : Nat) (r : FaultRec) : State :=
  let s1 := s.startReplay d r.core r.va.toNat 0
  match r.waiter with
  | .lanes id => s1.modHold id fun h => { h with resolved := true }
  | .engine id => s1.engineAgain id
  | _ => s1

def State.replyLong (s : State) (d : Nat) (r : FaultRec) (word : W64) : State :=
  match r.waiter with
  | .lanes id => match s.holds.find? fun h => h.id = id with
    | some h => s.longHold h word
    | none => s
  | .side c _ =>
    foldState (fun (t : State) e => t.modSide d c e.id fun x => { x with word := some word.toNat }) (s.recordSide d c r) s
  | .engine id => s.engineLong id word r.va
  | .home _ _ | .none => s

/-- Causes that always receive *fatal* (19 R393). -/
def fatalCause (n : Nat) : Bool := n = 4 || n = 6 || n = 7

/-- The reply to an outstanding record, which retires. -/
def State.reply (s : State) (d : Nat) (r : FaultRec) (outcome : Nat) (word : W64) : State :=
  let o := if fatalCause r.cause then 2 else outcome
  let s1 := s.retireFault d r o
  match o with
  | 0 => s1.replyResolved d r
  | 1 => s1.replyLong d r word
  | _ => s1.replyFatal d r

def faultTimeoutTicks : Nat := 100000000

/-- FAULT_TIMEOUT: a record outstanding for 100 ms is answered *fatal* (19 R396); stopped ticks do not count (23 R450). -/
def execFaultTimeout (die : Nat) (rid : BitVec 32) (s : State) : Host.Outcome State Fault Refusal :=
  let x := s.die die
  match (x.frq ++ x.out).find? fun r => r.rid = rid && !r.oneWay with
  | none => .next s
  | some r =>
    .next (if s.awake die && decide (faultTimeoutTicks + (x.stopTicks - r.stops) ≤ s.tick - r.tick) then
      (s.almSched die 0x85 0 (rid.setWidth 64)).reply die r 2 0
    else s)

/-! Completion words of a long reply (17 R370). -/

/-- What a watcher of a die sees in word C: nothing yet, or whether the page is mapped. Log 52 (DEDUCED). Log 91 (DEDUCED). -/
def State.watchWord (s : State) (d word : Nat) : Option Bool × State :=
  if word % 8 ≠ 0 then (some false, s)
  else match s.translate d noCore (BitVec.ofNat 64 word) .load with
    | (.error _, s1) => (some false, s1)
    | (.ok x, s1) =>
      if !s1.homeAwake x.pa ⟨d, 0, 0⟩ none true then (none, s1)
      else if s1.badAt x.pa 8 then (some false, s1)
      else
        let v := s1.homeNat x.pa 8
        (if v = 0 then none else some (v = 1), s1)

def State.watchHold (s : State) (h : Hold) (word : Nat) : State :=
  match s.watchWord h.coh.die word with
  | (none, s1) => s1
  | (some true, s1) => s1.modHold h.id fun x => { x with resolved := true, word := none }
  | (some false, s1) => s1.fatalHold h

def State.watchSide (s : State) (d c : Nat) (e : SideEntry) (word : Nat) : State :=
  match s.watchWord d word with
  | (none, s1) => s1
  | (some true, s1) => s1.modSide d c e.id fun x => { x with state := 2, word := none }
  | (some false, s1) => s1.failSide d c e 1

def State.watchEngine (s : State) (d id word : Nat) : State :=
  match s.watchWord d word with
  | (none, s1) => s1
  | (some true, s1) => s1.engineAgain id
  | (some false, s1) => s1.engineFailed id

/-- The side-log entry of a number, with its core. -/
def State.findEntry (s : State) (id : Nat) : Option ((Nat × Nat) × SideEntry) :=
  s.cores.findSome? fun c => (c.2.sideLog.find? fun e => e.id = id).map fun e => (c.1, e)

/-- COMPLETION_WORD_WATCH: the hold, entry or engine of a number reads its word C. Log 52 (DEDUCED). -/
def execCompletionWordWatch (id : Nat) (s : State) : Host.Outcome State Fault Refusal :=
  match s.holds.find? fun h => h.id = id, s.findEntry id, s.waitingJob id, s.waitingOp id with
  | some h, _, _, _ => .next (match h.word with
    | some w => if s.awake h.coh.die then s.watchHold h w else s
    | none => s)
  | none, some (c, e), _, _ => .next (match e.word with
    | some w => if s.awake c.1 then s.watchSide c.1 c.2 e w else s
    | none => s)
  | none, none, some j, _ => .next (match j.cw with
    | some w => if s.awake j.key.coh.die then s.watchEngine j.key.coh.die id w else s
    | none => s)
  | none, none, none, some x => .next (match x.word with
    | some w => if s.awake x.die then s.watchEngine x.die id w else s
    | none => s)
  | none, none, none, none => .next s

end Sys2Proof.Machine
end

