-- ==== Sys2Proof/Machine/Capsule.lean ====
section
/-! DEFINITION. Crash capsules (22 R434 to R445): the requested cut, its arrival at the dies, the freeze, the copies, redaction, and the
sealed capsule in the vault. -/

namespace Sys2Proof.Machine

/-! Cuts. -/

/-- ALM_CUTREQ (22 R433, R434). -/
def State.requestCut (s : State) (d : Nat) (v : W64) : State :=
  if v.getLsbD 63 then s.startCut (bits v.toNat 11 0) ⟨0, 0, d, 0, 0, 0⟩ else s

def execAlmCutreq (die : Nat) (v : W64) (s : State) : Host.Outcome State Fault Refusal :=
  .next (if s.calendsAwake die then s.requestCut die v else s)

/-- Forget sealed cuts that every die has received. -/
def State.forgetCuts (s : State) : State :=
  { s with cuts := s.cuts.filter fun c => !(c.isSealed && decide (Config.dies ≤ c.notified.length)) }

/-- CUT: a waiting cut starts when it may (22 R436); one that runs reaches a die (22 R435). Log 96 (DEDUCED). -/
def execCut (id die : Nat) (s : State) : Host.Outcome State Fault Refusal :=
  match s.cuts.find? fun c => c.id = id with
  | none => .next s
  | some c =>
    .next (if !c.started then
      (match if s.cutWaits c then none else pickVault s.vault with
      | some (i, full) => s.openCut c i full
      | none => s)
    else if decide (die < Config.dies) && !c.notified.contains die && s.awake die then (s.receiveCut die c).forgetCuts
    else s)

/-- Every Almanac of a die freezes (22 R435). -/
def State.freezeAlm (s : State) (d : Nat) : State :=
  let hold (r : AlmRing) : AlmRing := { r with frozen := some s.tick }
  ((List.range Config.cores).foldl (fun (t : State) k => t.modCore d k fun y => { y with alm := hold y.alm }) s).modDie d fun x =>
    { x with schedAlm := hold x.schedAlm }

/-- ALMANAC_FREEZE: the first cycle of a subject die at or past T0 + 256. -/
def execAlmanacFreeze (id die : Nat) (s : State) : Host.Outcome State Fault Refusal :=
  match s.cuts.find? fun c => c.id = id with
  | none => .next s
  | some c =>
    .next (if c.started && c.dies.contains die && !c.frozen.contains die && decide (c.t0 + 256 ≤ s.tick) && s.awake die then
      let s1 := if c.notified.contains die then s else s.receiveCut die c
      State.freezeAlm { s1 with cuts := s1.cuts.map fun x => if x.id = id then { x with frozen := die :: x.frozen } else x } die
    else s)

/-! Copies. -/

def AlmBuf.number : AlmBuf → Nat
  | .core c => c
  | .sched => 48

/-- Tick of the oldest SYNC among records, oldest first; 0 with none. -/
def oldestSync : List AlmRec → Nat
  | [] => 0
  | r :: rs => if r.word.toNat % 256 = 1 then bits r.word.toNat 127 64 else oldestSync rs

/-- The section of a frozen ring (22 R438). -/
def AlmRing.toSection (r : AlmRing) (kind d c owner : Nat) : Section :=
  let recs := r.recs.reverse
  { kind := kind, die := d, core := c, owner := owner, recs := recs, sync := oldestSync recs }

/-- A copied ring resumes with SYNC, then GAP (22 R437). -/
def AlmRing.resume (r : AlmRing) (size tick owner : Nat) : AlmRing :=
  let r1 := { r with frozen := none }.pushSync size tick owner
  (r1.syncIfDue size tick owner).push size ⟨owner, 4, almHeader 0x04 0 0 tick 0 (BitVec.ofNat 64 (r.frozen.getD tick))⟩

/-- Copy one Almanac of a die into the capsule; it records again. -/
def State.copyAlm (s : State) (id d : Nat) : AlmBuf → State
  | .core c =>
    let x := (s.core d c).alm.toSection 1 d c (s.pid d)
    State.modCore { s with cuts := s.cuts.map fun y =>
        if y.id = id then { y with copied := (d, c) :: y.copied, sections := y.sections ++ [x] } else y } d c fun y =>
      { y with alm := y.alm.resume coreAlmSize s.tick (s.pid d) }
  | .sched =>
    let x := (s.die d).schedAlm.toSection 2 d 0 (s.pid d)
    State.modDie { s with cuts := s.cuts.map fun y =>
        if y.id = id then { y with copied := (d, 48) :: y.copied, sections := y.sections ++ [x] } else y } d fun y =>
      { y with schedAlm := y.schedAlm.resume schedAlmSize s.tick (s.pid d) }

/-- ALMANAC_COPY_DONE: in increasing core order, then the scheduler Almanac. -/
def execAlmanacCopyDone (id die : Nat) (buf : AlmBuf) (s : State) : Host.Outcome State Fault Refusal :=
  match s.cuts.find? fun c => c.id = id with
  | none => .next s
  | some c =>
    let n := AlmBuf.number buf
    .next (if c.frozen.contains die && n ≤ 48 && !c.copied.contains (die, n) && ((List.range n).all fun k => c.copied.contains (die, k))
        && s.awake die then s.copyAlm id die buf
    else s)

/-! Redaction (22 R440 to R442). -/

/-- The policy of a partition; one that SETPOLICY has not set has every field 0. Log 25 (DESIGN CHOICE). -/
def State.policy (s : State) (pid : Nat) : Policy := (lookup s.sec.policies pid).getD ⟨0, false, false, false, 0, 0, 0⟩

/-- digest (22 R442). -/
def digestOf (key : BitVec 256) (cls v : Nat) : Nat :=
  ofBytes (shake256 (toBytes key.toNat 32 ++ [BitVec.ofNat 8 cls] ++ toBytes v 8) 8)

/-- redact (22 R441): classes 1 address, 2 handle, 3 data, 4 PC. -/
def redact (p : Policy) (cls w v : Nat) : Nat :=
  let zero := match cls with
    | 1 => p.zeroA
    | 2 => p.zeroH
    | 3 => p.zeroD
    | _ => p.pMode = 2
  if v = 0 || zero then 0
  else if cls = 4 && p.pMode = 0 && decide (p.cbase.toNat ≤ v) && decide (v < p.cbase.toNat + p.csize.toNat) then
    2 ^ (w - 1) + (v - p.cbase.toNat)
  else digestOf p.key cls v % 2 ^ (if cls = 4 then w - 1 else w)

/-- Classed fields of a record by its type: class, high and low bit (22 R430, R431). -/
def recordFields (type : Nat) : List (Nat × Nat × Nat) :=
  if type = 0x10 || type = 0x11 then [(2, 127, 64)]
  else if [0x13, 0x23, 0x86].contains type then [(4, 127, 64)]
  else if [0x20, 0x22, 0x24, 0x30, 0x31, 0x51, 0x80, 0x84].contains type then [(1, 127, 64)]
  else []

/-- Classed fields of the EXT of a record of a type. -/
def extFields (type : Nat) : List (Nat × Nat × Nat) :=
  if [0x10, 0x13, 0x22].contains type then [(4, 64, 8)]
  else if type = 0x24 then [(3, 71, 8)]
  else if type = 0x32 then [(1, 64, 8), (1, 121, 65)]
  else if type = 0x52 then [(3, 39, 8), (4, 96, 40)]
  else if type = 0x60 then [(4, 79, 16)]
  else []

/-- The partition whose policy redacts a field of a record: its owner, or for a device record the owner of the region that a physical
address lies in (22 R440). -/
def State.fieldOwner (s : State) (owner cls v : Nat) : Option Nat :=
  if owner ≠ 0 then some owner
  else if cls = 1 && isDevicePa v then
    let q := s.regionOwner v
    if q = 0 || q = deviceOwner then none else some q
  else none

def State.redactField (s : State) (owner : Nat) (x : Nat) (f : Nat × Nat × Nat) : Nat :=
  let v := bits x f.2.1 f.2.2
  match s.fieldOwner owner f.1 v with
  | some q => setBits x f.2.1 f.2.2 (redact (s.policy q) f.1 (f.2.1 + 1 - f.2.2) v)
  | none => x

def State.redactRec (s : State) (r : AlmRec) : Nat :=
  let fields := if r.word.toNat % 256 = 2 then extFields r.type else recordFields r.type
  foldState (fun x f => s.redactField r.owner x f) fields r.word.toNat

/-! The capsule (22 R438, R439, R443). -/

/-- Top of memory with all 32 stacks trained (25 R471); a part with fewer does not boot (25 R473). Log 121 (DEDUCED). -/
def fullTop : Nat := 0x0165A0000000
/-- Where a vault slot lies (25 R471). Log 121 (DEDUCED). -/
def vaultAt (slot : Nat) : Nat := fullTop - 2 ^ 29 + 2 ^ 27 * slot

def sectionBytes (kind : Nat) : Nat := if kind = 1 then 131072 else 1048576
def signatureBytes : Nat := 2820

/-- Sections in the order of the body, each with its place. -/
def placeSections : Nat → List Section → List (Nat × Section)
  | _, [] => []
  | at_, x :: xs => (at_, x) :: placeSections (at_ + sectionBytes x.kind) xs

def Cut.ordered (c : Cut) : List Section :=
  let core (d k : Nat) : List Section := c.sections.filter fun x => x.kind = 1 && x.die = d && x.core = k
  let sched (d : Nat) : List Section := c.sections.filter fun x => x.kind = 2 && x.die = d
  ((List.range Config.dies).flatMap fun d => (List.range Config.cores).flatMap (core d)) ++ (List.range Config.dies).flatMap sched

def capsuleSize (c : Cut) : Nat := 0x8000 + (c.sections.map fun x => sectionBytes x.kind).sum + 4096

/-- A cause entry: the PC is redacted under the policy of the origin die's partition. -/
def State.causeBytes (s : State) (c : CutCause) : List Byte :=
  let pc := match s.fieldOwner (s.pid c.die) 4 c.pc with
    | some q => redact (s.policy q) 4 64 c.pc
    | none => c.pc
  toBytes (pc % 2 ^ 64 + 2 ^ 64 * c.tag + 2 ^ 72 * c.die + 2 ^ 80 * c.core + 2 ^ 88 * c.slot + 2 ^ 96 * c.lane) 16

/-- The header; `flags` are UNSIGNED and INCOMPLETE. -/
def State.capsuleHeader (s : State) (c : Cut) (seq flags leaf : Nat) : List Byte :=
  let tc := c.sections.foldl (fun m x => max m x.sync) 0
  let a := 0x5041435A + 2 ^ 32 + 2 ^ 40 * c.causes.length + 2 ^ 48 * c.subj + 2 ^ 64 * capsuleSize c
  let b := seq % 2 ^ 64 + 2 ^ 64 * c.t0 + 2 ^ 128 * tc
  let d := (s.dcr 0 offIDENT).toNat % 2 ^ 32 + 2 ^ 32 * (s.dcrBits 0 offPKGID 14 0) + 2 ^ 48 * c.slot + 2 ^ 56 * flags + 2 ^ 64 * leaf
    + 2 ^ 96 * c.sections.length
  padEnd 256 (toBytes a 16 ++ toBytes b 24 ++ padEnd 24 (toBytes d 16) ++ c.causes.flatMap s.causeBytes)

/-- A section table entry, whose policy byte is given. -/
def sectionEntry (at_ : Nat) (x : Section) (flags : Nat) : List Byte :=
  toBytes (at_ + 2 ^ 64 * x.kind + 2 ^ 72 * x.die + 2 ^ 80 * x.core + 2 ^ 96 * x.owner + 2 ^ 112 * (flags % 256)
    + 2 ^ 128 * x.recs.length + 2 ^ 192 * x.sync) 32

/-- A range of device memory reads 0. -/
def State.clearRange (s : State) (a n : Nat) : State :=
  { s with
    mem := s.mem.filter fun c => !(a ≤ c.1 && c.1 < a + n)
    views := s.views.filter fun v => !(a ≤ v.1.2 && v.1.2 < a + n)
    bad := s.bad.filter fun u => !(a ≤ 32 * u && 32 * u < a + n) }

/-- The policy byte of a partition's sections: its policy, in a coding that is not stated. Log 97 (DESIGN CHOICE). -/
def policyFlags (p : Policy) : BitVec 8 := Config.policyFlags p.zeroA p.zeroH p.zeroD p.pMode

/-- Write a section and its table entry. -/
def State.writeSection (s : State) (base : Nat) (x : Nat × Section) : State :=
  let index := if x.2.kind = 1 then Config.cores * x.2.die + x.2.core else Config.dies * Config.cores + x.2.die
  (s.storeAll (base + 0x100 + 32 * index) (sectionEntry x.1 x.2 (policyFlags (s.policy x.2.owner)).toNat)).storeAll (base + x.1)
    (x.2.recs.flatMap fun r => toBytes (s.redactRec r) 16)

/-- Assemble a capsule in its slot; its sequence number is the next. -/
def State.assemble (s : State) (c : Cut) (flags leaf : Nat) : State :=
  let base := vaultAt c.slot
  let s1 := (s.clearRange base (capsuleSize c)).storeAll base (s.capsuleHeader c (s.capsuleSeq + 1) flags leaf)
  let s2 := foldState (fun (t : State) x => t.writeSection base x) (placeSections 0x8000 c.ordered) s1
  { s2 with
    capsuleSeq := s.capsuleSeq + 1
    vault := s2.vault.set c.slot
      { state := 2, seq := s.capsuleSeq + 1, size := capsuleSize c, subj := c.subj, lost := (s2.vault.getD c.slot {}).lost } }

/-- Leaves of the identity key (22 R443). -/
def xmssLeaves : Nat := 2 ^ 20

/-- Sign what an address range digests to, with the next leaf; the counter advances first. Log 15 (DESIGN CHOICE). -/
def State.signAt (s : State) (at_ : Nat) (message : List Byte) : State :=
  let sig := (padEnd signatureBytes (Config.xmssSign s.xmssLeaf message)).take signatureBytes
  { s with xmssLeaf := s.xmssLeaf + 1 }.storeAll at_ sig

/-- Seal a capsule: assembled, redacted and signed, or unsigned when every leaf has been used; its LEAF is then not stated. Log 97 (DESIGN CHOICE). -/
def State.sealCapsule (s : State) (c : Cut) : State :=
  let base := vaultAt c.slot
  let n := capsuleSize c
  if s.xmssLeaf < xmssLeaves then
    let s1 := s.assemble c 0 s.xmssLeaf
    s1.signAt (base + n - 4096) (shake256 (s1.home base (n - 4096)) 64)
  else
    let (v, s1) := s.drawValue
    s1.assemble c 1 (v.toNat % 2 ^ 32)

/-- CAPSULE_SEAL: every Almanac of the subject dies is copied (22 R435). -/
def execCapsuleSeal (id : Nat) (s : State) : Host.Outcome State Fault Refusal :=
  match s.cuts.find? fun c => c.id = id with
  | none => .next s
  | some c =>
    .next (if c.started && c.done && !c.isSealed && s.sec.powered then
      let s1 := s.sealCapsule c
      State.forgetCuts { s1 with cuts := s1.cuts.map fun x => if x.id = id then { x with isSealed := true } else x }
    else s)

end Sys2Proof.Machine
end

