-- ==== Sys2Proof/Machine/Debug.lean ====
section
/-! DEFINITION. Solstice stops (23 R449 to R451), snapshot chains (R453), the release of a parked group (R457) and the sample ring
(R461). -/

namespace Sys2Proof.Machine

/-! Stop and resume. -/

/-- The least tick that a stop or resume may name. -/
def State.atLeast (s : State) (t : W64) : W64 := if t.toNat < s.tick + 256 then BitVec.ofNat 64 (s.tick + 256) else t

/-- A write of SOL_STOPAT (23 R449). Log 100 (DEDUCED). -/
def State.writeStopAt (s : State) (v : W64) : State :=
  if s.sol.arm || s.sol.stopped then s else { s with sol := { s.sol with stopAt := v } }

/-- A write of SOL_STOPCTL. Log 100 (DEDUCED). -/
def State.writeStopCtl (s : State) (v : W64) : State :=
  let x := s.sol
  if x.stopped then
    if v.getLsbD 61 then { s with sol := { x with resuming := true, resumeAt := s.atLeast x.resumeAt } } else s
  else
    let dies := if x.arm then x.dies else v.setWidth 16
    let at_ := if v.getLsbD 63 then s.atLeast x.stopAt else x.stopAt
    { s with sol := { x with arm := v.getLsbD 63, dies := dies, stopAt := at_ } }

/-- A write of SOL_RESUMEAT. -/
def State.writeResumeAt (s : State) (v : W64) : State := { s with sol := { s.sol with resumeAt := v } }

/-- SOL_STOP_ARM and SOL_RESUME: the register written through a die. -/
def execSolStopArm (die : Nat) (v : W64) (s : State) : Host.Outcome State Fault Refusal :=
  .next (if decide (die < Config.dies) && s.sec.powered then s.writeStopCtl v else s)
def execSolResume (die : Nat) (v : W64) (s : State) : Host.Outcome State Fault Refusal :=
  .next (if decide (die < Config.dies) && s.sec.powered && s.sol.stopped then s.writeStopCtl (v ||| 0x2000000000000000) else s)

/-- The die is named by the stop. -/
def Sol.names (x : Sol) (d : Nat) : Bool := x.dies = 0 || x.dies.getLsbD d

/-- A die has to stop at this tick (23 R450). -/
def State.stopDue (s : State) (d : Nat) : Bool :=
  s.sec.powered && decide (d < Config.dies) && s.sol.arm && s.sol.names d && !(s.die d).stopped && decide (s.sol.stopAt.toNat ≤ s.tick)

def execSolsticeStop (die : Nat) (s : State) : Host.Outcome State Fault Refusal :=
  .next (if s.stopDue die then
    let tick := if s.sol.stopped then s.sol.tick else s.tick
    State.modDie { s with sol := { s.sol with stopped := true, tick := tick } } die fun x => { x with stopped := true }
  else s)

/-- The dies that named stop have to go on (23 R451). -/
def State.resumeDue (s : State) : Bool := s.sol.stopped && s.sol.resuming && decide (s.sol.resumeAt.toNat ≤ s.tick)

def execSolsticeResume (s : State) : Host.Outcome State Fault Refusal :=
  .next (if s.resumeDue then
    State.pumpHost { s with
      sol := { s.sol with arm := false, stopped := false, resuming := false }
      dies := s.dies.map fun x => (x.1, { x.2 with stopped := false }) }
  else s)

/-! Snapshot chains. -/

/-- The 64 bytes of a side-log entry header (19 R398). -/
def SideEntry.header (e : SideEntry) : Nat :=
  e.rid.toNat + 2 ^ 128 * e.seq.toNat + 2 ^ 165 * (e.size % 8) + 2 ^ 168 * (e.op % 256) + 2 ^ 176 * e.acc + 2 ^ 180 * e.slot
    + 2 ^ 184 * (e.cause % 256) + 2 ^ 192 * e.state + 2 ^ 196 * e.psize + 2 ^ 199 * (e.page % 2 ^ 57) + 2 ^ 256 * e.wic.toNat
    + 2 ^ 288 * (e.gang % 2 ^ 32) + 2 ^ 320 * (e.pc % 2 ^ 57) + 2 ^ 384 * (maskOf (e.lanes.map fun x => x.lane)).toNat
    + 2 ^ 448 * (e.tick % 2 ^ 64)

/-- Header n of a core's side log; a free entry reads 0. -/
def Core.sideHeader (x : Core) (n : Nat) : Nat :=
  match x.sideLog.find? fun e => e.idx = n with
  | some e => e.header
  | none => 0

/-- The entry of a copy in flight: ticket, destination, source, bytes remaining. -/
def Job.chain (j : Job) : List Byte :=
  toBytes j.ticket 8 ++ toBytes j.dst 8 ++ toBytes j.src 8 ++ toBytes (16 * (j.todo.length + j.got.length)) 8

/-- Bound slots of a die in increasing order. -/
def State.boundSlots (s : State) (d c : Nat) : List Cohort := (List.range Config.slots).filterMap fun n => s.cohort? ⟨d, c, n⟩

/-- Contents of a chain after its header (23 R453). Log 98 (DEDUCED). -/
def State.chainBody (s : State) (d n : Nat) : List Byte :=
  if n < Config.cores then
    ((s.boundSlots d n).flatMap fun c => c.imageBytes)
      ++ ((s.jobs.filter fun j => !j.frz && !j.complete && j.key.coh.die = d && j.key.coh.core = n).flatMap fun j => j.chain)
      ++ (List.range 256).flatMap fun e => toBytes ((s.core d n).sideHeader e) 64
  else if n = 48 then ((s.die d).out ++ (s.die d).frq).flatMap fun r => toBytes r.encode 64
  else if n = 49 then
    (List.range Config.cores).flatMap fun c => (s.boundSlots d c).flatMap fun x => toBytes x.bind.toNat 64
  else []

/-- A snapshot chain: while its die is stopped its contents, else its header alone. Log 98 (DEDUCED). -/
def State.chainBytes (s : State) (d n : Nat) : List Byte :=
  let body := if (s.die d).stopped then s.chainBody d n else []
  toBytes (2 ^ 56 * n + 2 ^ 32 * (2 + (body.length + 7) / 8)) 8 ++ toBytes s.sol.tick 8 ++ body

/-! Parked groups. -/

/-- GO: the group is released, and the entry that hit does not match that number again (23 R457). -/
def State.parkRelease (s : State) (d n : Nat) : State :=
  match (s.die d).parks.getD n none with
  | none => s
  | some p =>
    let k : CohKey := ⟨d, p.core, p.slot⟩
    let skip (c : Cohort) : Cohort :=
      if p.holds k c then
        match c.frontier.find? fun e => e.samePair p.prio p.pc with
        | some e => { c with lanes := c.lanes.map fun (x : Nat × Lane) => if e.mask.getLsbD x.1 then (x.1, { x.2 with skip := some p.bp }) else x }
        | none => c
      else c
    ((s.modDie d fun x => { x with parks := x.parks.set n none }).modCohort k skip).alm d p.core 0x43 p.slot 0 0 (BitVec.ofNat 64 p.gang)

def execParkGo (die k : Nat) (s : State) : Host.Outcome State Fault Refusal :=
  .next (if s.calendsAwake die then s.parkRelease die k else s)

/-! Samples. -/

/-- The tagged instruction of a core has nothing more under way. -/
def State.sampleDone (s : State) (d c : Nat) (x : Sample) : Bool :=
  let k : CohKey := ⟨d, c, x.slot⟩
  (x.waits.all fun i => !(s.underWay k 0).contains i) && x.holds.all fun i => s.holds.all fun h => h.id ≠ i

/-- The 64 bytes of a sample record. Hops and cycle counts are not stated. Log 46 (DESIGN CHOICE). -/
def Sample.encode (x : Sample) (d c : Nat) (a b : W64) : Nat :=
  2 ^ 160 * (x.gang % 2 ^ 32) + 2 ^ 208 * x.out + 2 ^ 210 * d + 2 ^ 214 * c + 2 ^ 220 * x.slot + 2 ^ 224 * (a.toNat % 256) + 2 ^ 232 * x.level
    + 2 ^ 240 * (b.toNat + 2 ^ 64 * (a.toNat / 2 ^ 8 % 2 ^ 16)) + 2 ^ 320 * x.mask.toNat + 2 ^ 391 * (x.pc % 2 ^ 57)
    + 2 ^ 448 * (x.tick % 2 ^ 64)

/-- Where the next sample record of a die goes, in a ring of a size. -/
def State.samplePlace (s : State) (d size : Nat) : Nat :=
  4096 * bits (s.dcr d offSMPBASE).toNat 56 12 + 64 * (s.die d).sampled % size

/-- SAMPLE_RECORD: the record goes to the ring, which overwrites, once its memory may take it (23 R450). -/
def State.sampleRecord (s : State) (d c : Nat) (x : Sample) : State :=
  let size := 4096 * bits (s.dcr d offSMPSIZE).toNat 31 12
  let s1 := s.modCore d c fun y => { y with sample := none }
  if size = 0 then s1
  else if !s.homeAwake (s.samplePlace d size) ⟨d, c, 0⟩ none false then s
  else
    let (a, s2) := s1.drawValue
    let (b, s3) := s2.drawValue
    (s3.modDie d fun y => { y with sampled := y.sampled + 1 }).engineStore ⟨⟨d, c, x.slot⟩, 0⟩ (s.samplePlace d size) (toBytes (x.encode d c a b) 64)

def execSampleRecord (die core : Nat) (s : State) : Host.Outcome State Fault Refusal :=
  match (s.core die core).sample with
  | some x => .next (if s.awake die && s.sampleDone die core x then s.sampleRecord die core x else s)
  | none => .next s

end Sys2Proof.Machine
end

