-- ==== Sys2Proof/Machine/HostLink.lean ====
section
/-! DEFINITION. Host links and fabric (21): interrupts to a die, host requests and hotness proposals in the fault queue (19 R395, R403,
R406), host reads and writes, snoops of host copies, and link-level replay. -/

namespace Sys2Proof.Machine

/-! Interrupt files and records without reply. -/

/-- MSI_WRITE: a 32-bit write to a die's page of BAR2 (21 R420). -/
def execMsiWrite (die off : Nat) (data : W32) (s : State) : Host.Outcome State Fault Refusal :=
  .next (if s.sec.powered && decide (die < Config.dies) && off = 0 && decide (1 ≤ data.toNat) && decide (data.toNat ≤ 2047) then
    s.modDie die fun x => { x with irq := if x.irq.contains data.toNat then x.irq else x.irq ++ [data.toNat] }
  else s)

/-- A record that asks for no reply, before it is numbered. -/
def oneWayRec (path cause : Nat) (va : W64) (pc : Nat) : FaultRec :=
  { rid := 0, cause := cause, acc := 0, path := path, level := 0, dm := false, cw := 0, va := va, mask := 0, pc := pc, gang := 0, die := 0
    core := 0, slot := 0, tick := 0, pte := 0, waiter := .none }

/-- HOST_REQUEST_RECORD: a pending bit becomes a PATH 6 record when the queue has room (19 R403, 21 R420). -/
def execHostRequestRecord (die : Nat) (s : State) : Host.Outcome State Fault Refusal :=
  match (s.die die).irq with
  | [] => .next s
  | n :: rest =>
    .next (if s.awake die && decide ((s.die die).frqUsed < frqLimit) then
      (s.modDie die fun x => { x with irq := rest }).writeFault die (oneWayRec 6 0 0 n)
    else s)

/-- Slots of the fault queue above which a proposal is dropped (19 R395). -/
def proposalLimit : Nat := 768

/-- HOTNESS_PROPOSAL: a granule's counts have reached THR (19 R406). Log 101 (DESIGN CHOICE). -/
def execHotnessProposal (die granule pkg : Nat) (s : State) : Host.Outcome State Fault Refusal :=
  let thr := s.dcrBits die offHOT 47 32
  match (s.die die).hot.find? fun h => h.granule = granule && h.pkg = pkg with
  | none => .next s
  | some h =>
    .next (if thr ≠ 0 && decide (thr ≤ h.reads + h.writes) && s.awake die then
      let s1 := s.modDie die fun x => { x with hot := x.hot.filter fun y => !(y.granule = granule && y.pkg = pkg) }
      if proposalLimit < (s.die die).frqUsed then s1
      else s1.writeFault die (oneWayRec 7 (if h.writes = 0 then 17 else 16) (BitVec.ofNat 64 (granuleBytes * granule)) pkg)
    else s)

/-- HOTNESS_DECAY: every DECAY µs the counts of a die are halved. -/
def execHotnessDecay (die : Nat) (s : State) : Host.Outcome State Fault Refusal :=
  .next (if s.awake die && decide (1000 * s.dcrBits die offHOT 15 0 ≤ s.tick - (s.die die).hotTick) then
    s.modDie die fun x => { x with
      hotTick := s.tick
      hot := x.hot.map fun h => { h with reads := h.reads / 2, writes := h.writes / 2 } }
  else s)

/-! The host. -/

/-- The stream of a write (21 R418). -/
def State.streamOf (s : State) (link hpa : Nat) : Nat :=
  1024 * link + (if s.dcrBits (5 * link) offSTRCTL 0 0 = 1 then bits hpa 31 22 else 0)

/-- A CXL.mem write of at most one line takes the next number of its pair, and its home applies what it may. -/
def State.hostWrite (s : State) (link hpa pa : Nat) (data : List Byte) : State :=
  let d := homeDie pa
  let stream := s.streamOf link hpa
  let p := s.hostPair stream d
  let s1 := State.setHostPair { s with hostHeld := s.hostHeld ++ [⟨stream, d, p.give, link, pa, data, false⟩] } { p with give := p.give + 1 }
  (s1.offerHost (s1.hostPair stream d)).pumpHost

/-- What the host reads at an address: memory of the device itself reads 0 (21 R417). -/
def State.hostByte (s : State) (pa : Nat) : Byte := if s.regionOwner pa = 0xFFF then 0 else Memory.read s.mem pa

/-- HOST_SNOOP: the host's copy of a 64-byte line is given up, so that writes that are due there are in its view (07 R152). Log 104 (DEDUCED). -/
def execHostSnoop (line : Nat) (s : State) : Host.Outcome State Fault Refusal :=
  let mine (w : Write) : Bool := w.home && w.left.contains Config.hostObserver && isDevicePa w.pa && overlap w.pa w.size (64 * line) 64
  .next (foldState (fun (t : State) (w : Write) => match t.write? w.id with
    | some x => if t.observerDue x Config.hostObserver then t.applyObserver x Config.hostObserver else t
    | none => t) (s.writes.filter mine) s)

/-- HOST_LINK_DOWN (25 R483): accesses to host memory go by another link from then on. -/
def execHostLinkDown (link : Nat) (s : State) : Host.Outcome State Fault Refusal :=
  .next { s with sec := { s.sec with links := s.sec.links.set link 0 } }

/-! Links of flits (21 R421, R422). -/

/-- Log 10 (DESIGN CHOICE). -/
def execFlitReceive (link : LinkId) (flit : Flit) (s : State) : Host.Outcome State Fault Refusal :=
  .next (if s.sec.powered && (s.link link).up then s.receiveFlit link flit else s)

def execNakReceive (link : LinkId) (s : State) : Host.Outcome State Fault Refusal :=
  .next (if s.sec.powered then s.resend link else s)

/-- LINK_REPLAY_TIMEOUT: 2 µs without progress. -/
def execLinkReplayTimeout (link : LinkId) (s : State) : Host.Outcome State Fault Refusal :=
  .next (if s.sec.powered && decide (2000 ≤ s.tick - (s.link link).since) then s.resend link else s)

/-- A link that fails to retrain: a port is marked down and recorded, and what it holds goes by other planes (21 R424); a bridge brings a
cut of the device (22 R434). -/
def State.linkFails (s : State) (k : LinkId) : State :=
  let s1 := s.modLink k fun l => { l with up := false, retrain := false }
  match k with
  | .port p =>
    (State.almSched { s1 with sec := { s1.sec with ports := s1.sec.ports &&& ~~~(1#48 <<< p) } } (p / 3) 0x87 p 0).rerouteAll p
  | .bridge src _ => s1.startCut 0 ⟨0, 0, src, 0, 0, 0⟩

/-- LINK_RETRAIN, with its outcome: a link that trains again sends what waits for an ACK before anything new. Log 14 (DESIGN CHOICE). -/
def execLinkRetrain (link : LinkId) (ok : Bool) (s : State) : Host.Outcome State Fault Refusal :=
  .next (if s.sec.powered && (s.link link).retrain then
    (if ok then
      let s1 := s.modLink link fun l => { l with retrain := false, since := s.tick, unacked := l.unacked.map fun x => (x.1, 0) }
      (s1.resend link).pumpLink link
     else s.linkFails link)
  else s)

end Sys2Proof.Machine
end

