-- ==== Sys2Proof/Machine/Checkpoint.lean ====
section
/-! DEFINITION. Checkpoints (24): capture, its set in the buddy area, release and restore, for the partition whose lowest die of the
package holds the engine. -/

namespace Sys2Proof.Machine

def offCKGRP : Nat := 0x110
def offCKAREA : Nat := 0x118
def offCKSRC : Nat := 0x120

/-- The engine of a partition, and the dies it acts for (24 R463, R464). -/
def State.ck (s : State) (pid : Nat) : Ck := (lookup s.cks pid).getD {}
def State.modCk (s : State) (pid : Nat) (f : Ck → Ck) : State := { s with cks := insertKey s.cks pid (f (s.ck pid)) }
def State.ckDies (s : State) (pid : Nat) : List Nat := (List.range Config.dies).filter fun d => s.pid d = pid
/-- Log 115 (DEDUCED). -/
def State.isCkDie (s : State) (d : Nat) : Bool := decide (d < Config.dies) && s.pid d ≠ 0 && (s.ckDies (s.pid d)).head? = some d

/-- The Calends of every die of a partition run: what changes their state waits for one that is stopped (23 R450). -/
def State.ckAwake (s : State) (d : Nat) : Bool := s.calendsAwake d && (s.ckDies (s.pid d)).all s.calendsAwake

/-! Capture, steps 1 and 2 (24 R464). -/

/-- Every gang of a die is pre-empted, as by CAL_PREEMPT (18 R385). -/
def State.preemptDie (s : State) (d : Nat) : State :=
  let ks := (s.cohorts.filter fun x => x.1.die = d && !x.2.priv).map fun x => x.1
  let gangs := dedup (ks.filterMap fun k => (s.cohort? k).map fun c => c.gang)
  if ks.isEmpty then s
  else
    let fresh := ks.filter fun k => !s.slotPreempts k
    let p : PreemptReq := match (s.die d).preempt with
      | some p => { p with open_ := dedup (p.open_ ++ ks), gangs := dedup (p.gangs ++ gangs) }
      | none => { target := BitVec.ofNat 64 (2 ^ 63 + gangs.headD 0), left := 50000, open_ := ks, forced := 0, gangs := gangs }
    let s1 := (s.modDie d fun x => { x with preempt := some p }).setDcr d offPRST 1
    let note (t : State) (g : Nat) : State :=
      (t.almSched d 0x82 0 (BitVec.ofNat 64 (2 ^ 63 + g))).modGang (s.pid d) g fun x => { x with preempted := true }
    (foldState (fun (t : State) k => t.preemptCohort k) fresh (foldState note gangs s1)).settlePreempt d

/-- PREEMPT reaches each supervisor lane of a die (17 R354). -/
def State.preemptSupers (s : State) (d : Nat) : State :=
  let all (c : Cohort) : Cohort := { c with lanes := c.lanes.map fun (x : Nat × Lane) => (x.1, { x.2 with preemptDue := true }) }
  foldState (fun (t : State) core =>
    let k : CohKey := ⟨d, core, 15⟩
    if (t.cohort? k).isSome then ((t.alm d core 0x44 15 0 0 0).modCohort k all).deliverParked k else t) superCores s

/-- OP 0, from STATE 0. -/
def State.ckCapture (s : State) (d : Nat) : State :=
  let pid := s.pid d
  if !s.isCkDie d || (s.ck pid).state ≠ 0 then s
  else
    let s1 := s.modCk pid fun c => { c with state := 1, result := 0, epoch := c.epoch + 1, blob := none, waited := 0 }
    foldState (fun (t : State) e => (t.preemptDie e).preemptSupers e) (s.ckDies pid) s1

def execCkCapture (die : Nat) (s : State) : Host.Outcome State Fault Refusal :=
  .next (if s.ckAwake die then s.ckCapture die else s)

/-! Step 3. -/

/-- Nothing of the partition is in flight: no cohort to pre-empt, copy, freeze, thaw, side-log entry, collect or matrix operation, and no
write, as all of them are performed at `.SYS` before the state is gathered (24 R464). -/
def State.ckQuiet (s : State) (pid : Nat) : Bool :=
  let mine (d : Nat) : Bool := s.pid d = pid
  (s.cohorts.all fun x => x.2.priv || !mine x.1.die)
    && (s.dies.all fun d => !mine d.1 || d.2.preempt.isNone)
    && (s.jobs.all fun j => j.pid ≠ pid)
    && (s.cores.all fun c => !mine c.1.1 || (c.2.sideLog.isEmpty && c.2.sideWait.isEmpty))
    && (s.dies.all fun d => d.2.frzTable.all fun e => e.collecting = 0 || s.regionOwner (2097152 * e.region) ≠ pid)
    && (s.matOps.all fun o => !mine o.key.die)
    && s.writes.all fun w => !mine w.src.coh.die

/-! The set (24 R466 to R468). -/

/-- Regions of 2 MiB that a partition owns, by the owner tables (19 R408): region r begins at r × 2 MiB. -/
def State.ownedRegions (s : State) (pid : Nat) : List Nat :=
  let of (d : Nat) : List Nat :=
    let base := 2 ^ 15 * s.dcrBits d offROTBASE 56 15
    let listed := s.mem.filter fun c => decide (base ≤ c.1) && decide (c.1 < base + 2 * (s.memTop d / 2 ^ 25))
    (dedup (listed.map fun c => (c.1 - base) / 2)).filterMap fun i => if s.homeNat (base + 2 * i) 2 = pid then some (16 * i + d) else none
  ((List.range Config.dies).flatMap of).foldl (fun l r => insertNum r l) []

/-- The chunks of a partition's regions, in increasing address. -/
def State.ckChunks (s : State) (pid : Nat) : List Nat := (s.ownedRegions pid).flatMap fun r => [2 * r, 2 * r + 1]

/-- The frozen granules of a partition with their counts. -/
def State.ownedCounts (s : State) (pid : Nat) : List (Nat × Nat) :=
  (s.ownedRegions pid).flatMap fun r => (List.range 32).filterMap fun j =>
    let n := s.frzCount (granuleBytes * (32 * r + j))
    if n = 0 then none else some (32 * r + j, n)

/-- The buddy area: its base and size. -/
def State.ckArea (s : State) (d : Nat) : Nat × Nat := (2 ^ 30 * s.dcrBits d offCKAREA 56 30, 2 ^ 30 * s.dcrBits d offCKAREA 8 0)

/-- Where a set's half begins in the area: the own half comes first. Log 109 (DEDUCED). -/
def State.ckHalf (s : State) (d : Nat) (buddy : Bool) : Nat := if buddy then (s.ckArea d).2 / 2 else 0

/-- The chunk table, and what the chunk store holds by digest. -/
structure CkStore where
  table : List Byte := []
  stored : List (BitVec 256 × Nat) := []
  next : Nat
  deriving DecidableEq, Repr

/-- A chunk table entry. -/
def chunkEntry (digest : BitVec 256) (loc n : Nat) (frozen zero : Bool) : List Byte :=
  toBytes ((if zero then 1 else 0) + (if frozen then 2 else 0) + 2 ^ 20 * n + 2 ^ 192 * loc + 2 ^ 256 * digest.toNat) 64

/-- Add chunk n: a zero chunk is not stored, nor one whose digest is stored already. -/
def State.ckAdd (s : State) (x : CkStore) (n : Nat) : CkStore :=
  let kept := lookup (s.die (homeDie (chunkBytes * n))).kept n
  let digest := kept.getD (s.chunkDigest n)
  if (s.mem.all fun c => !(chunkBytes * n ≤ c.1 && c.1 < chunkBytes * (n + 1))) then
    { x with table := x.table ++ chunkEntry digest 0 n kept.isSome true }
  else match lookup x.stored digest with
    | some loc => { x with table := x.table ++ chunkEntry digest loc n kept.isSome false }
    | none => { table := x.table ++ chunkEntry digest x.next n kept.isSome false, stored := x.stored ++ [(digest, x.next)]
                next := x.next + chunkBytes }

/-- The partition registers of a set, CAL_SCRWAYS (0) among them, and the head of the host launch queue (24 R467). -/
def ckRegs : List Nat :=
  [offATP, offFHBASE, offFHSIZE, offFHRSV, 0, offHLQHEAD] ++ (List.range 16).flatMap fun n => [0x100100 + 16 * n, 0x100108 + 16 * n]

/-- The content of the state blob (24 R467). Log 110 (DESIGN CHOICE). -/
def State.ckGather (s : State) (pid : Nat) (epoch : W32) : CkBlob :=
  let ds := s.ckDies pid
  { epoch := epoch
    regs := ds.flatMap fun d => ckRegs.map fun o => ((d, o), s.dcr d o)
    owners := s.ownedRegions pid
    gangs := s.gangs.filter fun g => g.pid = pid
    segs := s.segs.filter fun x => x.heap = pid
    posts := ds.map fun d => (d, (s.die d).posts)
    dlq := ds.map fun d => (d, (s.die d).dlq)
    heads := ds.map fun d => (d, (s.die d).heads)
    requeue := ds.map fun d => (d, (s.die d).requeue)
    tensors := (s.cores.filter fun c => ds.contains c.1.1).map fun c => (c.1, c.2.tensors)
    barriers := s.barriers.filter fun b => b.pid = pid
    counts := s.ownedCounts pid
    frozen := s.dies.map fun d => (d.1, d.2.frzTable.filter fun e => s.regionOwner (2097152 * e.region) = pid) }

/-- Bytes whose values are not stated. Log 110 (DESIGN CHOICE). -/
def State.drawBytes (s : State) : Nat → List Byte × State
  | 0 => ([], s)
  | n + 1 =>
    let (v, s1) := s.drawValue
    let (bs, s2) := s1.drawBytes n
    (v.setWidth 8 :: bs, s2)

/-- The manifest header. Log 109 (DEDUCED). -/
def ckHeader (pid pkg : Nat) (epoch : W32) (nchunk blobSize blob mdig : Nat) : List Byte :=
  toBytes (0x4B435A31 + 2 ^ 72 * pid + 2 ^ 84 * pkg + 2 ^ 96 * epoch.toNat + 2 ^ 128 * nchunk + 2 ^ 160 * blobSize + 2 ^ 192 * blob
    + 2 ^ 256 * mdig) 64

def alignUp (n a : Nat) : Nat := (n + a - 1) / a * a

/-- The engine of a die writes bytes from any address on, over n granules. -/
def State.ckStore (s : State) (d a : Nat) : Nat → List Byte → State
  | 0, _ => s
  | n + 1, bs =>
    let m := granuleBytes - a % granuleBytes
    (s.engineStore ⟨⟨d, 0, 0⟩, 0⟩ a (bs.take m)).ckStore d (a + m) n (bs.drop m)
def State.ckPut (s : State) (d a : Nat) (bs : List Byte) : State := s.ckStore d a (bs.length / granuleBytes + 2) bs

/-- Copy the stored chunks into the half. -/
def State.ckCopy (s : State) (d base : Nat) : List (Nat × Nat) → State
  | [] => s
  | (n, loc) :: rest => (s.ckPut d (base + loc) (s.home (chunkBytes * n) chunkBytes)).ckCopy d base rest

/-- The package is its own successor in the ring. -/
def State.ckSelf (s : State) (d : Nat) : Bool := s.dcrBits d offCKGRP 63 52 = s.dcrBits d offPKGID 11 0

/-- Write the set into the own half, and into the buddy half too when that is where this package's copy goes; whether it fits. The chunks are
stored once, then come the tables and blobs, and the headers last. Log 109 (DEDUCED). -/
def State.ckWrite (s : State) (d : Nat) : Bool × State :=
  let pid := s.pid d
  let (base, size) := s.ckArea d
  let halves := if s.ckSelf d then [s.ckHalf d false, s.ckHalf d true] else [s.ckHalf d false]
  let chunks := s.ckChunks pid
  let (v, s1) := s.drawValue
  let (blob, s2) := s1.drawBytes (v.toNat % 2 ^ 26)
  let blobAt := 64 + 64 * chunks.length
  let first := alignUp (blobAt + blob.length) chunkBytes
  let x := chunks.foldl (fun y n => s2.ckAdd y n) { next := first }
  if size = 0 then (false, s2)
  else
    let s3 := foldState (fun (t : State) h => t.ckPut d (base + h) (zeros 64)) halves s2
    if size / 2 < x.next then (false, s3)
    else
      let sources := x.stored.filterMap fun y =>
        (chunks.find? fun n => (lookup (s2.die (homeDie (chunkBytes * n))).kept n).getD (s2.chunkDigest n) = y.1).map fun n => (n, y.2)
      let body (t : State) (h : Nat) : State := (t.ckPut d (base + h + 64) x.table).ckPut d (base + h + blobAt) blob
      let mdig := ofBytes (shake256 (x.table ++ blob) 32)
      let epoch := (s.ck pid).epoch
      let head (t : State) (h : Nat) : State :=
        t.ckPut d (base + h) (ckHeader pid (s.dcrBits d offPKGID 11 0) epoch chunks.length blob.length (h + blobAt) mdig)
      let s4 := foldState head halves (foldState body halves (s3.ckCopy d base sources))
      (true, s4.modCk pid fun c => { c with blob := some (s.ckGather pid epoch) })

/-- The dirty stash sectors of a partition are written back (24 R464 step 4). -/
def State.ckFlush (s : State) (pid : Nat) : State :=
  let mine := s.cores.filter fun c => s.pid c.1.1 = pid
  let lost := mine.flatMap fun c => c.2.pages.flatMap fun p =>
    (p.sectors.filter fun x => x.dirty && s.badAt x.pa 128).map fun x => (c.1, p.gang, x.pa)
  let clean (p : ScratchPage) : ScratchPage := { p with sectors := p.sectors.map fun x => { x with dirty := false } }
  let s1 := { s with cores := s.cores.map fun c => if s.pid c.1.1 = pid then (c.1, { c.2 with pages := c.2.pages.map clean }) else c }
  lost.foldl (fun (t : State) x => t.writeBackFails x.1.1 x.1.2 x.2.1 x.2.2) s1

/-- Steps 4 to 7. Whether another package's buddy half takes the set within its time is a choice of the outside world. Log 10 (DESIGN CHOICE). Log 111 (DESIGN CHOICE). -/
def State.ckFinish (s : State) (d : Nat) : State :=
  let pid := s.pid d
  match (s.ckFlush pid).ckWrite d with
  | (false, s1) => s1.modCk pid fun c => { c with state := 4, result := 2 }
  | (true, s1) =>
    let (n, s2) := if s.ckSelf d then (0, s1) else s1.choose 2
    if n = 0 then s2.modCk pid fun c => { c with state := 4, result := 1 }
    else s2.modCk pid fun c => { c with state := 3, waited := 0 }

def execCkQuiesceDone (die : Nat) (s : State) : Host.Outcome State Fault Refusal :=
  let pid := s.pid die
  .next (if s.ckAwake die && s.isCkDie die && (s.ck pid).state = 1 && s.ckQuiet pid then s.ckFinish die else s)

def buddyTicks : Nat := 1000000000

/-- CK_BUDDY_TIMEOUT: NEXT has not acknowledged within 1 s (24 R468). Log 111 (DESIGN CHOICE). -/
def execCkBuddyTimeout (die : Nat) (s : State) : Host.Outcome State Fault Refusal :=
  let pid := s.pid die
  .next (if s.ckAwake die && s.isCkDie die && (s.ck pid).state = 3 && decide (buddyTicks ≤ (s.ck pid).waited) then
    s.modCk pid fun c => { c with state := 4, result := 3 }
  else s)

/-! Release. -/

/-- OP 1, from STATE 4: held host writes apply, and pre-empted gangs are queued again. -/
def State.ckRelease (s : State) (d : Nat) : State :=
  let pid := s.pid d
  if !s.isCkDie d || (s.ck pid).state ≠ 4 then s
  else
    let listed := s.dies.flatMap fun x => if s.pid x.1 = pid then x.2.requeue.map (fun y => y.1) else []
    let more := (s.gangs.filter fun g => g.pid = pid && !g.images.isEmpty && !listed.contains g.id).map fun g => g.id
    ((s.modCk pid fun c => { c with state := 0 }).modDie d fun x => { x with requeue := x.requeue ++ more.map fun g => (g, 0) }).pumpHost

def execCkRelease (die : Nat) (s : State) : Host.Outcome State Fault Refusal :=
  .next (if s.ckAwake die then s.ckRelease die else s)

/-! Restore (24 R469). -/

/-- Every gang of the partition is aborted without a capsule. -/
def State.ckAbort (s : State) (d : Nat) : State :=
  let pid := s.pid d
  foldState (fun (t : State) g => t.abortCohorts d g false 0) ((s.gangs.filter fun g => g.pid = pid).map fun g => g.id) s

/-- A manifest in a half: its fields when it is valid, for the package of the set when that is known. -/
structure CkManifest where
  pkg : Nat
  epoch : W32
  table : List Byte
  sound : Bool
  deriving DecidableEq, Repr

def State.ckManifest (s : State) (d : Nat) (pkg : Option Nat) (half : Nat) : Option CkManifest :=
  let (area, size) := s.ckArea d
  let base := area + half
  let x := s.homeNat base 64
  let n := bits x 159 128
  let blobAt := bits x 255 192
  let blobSize := bits x 191 160
  let samePkg := match pkg with
    | some p => bits x 95 84 = p
    | none => true
  if size = 0 || s.badAt base 64 || bits x 31 0 ≠ 0x4B435A31 || bits x 71 32 ≠ 0 || bits x 83 72 ≠ s.pid d || !samePkg
      || decide (size / 2 < 64 + 64 * n) || decide (size < blobAt + blobSize) || s.badAt (base + 64) (64 * n) || s.badAt (area + blobAt) blobSize then
    none
  else
    let table := s.home (base + 64) (64 * n)
    some ⟨bits x 95 84, BitVec.ofNat 32 (bits x 127 96), table,
      ofBytes (shake256 (table ++ s.home (area + blobAt) blobSize) 32) = bits x 511 256⟩

/-- Chunks go back to their places from their places in the area. -/
def State.ckChunkBack (s : State) (area : Nat) (table : List Byte) : Nat → State
  | 0 => s
  | n + 1 =>
    let e := ofBytes (table.take 64)
    let pa := chunkBytes * bits e 56 20
    let s1 := if bit e 0 then s.clearRange pa chunkBytes else s.storeAll pa (s.home (area + bits e 255 192) chunkBytes)
    s1.ckChunkBack area (table.drop 64) n

/-- The sections of the blob are loaded. Log 113 (DEDUCED). -/
def State.ckLoad (s : State) (d : Nat) (b : CkBlob) : State :=
  let pid := s.pid d
  let s1 := foldState (fun (t : State) x => t.setDcr x.1.1 x.1.2 x.2) b.regs s
  let own (n : Nat) (t : State) (r : Nat) : State := t.storeAll (t.ownerWord (2097152 * r)) (toBytes n 2)
  let s2 := foldState (own pid) b.owners (foldState (own 0) (s1.ownedRegions pid) s1)
  let calends (t : State) (e : Nat) : State := t.modDie e fun y => { y with
    posts := (lookup b.posts e).getD [], dlq := (lookup b.dlq e).getD [], heads := (lookup b.heads e).getD []
    requeue := (lookup b.requeue e).getD [] }
  let s3 := foldState calends (s.ckDies pid) s2
  let s4 := foldState (fun (t : State) x => t.modCore x.1.1 x.1.2 fun y => { y with tensors := x.2 }) b.tensors s3
  let thawed := foldState (fun (t : State) r => t.storeAll (t.frzByte (2097152 * r)) (zeros 32)) b.owners { s4 with
    dies := s4.dies.map fun x => (x.1, { x.2 with frzTable := x.2.frzTable.filter fun e => s2.regionOwner (2097152 * e.region) ≠ pid }) }
  let s5 := foldState (fun (t : State) x => t.setFrzCount (granuleBytes * x.1) x.2) b.counts thawed
  let s6 := foldState (fun (t : State) x => t.modDie x.1 fun y => { y with frzTable := y.frzTable ++ x.2 }) b.frozen s5
  { s6 with
    gangs := (s6.gangs.filter fun g => g.pid ≠ pid) ++ b.gangs
    segs := (s6.segs.filter fun x => x.heap ≠ pid) ++ b.segs
    barriers := (s6.barriers.filter fun x => x.pid ≠ pid) ++ b.barriers }

/-- Commit the saved images of each gang, all or none. A gang whose chain has to wait is committed after the release, with the others that
have images. -/
def State.ckImages (s : State) (d : Nat) : State :=
  foldState (fun (t : State) (g : Gang) => if g.images.isEmpty then t else (t.commit d (t.imageChain d g)).2)
    (s.gangs.filter fun g => g.pid = s.pid d) s

/-- Restore from a half, whose blob is known when the part wrote it. Log 113 (DEDUCED). -/
def State.ckRestore (s : State) (d : Nat) (half : Nat) (pkg : Option Nat) (present : Bool) : State :=
  let pid := s.pid d
  if !s.isCkDie d || ((s.ck pid).state ≠ 0 && (s.ck pid).state ≠ 4) then s
  else
    let s1 := s.ckAbort d
    let fail (n : Nat) : State := s1.modCk pid fun c => { c with state := 0, result := n }
    match if present then s1.ckManifest d pkg half else none with
    | none => fail 4
    | some m =>
      if !m.sound then fail 5
      else
        let s2 := s1.ckChunkBack (s1.ckArea d).1 m.table (m.table.length / 64)
        let known := match (s.ck pid).blob with
          | some b => if m.pkg = s.dcrBits d offPKGID 11 0 && b.epoch = m.epoch then some b else none
          | none => none
        let s3 := match known with
          | some b => (s2.ckLoad d b).ckImages d
          | none => s2
        s3.modCk pid fun c => { c with state := 4, result := 1, epoch := m.epoch }

/-- OP 2: the own half. -/
def State.ckRestoreOwn (s : State) (d : Nat) : State :=
  s.ckRestore d (s.ckHalf d false) (some (s.dcrBits d offPKGID 11 0)) true

/-- OP 3: the buddy half of CAL_CKSRC, which this package can read when it is its own. Log 112 (DESIGN CHOICE). -/
def State.ckRestoreSrc (s : State) (d : Nat) : State :=
  s.ckRestore d (s.ckHalf d true) none (s.dcrBits d offCKSRC 63 52 = s.dcrBits d offPKGID 11 0)

def execCkRestoreOwn (die : Nat) (s : State) : Host.Outcome State Fault Refusal :=
  .next (if s.ckAwake die then s.ckRestoreOwn die else s)
def execCkRestoreSrc (die : Nat) (s : State) : Host.Outcome State Fault Refusal :=
  .next (if s.ckAwake die then s.ckRestoreSrc die else s)

end Sys2Proof.Machine
end

