-- ==== Sys2Proof/Machine/Power.lean ====
section
/-! DEFINITION. Clock steps and the power arbiter (01 R18; 25 R477 to R481), resets (25 R472) and the boot sequence (25 R471, R473,
R474). -/

namespace Sys2Proof.Machine

def offENVELOPE : Nat := 0x500000
def offDIECTL : Nat := 0x500008
def offGRANT : Nat := 0x500010
def offTHROTTLE : Nat := 0x500020
def offTEMP : Nat := 0x500028

/-! Relocks. -/

/-- Relock a die to a step, after `extra` further ticks. -/
def State.startRelock (s : State) (d n extra : Nat) : State :=
  s.modDie d fun x => { x with relock := some ⟨relockTicks + extra, n, s.tick + extra⟩ }

/-- An order for a step: from the next tick, or once a relock that runs has ended (25 R481). -/
def State.orderStep (s : State) (d n : Nat) : State :=
  match (s.die d).relock with
  | none => if n = (s.die d).step then s else s.startRelock d n 1
  | some r => s.modDie d fun x => { x with order := if r.next = n then none else some n }

/-- RELOCK_END: the die runs at its new step (01 R18), FSTEP is recorded (22 R430), and a step ordered
meanwhile is locked to. Else its homes take up what waited for them (15 R341). -/
def State.endRelock (s : State) (d : Nat) (r : Relock) : State :=
  let old := (s.die d).step
  let s1 := s.modDie d fun x => { x with relock := none, step := r.next, order := none }
  let s2 := (List.range Config.cores).foldl (fun (t : State) c => t.alm d c 0x50 0 0 (old + 16 * r.next) (BitVec.ofNat 64 r.start)) s1
  match (s.die d).order with
  | some n => if n = r.next then s2.pumpHost else s2.startRelock d n 0
  | none => s2.pumpHost

/-- Log 50 (DEDUCED). -/
def execRelockEnd (die : Nat) (s : State) : Host.Outcome State Fault Refusal :=
  match (s.die die).relock with
  | some r => .next (if r.left = 0 && s.clocked die then s.endRelock die r else s)
  | none => .next s

/-! The arbiter (25 R478). -/

/-- MIN and MAX step codes of a die. -/
def State.minStep (s : State) (d : Nat) : Nat := s.dcrBits d offDIECTL 3 0
def State.maxStep (s : State) (d : Nat) : Nat := s.dcrBits d offDIECTL 7 4

/-- The highest step in the range whose power fits, else the lowest: n steps from `lo` up are tried from the top. -/
def pickStep (fits : Nat → Bool) (lo : Nat) : Nat → Nat
  | 0 => lo
  | n + 1 => if fits (lo + n) then lo + n else pickStep fits lo n

/-- Grants and steps of one pass: `power` gives each die's predicted power by step code. -/
def State.arbiterPass (s : State) (avail : Nat) (power : List (List Nat)) : State :=
  let watts (d n : Nat) : Nat := (power.getD d []).getD n 0
  let give := min avail (s.dcrBits 0 offENVELOPE 15 0)
  let demand (d : Nat) : Nat := watts d (s.maxStep d)
  let total := ((List.range Config.dies).map demand).sum
  let one (t : State) (d : Nat) : State :=
    let grant := give * demand d / total
    let step := pickStep (fun n => watts d n ≤ grant) (t.minStep d) (t.maxStep d + 1 - t.minStep d)
    let t1 := t.setDcr d offGRANT (BitVec.ofNat 64 (grant % 2 ^ 16))
    if (t.die d).relock.isSome || (t.die d).hotClamp || !t.clocked d then t1 else t1.orderStep d step
  { foldState one (List.range Config.dies) s with arbiter := 0 }

/-- ARBITER_PASS: every 10,000 ticks from boot stage 7 on, with the power available and the power predicted by its firmware. Log 14 (DESIGN CHOICE). -/
def execArbiterPass (avail : Nat) (power : List (List Nat)) (s : State) : Host.Outcome State Fault Refusal :=
  .next (if s.arbiterDue then s.arbiterPass avail power else s)

/-- CURRENT_LIMIT (25 R481): issues are withheld, which only takes time, and one event is counted; or the current has fallen. Log 14 (DESIGN CHOICE). Log 105 (DESIGN CHOICE). -/
def execCurrentLimit (die : Nat) (s : State) : Host.Outcome State Fault Refusal :=
  .next (if !s.awake die || decide (Config.dies ≤ die) then s
  else if (s.die die).limited then s.modDie die fun x => { x with limited := false }
  else
    (s.modDie die fun x => { x with limited := true }).setDcr die offTHROTTLE
      (BitVec.ofNat 64 (min (2 ^ 32 - 1) (s.dcrBits die offTHROTTLE 31 0 + 1))))

/-! Temperature (25 R479). -/

/-- THERMAL_THROTTLE: the hottest sensor of a die reads `degC`. Log 14 (DESIGN CHOICE). -/
def execThermalThrottle (die degC : Nat) (s : State) : Host.Outcome State Fault Refusal :=
  .next (if !s.sec.powered || decide (Config.dies ≤ die) then s
  else
    let s1 := s.setDcr die offTEMP (BitVec.ofNat 64 (min degC 255))
    if 110 ≤ degC then (s1.modDie die fun x => { x with hotClamp := true }).orderStep die 0
    else if degC < 100 then s1.modDie die fun x => { x with hotClamp := false }
    else s1)

/-! Resets (25 R472, 22 R445). -/

/-- What survives every reset: SEQ, the leaf and rollback counters; the host's memory, which is not the part's; and the model's own
inputs. Log 108 (DEDUCED). -/
def State.cleared (s : State) : State :=
  { State.reset with
    mem := s.mem.filter fun c => isHostPa c.1
    capsuleSeq := s.capsuleSeq, xmssLeaf := s.xmssLeaf, sec := { rollback := s.sec.rollback }
    hostOut := s.hostOut, hostMsi := s.hostMsi, agenda := s.agenda, choices := s.choices, drawn := s.drawn
    drawnValues := s.drawnValues }

def State.coldReset (s : State) : State := s.cleared

/-- Slots that are busy are sealed, unsigned and incomplete, with the sections already copied. -/
def State.sealBusy (s : State) : State :=
  foldState (fun (t : State) (c : Cut) => if c.started && !c.isSealed then
      let (v, t1) := t.drawValue
      t1.assemble c 3 (v.toNat % 2 ^ 32)
    else t) s.cuts s

/-- A warm reset keeps device memory and the vault. Log 108 (DEDUCED). -/
def State.warmReset (s : State) : State :=
  let s1 := s.sealBusy
  { s1.cleared with
    mem := s1.mem.filter fun c => decide (c.1 < 2 ^ 56)
    bad := s1.bad.filter fun u => decide (32 * u < 2 ^ 55)
    vault := s1.vault, vaultDropped := s1.vaultDropped }

/-- Power is gone: nothing volatile is left. -/
def State.powerOff (s : State) : State := { s.coldReset with sec := { rollback := s.sec.rollback, powered := false } }

def execThermalTrip (die : Nat) (s : State) : Host.Outcome State Fault Refusal :=
  .next (if die < Config.dies then s.powerOff else s)
def execPowerLoss (s : State) : Host.Outcome State Fault Refusal := .next s.powerOff
/-- POWER_ON: a cold reset of a part without power. -/
def execPowerOn (s : State) : Host.Outcome State Fault Refusal := .next (if s.sec.powered then s else s.coldReset)

/-! Boot (25 R473). -/

/-- The boot stops: FAIL names the unit. Log 107 (DESIGN CHOICE). -/
def State.bootFails (s : State) (unit : W32) : State := { s with sec := { s.sec with stage := 15, fail := unit } }

/-- A failing unit whose name is not stated. Log 107 (DESIGN CHOICE). -/
def State.unitFails (s : State) : State :=
  let (v, s1) := s.drawValue
  s1.bootFails (v.setWidth 32)

def State.bootOn (s : State) : State := { s with sec := { s.sec with stage := s.sec.stage + 1 } }


/-- Stage 2 ends: every stack must have trained. -/
def State.bootMemory (s : State) (trained : BitVec 32) : State :=
  let s1 := { s with sec := { s.sec with hbm := trained } }
  if trained ≠ BitVec.allOnes 32 then s1.unitFails
  else ((List.range Config.dies).foldl (fun (t : State) d => t.setDcr d offMEMTOP (BitVec.ofNat 64 fullTop)) s1).bootOn

/-- The bridges of the mesh: neighbours in a row or a column (01 R15). -/
def bridges : List LinkId :=
  (List.range Config.dies).flatMap fun a => ((List.range Config.dies).filter fun b =>
    (a / 4 = b / 4 && (a + 1 = b || b + 1 = a)) || a + 4 = b || b + 4 = a).map fun b => LinkId.bridge a b

def State.linksUp (s : State) (ks : List LinkId) : State :=
  foldState (fun (t : State) k => t.modLink k fun _ => { up := true, since := s.tick }) ks s

/-- Stage 4 ends: host link 0 must have trained, at x16 or x8. -/
def State.bootLinks (s : State) (widths : List Nat) : State :=
  let w := (List.range 4).map fun i => if widths.getD i 0 = 16 || widths.getD i 0 = 8 then widths.getD i 0 else 0
  let s1 := { s with sec := { s.sec with links := w } }
  if w.getD 0 0 = 0 then s1.unitFails else s1.bootOn

/-- The image of a TYPE: staged by IMGLOAD, else in boot flash. -/
def State.imageBytes (s : State) (type : Nat) : List Byte :=
  match lookup s.sec.staged type with
  | some bs => (List.range (bs.foldl (fun m x => max m (x.1 + 1)) 0)).map fun i => (lookup bs i).getD 0
  | none => Config.flashImage type

def imageHeader : Nat := 128

/-- What checking an image of a TYPE finds (25 R474). -/
inductive ImageCheck where
  | ok (x : Image)
  | metal
  | bad
  deriving DecidableEq, Repr

def State.checkImage (s : State) (type : Nat) (bs : List Byte) : ImageCheck :=
  let h := ofBytes (bs.take 48)
  let n := bits h 127 96
  let body := (bs.drop imageHeader).take n
  let id := (s.dcr 0 offIDENT).toNat
  let version := BitVec.ofNat 32 (bits h 95 64)
  if bs.length ≠ imageHeader + n + signatureBytes || bits h 31 0 ≠ 0x4D495A46 || bits h 39 32 ≠ type || bits h 63 48 ≠ bits id 31 16 then .bad
  else if bits h 47 40 ≠ bits id 11 8 then .metal
  else if bits h 383 128 ≠ ofBytes (shake256 body 32) || !Config.vendorVerify (bs.take 48) (bs.drop (imageHeader + n))
      || decide (version < (lookup s.sec.rollback type).getD 0) then .bad
  else .ok ⟨BitVec.ofNat 256 (bits h 383 128), version⟩

/-- Images refused for METAL, by bit TYPE − 1 (00 R3). -/
def State.metalRefusals (s : State) : Nat :=
  (([1, 2].filter fun t => s.checkImage t (s.imageBytes t) = .metal).map fun t => 2 ^ (t - 1)).sum

/-- Images are verified in order of TYPE; the rollback counter rises with each (25 R474). -/
def State.verifyImages (s : State) : List Nat → State
  | [] => s.bootOn
  | t :: ts =>
    match s.checkImage t (s.imageBytes t) with
    | .ok x =>
      State.verifyImages { s with sec := { s.sec with
        images := insertKey s.sec.images t x, rollback := insertKey s.sec.rollback t x.version } } ts
    | _ => s.unitFails

/-- Stage 5: each image that is refused for METAL is recorded for the attestation report. -/
def State.bootImages (s : State) (types : List Nat) : State :=
  State.verifyImages { s with sec := { s.sec with refused := s.sec.refused ||| s.metalRefusals } } types

/-- Read-only registers that are written at bring-up. -/
def bootOffsets : List Nat := [offSFHBASE, offSFHSIZE, 0x8, offROTBASE, 0x400000]

/-- A register written at bring-up, in its own field. Log 7 (DESIGN CHOICE). -/
def bootField (off : Nat) (v : W64) : W64 :=
  if off = offSFHBASE then v &&& 0x01FFFFFFFFFFFE00
  else if off = offSFHSIZE then v &&& 0xFFFFFFFF
  else if off = 0x8 then v &&& 0x01FFFFFFFFFFC000
  else if off = offROTBASE then v &&& 0x01FFFFFFFFFF8000
  else v &&& 0x01FFFFFFFFF00000

/-- The owner table and the freeze counts of a die begin empty; the top 1 GiB of memory belongs to the device (25 R471): 32 regions of
each die. -/
def State.reserveTop (s : State) (d : Nat) : State :=
  let n := s.memTop d / 2 ^ 25
  let table := 2 ^ 15 * s.dcrBits d offROTBASE 56 15
  let s1 := (s.clearRange table (2 * n)).clearRange (2 ^ 20 * s.dcrBits d offFRZMAPBASE 56 20) (32 * n)
  s1.storeAll (table + 2 * (n - 32)) ((List.range 32).flatMap fun _ => toBytes deviceOwner 2)

/-- Stage 6 on one die: registers, the owner table, both supervisors. Log 18 (DEDUCED). -/
def State.bootDie (s : State) (d : Nat) : State :=
  let s1 := foldState (fun (t : State) o => t.setDcr d o (bootField o (Config.bootRegister d o))) bootOffsets s
  let s2 := (s1.setDcr d offPKGID (Config.bootRegister 0 offPKGID &&& 0x7FFF)).reserveTop d
  superCores.foldl (fun (t : State) c => t.bindSupervisor d c) s2

/-- An accepted image is copied into the firmware region. -/
def State.placeImage (s : State) (type : Nat) : State :=
  let bs := s.imageBytes type
  s.storeAll (s.memTop 0 - 2 ^ 30 + Config.imagePlace type % 2 ^ 29) ((bs.drop imageHeader).take (bits (ofBytes (bs.take 48)) 127 96))

def State.bootCores (s : State) : State :=
  let s1 := foldState (fun (t : State) d => t.bootDie d) (List.range Config.dies) (foldState (fun (t : State) y => t.placeImage y) [1, 2] s)
  { s1.bootOn with arbiter := 0 }

/-- Stage 8 ends: the ports that trained are up. -/
def State.bootPorts (s : State) (up : BitVec 48) : State :=
  (State.linksUp { s with sec := { s.sec with ports := up } } (((List.range 48).filter fun p => up.getLsbD p).map LinkId.port)).bootOn

/-- The present stage ends with what it found; only a stack, a bridge or host link 0 can fail (25 R473). Log 106 (DEDUCED). -/
def State.bootStage (s : State) (r : BootResult) : State :=
  let fails := match r with
    | .fail unit => if s.sec.stage ∈ [2, 3, 4] then some unit else none
    | _ => none
  match fails with
  | some unit => s.bootFails unit
  | none =>
    match s.sec.stage with
    | 2 => s.bootMemory (match r with | .hbm x => x | _ => BitVec.allOnes 32)
    | 3 => (s.linksUp bridges).bootOn
    | 4 => s.bootLinks (match r with | .links x => x | _ => [16, 16, 16, 16])
    | 5 => s.bootImages [1, 2]
    | 6 => s.bootCores
    | 8 => s.bootPorts (match r with | .ports x => x | _ => BitVec.allOnes 48)
    | _ => s.bootOn

/-- Log 14 (DESIGN CHOICE). -/
def execBootStage (r : BootResult) (s : State) : Host.Outcome State Fault Refusal :=
  .next (if s.bootDue then s.bootStage r else s)

end Sys2Proof.Machine
end

