-- ==== Sys2Proof/Machine/Dcr.lean ====
section
/-! DEFINITION. Reads and writes of device control registers (17 R360 to R363 and the register tables of files 18, 19, 21 to 25):
which fields exist and may be written, what a read computes, and what a write sets off. -/

namespace Sys2Proof.Machine

/-- Bits [hi:lo] set. -/
def fieldMask (hi lo : Nat) : W64 := BitVec.ofNat 64 ((2 ^ (hi + 1 - lo) - 1) * 2 ^ lo)

/-- A register that is stored as it is written: the bits a read returns, those a write sets, and those that writing 1 clears. -/
structure DcrFields where
  read : W64
  write : W64
  clear : W64 := 0
  deriving DecidableEq, Repr

def rwField (m : W64) : Option DcrFields := some ⟨m, m, 0⟩
def roField (m : W64) : Option DcrFields := some ⟨m, 0, 0⟩
def w1cField (m : W64) : Option DcrFields := some ⟨m, 0, m⟩

/-- CAL_ registers without a rule of their own (17 R362, 18 R378, R385; 24 R463). -/
def calFields (off : Nat) : Option DcrFields :=
  match off with
  | 0x00 => roField (fieldMask 2 0)
  | 0x08 => roField (fieldMask 56 14)
  | 0x10 => rwField (fieldMask 31 0)
  | 0x18 => roField (fieldMask 31 0)
  | 0x40 => roField (fieldMask 56 12 ||| fieldMask 4 0)
  | 0x48 => rwField (fieldMask 31 0)
  | 0x50 => roField (fieldMask 31 0)
  | 0x68 => roField (fieldMask 23 8 ||| fieldMask 1 0)
  | 0x78 => rwField (fieldMask 56 17)
  | 0x80 => roField (fieldMask 47 32 ||| fieldMask 1 0)
  | _ => none

/-- XLT_ registers (17 R362; 19 R401, R402, R406, R407), offsets from the block. -/
def xltFields (off : Nat) : Option DcrFields :=
  match off with
  | 0x00 => roField (fieldMask 56 21)
  | 0x08 => roField (fieldMask 31 0)
  | 0x10 => roField (fieldMask 15 0)
  | 0x18 => roField (fieldMask 63 0)
  | 0x20 => roField (fieldMask 56 9)
  | 0x28 => roField (fieldMask 31 0)
  | 0x38 => roField (fieldMask 11 0)
  | 0x40 => roField (fieldMask 56 15)
  | 0x48 => roField (fieldMask 56 12 ||| fieldMask 4 0)
  | 0x50 => rwField (fieldMask 31 0)
  | 0x58 => rwField (fieldMask 56 2)
  | 0x60 => rwField (fieldMask 10 0)
  | 0x68 => rwField (fieldMask 56 6)
  | 0x70 => roField (fieldMask 47 32 ||| fieldMask 15 0)
  | _ =>
    if 0x100 ≤ off && off < 0x200 then
      (if off % 16 = 0 then rwField (fieldMask 56 21 ||| fieldMask 1 0) else rwField (fieldMask 55 12))
    else none

/-- ALM_ registers (22 R433). -/
def almFields (off : Nat) : Option DcrFields :=
  match off with
  | 0x00 => rwField (fieldMask 8 4 ||| fieldMask 0 0)
  | 0x10 => roField (fieldMask 63 0)
  | 0x20 => w1cField (fieldMask 31 0)
  | _ => none

/-- SOL_ registers of a die (23 R454, R458, R461). -/
def solFields (off : Nat) : Option DcrFields :=
  if 0x100 ≤ off && off < 0x180 then
    (if off % 16 = 0 then rwField (fieldMask 63 63 ||| fieldMask 56 2) else rwField (fieldMask 34 0))
  else if 0x200 ≤ off && off < 0x280 then
    (match off % 32 with
    | 0 => rwField (fieldMask 63 63 ||| fieldMask 56 0)
    | 8 => rwField (fieldMask 56 0)
    | 16 => rwField (fieldMask 36 0)
    | _ => none)
  else match off with
    | 0x400 => rwField (fieldMask 63 62 ||| fieldMask 47 0)
    | 0x408 => rwField (fieldMask 56 12)
    | 0x410 => rwField (fieldMask 31 12)
    | 0x418 => roField (fieldMask 31 0)
    | 0x420 => w1cField (fieldMask 63 63 ||| fieldMask 31 0)
    | 0x440 => rwField (fieldMask 63 63 ||| fieldMask 31 0)
    | 0x448 => rwField (fieldMask 56 12)
    | 0x450 => rwField (fieldMask 31 12)
    | _ => none

/-- PWR_ and SEC_ registers (17 R362; 25 R471, R477). -/
def pwrFields (d off : Nat) : Option DcrFields :=
  match off with
  | 0x00 => if d = 0 then roField (fieldMask 15 0) else none
  | 0x08 => roField (fieldMask 7 0)
  | 0x10 => roField (fieldMask 15 0)
  | 0x20 => w1cField (fieldMask 31 0)
  | 0x28 => roField (fieldMask 7 0)
  | _ => none
def secFields (off : Nat) : Option DcrFields :=
  match off with
  | 0x00 => roField (fieldMask 31 0)
  | 0x10 => roField (fieldMask 56 25)
  | _ => none

/-- HOST_ registers (21 R422). -/
def hostFields (off : Nat) : Option DcrFields :=
  match off with
  | 0x40 => rwField (fieldMask 0 0)
  | 0x48 => w1cField (fieldMask 31 0)
  | 0x50 => roField (fieldMask 56 0)
  | 0x58 => rwField (fieldMask 10 0)
  | 0x60 => rwField (fieldMask 56 2)
  | 0xF0 => roField (fieldMask 14 0)
  | 0x100 | 0x108 | 0x110 => w1cField (fieldMask 31 0)
  | _ => none

/-- The stored fields of the register at an offset of a die. -/
def dcrFields (d off : Nat) : Option DcrFields :=
  match off / 0x100000 with
  | 0 => calFields off
  | 1 => xltFields (off - 0x100000)
  | 2 => almFields (off - 0x200000)
  | 3 => solFields (off - 0x300000)
  | 4 => if off = 0x400000 then roField (fieldMask 56 20) else if off = offFRZTABSTAT then w1cField (fieldMask 63 63) else none
  | 5 => pwrFields d (off - 0x500000)
  | 6 => secFields (off - 0x600000)
  | 7 => hostFields (off - 0x700000)
  | _ => none

/-! Computed reads. -/

def boolW (b : Bool) (n : Nat) : W64 := if b then 1#64 <<< n else 0

/-- Bit s for each sector number. -/
def sectorMask (l : List Nat) : Nat := (dedup l).foldl (fun m n => if n < 128 then m + 2 ^ n else m) 0

/-- An entry of a scratch page table (06 R124). -/
def ScratchPage.entry (p : ScratchPage) : Nat :=
  let present := match p.stash with
    | some _ => sectorMask (p.sectors.map fun x => x.idx)
    | none => sectorMask ((List.range 128).filter fun n => !p.absent.contains n)
  let dirty := match p.stash with
    | some _ => sectorMask ((p.sectors.filter fun x => x.dirty).map fun x => x.idx)
    | none => sectorMask p.dirty
  let sva := match p.stash with
    | some a => bits a 56 14
    | none => 0
  p.back % 2 ^ 44 + (if p.stash.isSome then 2 ^ 48 else 0) + (if p.pinned then 2 ^ 49 else 0) + 2 ^ 50 + 2 ^ 85 * sva + 2 ^ 128 * present
    + 2 ^ 256 * dirty

/-- A doubleword of a core's scratch page table (17 R363). -/
def State.readPageTable (s : State) (d c off : Nat) : W64 :=
  let i := off % 64 / 8
  if Config.cores ≤ c || 48 ≤ off / 64 || 6 ≤ i then 0
  else match (s.core d c).pages.find? fun p => p.physical && p.num = off / 64 with
    | some p => BitVec.ofNat 64 (p.entry / 2 ^ (64 * i))
    | none => 0

/-- A doubleword of a core's side log (19 R398). -/
def State.readSideLog (s : State) (d off : Nat) : W64 :=
  if Config.cores ≤ off / 0x4000 then 0
  else BitVec.ofNat 64 ((s.core d (off / 0x4000)).sideHeader (off % 0x4000 / 64) / 2 ^ (64 * (off % 64 / 8)))

/-- A park entry (23 R456). -/
def Park.entry (p : Park) : W64 :=
  BitVec.ofNat 64 (2 ^ 63 + 2 ^ 56 * p.bp + 2 ^ 24 * (p.gang % 2 ^ 32) + 2 ^ 18 * p.core + 2 ^ 16 * p.role + 2 ^ 10 * p.member)

/-- ALM_VAULT (22 R433). -/
def State.vaultStat (s : State) : W64 :=
  let slots (n : Nat) : Nat := ((List.range 4).map fun i => if (s.vault.getD i {}).state = n then 2 ^ i else 0).sum
  BitVec.ofNat 64 (slots 2 + 16 * slots 1 + 256 * s.vaultDropped)

def State.anyFrozen (s : State) (d : Nat) : Bool :=
  (s.die d).schedAlm.frozen.isSome || (List.range Config.cores).any fun c => (s.core d c).alm.frozen.isSome

/-- CAL_CKST (24 R463). Log 115 (DEDUCED). -/
def State.ckStat (s : State) (d : Nat) : W64 :=
  let c := s.ck (s.pid d)
  BitVec.ofNat 64 (c.state + 2 ^ 8 * c.result + 2 ^ 32 * c.epoch.toNat)

/-- The read of a register that computes its value; `none` where the register is stored, or there is none. -/
def State.computedDcr (s : State) (d off : Nat) : Option W64 :=
  let x := s.die d
  if off = 0x108 then some (if s.isCkDie d then s.ckStat d else 0)
  else if off = offFRQSTAT then
    some ((s.dcr d offFRQSTAT &&& fieldMask 63 63) ||| BitVec.ofNat 64 (2 ^ 16 * x.out.length + x.frq.length))
  else if off = offALMSTAT then some (boolW (s.anyFrozen d) 63 ||| (s.dcr d offALMSTAT &&& fieldMask 15 0))
  else if off = 0x200028 then some s.vaultStat
  else if off = 0x300000 then some s.sol.stopAt
  else if off = 0x300008 then some (boolW s.sol.arm 63 ||| boolW s.sol.stopped 62 ||| s.sol.dies.setWidth 64)
  else if off = 0x300010 then some s.sol.resumeAt
  else if 0x300300 ≤ off && off < 0x300320 then
    some (match x.parks.getD ((off - 0x300300) / 8) none with
      | some p => p.entry
      | none => 0)
  else if off = offFRZTABSTAT then
    some ((s.dcr d offFRZTABSTAT &&& (fieldMask 63 63 ||| fieldMask 28 16)) ||| BitVec.ofNat 64 x.frzTable.length)
  else if off = 0x500018 then
    some (BitVec.ofNat 64 (x.step + 16 * (match x.relock with | some r => r.next | none => x.step)))
  else if off = 0x600018 then some (BitVec.ofNat 64 (s.sec.stage + 2 ^ 32 * s.sec.fail.toNat))
  else if off = 0x700000 then
    some (if d % 5 = 0 && s.hostLinkUp (d / 5) then
      BitVec.ofNat 64 (2 ^ 63 + 2 ^ 8 * s.sec.links.getD (d / 5) 0 + 64) else 0)
  else if 0x700100 ≤ off && off < 0x700118 then
    some (boolW (s.sec.ports.getLsbD (3 * d + (off - 0x700100) / 8)) 63 ||| (s.dcr d off &&& fieldMask 31 0))
  else if 0x140000 ≤ off && off < 0x200000 then some (s.readSideLog d (off - 0x140000))
  else if 0x800000 ≤ off then some (s.readPageTable d ((off - 0x800000) / 0x1000) (off % 0x1000))
  else if !s.isCkDie d && (off = offCKGRP || off = offCKAREA || off = offCKSRC) then some 0
  else if off = offCKGRP then some (s.dcr d off &&& fieldMask 63 40)
  else if off = offCKAREA then some (s.dcr d off &&& (fieldMask 56 30 ||| fieldMask 8 0))
  else if off = offCKSRC then some (s.dcr d off &&& fieldMask 63 52)
  else none

def offDLQPOP : Nat := 0x58

/-- A read of a register (17 R360). A read of CAL_DLQPOP pops (18 R378). -/
def State.readDcr (s : State) (d off : Nat) : W64 × State :=
  if Config.dies ≤ d || off % 8 ≠ 0 then (0, s)
  else if off = offDLQPOP then
    (match (s.die d).dlq with
    | va :: rest => (BitVec.ofNat 64 (2 ^ 63 + bits va 56 6 * 64), s.modDie d fun x => { x with dlq := rest })
    | [] => (0, s))
  else match s.computedDcr d off with
    | some v => (v, s)
    | none => match dcrFields d off with
      | some f => (s.dcr d off &&& f.read, s)
      | none => (0, s)

/-! Writes. -/

/-- A stored register after a write. -/
def DcrFields.after (f : DcrFields) (old v : W64) : W64 := ((old &&& ~~~f.write) ||| (v &&& f.write)) &&& ~~~(v &&& f.clear)

/-- A gang of the partition has a resident cohort on the die (17 R362). -/
def State.residentOn (s : State) (d : Nat) : Bool := s.cohorts.any fun x => x.1.die = d && !x.2.priv

/-- A field written in a register, unless its value is refused. -/
def putField (old v : W64) (hi lo : Nat) (ok : Nat → Bool) : W64 :=
  let n := bits v.toNat hi lo
  if ok n then (old &&& ~~~(fieldMask hi lo)) ||| (v &&& fieldMask hi lo) else old

/-- XLT_FH and XLT_ATP, which a resident gang protects. -/
def State.writeMapping (s : State) (d off : Nat) (v : W64) : State :=
  if s.residentOn d then s
  else
    let old := s.dcr d off
    if off = offATP then
      s.setDcr d off (putField (putField (putField old v 63 60 fun n => n = 0 || n = 10) v 59 44 fun _ => true) v 43 0 fun _ => true)
    else if off = offFHBASE then s.setDcr d off (v &&& fieldMask 56 21)
    else if off = offFHSIZE then s.setDcr d off (v &&& fieldMask 31 0)
    else s.setDcr d off (v &&& fieldMask 15 0)

/-- CAL_CKCTL (24 R463): GO starts OP. -/
def State.writeCkCtl (s : State) (d : Nat) (v : W64) : State :=
  if !v.getLsbD 63 then s
  else match bits v.toNat 9 8 with
    | 0 => s.ckCapture d
    | 1 => s.ckRelease d
    | 2 => s.ckRestoreOwn d
    | _ => s.ckRestoreSrc d

/-- The checkpoint registers, which change only in STATE 0 and 4. Log 115 (DEDUCED). -/
def State.writeCkReg (s : State) (d off : Nat) (v : W64) : State :=
  let st := (s.ck (s.pid d)).state
  if !s.isCkDie d || (st ≠ 0 && st ≠ 4) then s
  else if off = offCKGRP then s.setDcr d off (v &&& fieldMask 63 40)
  else if off = offCKAREA then
    s.setDcr d off (putField (putField (s.dcr d off) v 56 30 fun _ => true) v 8 0 fun n => decide (1 ≤ n) && decide (n ≤ 357))
  else s.setDcr d off (v &&& fieldMask 63 52)

/-- PWR_DIECTL (25 R477). -/
def State.writeDieCtl (s : State) (d : Nat) (v : W64) : State :=
  let mx := if bits v.toNat 7 4 ≤ 8 then bits v.toNat 7 4 else s.maxStep d
  s.setDcr d offDIECTL (BitVec.ofNat 64 (min (bits v.toNat 3 0) mx + 16 * mx))

/-- SOL_TRCTL: cores that come to be traced get a SYNC (23 R460). -/
def State.writeTraceCtl (s : State) (d : Nat) (v : W64) : State :=
  let old := s.dcr d offTRCTL
  let s1 := s.setDcr d offTRCTL (v &&& (fieldMask 63 62 ||| fieldMask 47 0))
  if v.getLsbD 63 && (!old.getLsbD 63 || (v &&& ~~~old &&& fieldMask 47 0) ≠ 0) then s1.traceSyncDie d else s1

/-- A ring register with a capacity field (18 R378, 19 R402). -/
def State.writeRing (s : State) (d off : Nat) (v : W64) : State :=
  s.setDcr d off (putField (putField (s.dcr d off) v 56 12 fun _ => true) v 4 0 fun n => decide (1 ≤ n) && decide (n ≤ 16))

/-- A write of a register (17 R360): of its fields, or what it sets off. -/
def State.writeDcr (s : State) (d off : Nat) (v : W64) : State :=
  if Config.dies ≤ d || off % 8 ≠ 0 then s
  else if off = 0x60 then (s.submitChain d (64 * bits v.toNat 56 6)).2
  else if off = 0x70 then s.requestPreempt d v
  else if off = offHLQTAIL then s.writeHlqTail d v
  else if off = 0x100 then s.writeCkCtl d v
  else if off = offCKGRP || off = offCKAREA || off = offCKSRC then s.writeCkReg d off v
  else if off = 0x200018 then s.requestCut d v
  else if off = 0x300000 then s.writeStopAt v
  else if off = 0x300008 then s.writeStopCtl v
  else if off = 0x300010 then s.writeResumeAt v
  else if 0x300300 ≤ off && off < 0x300320 then (if v.getLsbD 62 then s.parkRelease d ((off - 0x300300) / 8) else s)
  else if off = offATP || off = offFHBASE || off = offFHSIZE || off = offFHRSV then s.writeMapping d off v
  else if off = 0 then s.setDcr d 0 (putField (s.dcr d 0) v 2 0 fun n => n ≤ 4)
  else if off = offHLQBASE || off = 0x100048 then s.writeRing d off v
  else if off = offHOT then
    s.setDcr d offHOT (putField (putField (s.dcr d offHOT) v 47 32 fun _ => true) v 15 0 fun n => n ≠ 0)
  else if off = offDIECTL then s.writeDieCtl d v
  else if off = offTRCTL then s.writeTraceCtl d v
  else if off = offFRQSTAT then s.setDcr d off (s.dcr d off &&& ~~~(v &&& fieldMask 63 63))
  else match dcrFields d off with
    | some f => s.setDcr d off (f.after (s.dcr d off) v)
    | none => s

/-- An access reaches a register's block (23 R450): the die's clocks run, but for the package registers of Solstice and the blocks of the
power arbiter and the security controller; a checkpoint step acts on every die of its partition. Log 114 (DEDUCED). -/
def State.dcrAwake (s : State) (d off : Nat) : Bool :=
  decide (Config.dies ≤ d) || (decide (0x300000 ≤ off) && decide (off < 0x300018)) || off / 2 ^ 20 = 5 || off / 2 ^ 20 = 6
    || (s.awake d && (off ≠ 0x100 || s.ckAwake d))

/-- A write of CAL_BIND whose chain has to wait. Log 114 (DEDUCED). -/
def State.bindWaits (s : State) (d off : Nat) (v : W64) : Bool :=
  off = 0x60 && decide (d < Config.dies) && (s.submitChain d (64 * bits v.toNat 56 6)).1.result = 0

/-- Registers that the host reaches through BAR0 (21 R417). -/
def barRegister (off : Nat) : Bool :=
  [offIDENT, offHLQBASE, 0x48, 0x50, 0x100048, 0x100050, 0x100058, 0x100060, 0x100068].contains off
    || (decide (0x100100 ≤ off) && decide (off < 0x100200)) || (decide (0x700000 ≤ off) && decide (off < 0x700200))

/-- DCR_WRITE: a write that reaches a register's block. -/
def execDcrWrite (die off : Nat) (v : W64) (s : State) : Host.Outcome State Fault Refusal :=
  .next (if s.sec.powered && s.dcrAwake die off then s.writeDcr die off v else s)

/-- A write of the host through BAR0, of a whole register: ignored at an offset that is none of its registers (21 R417).
Log 161 (DESIGN CHOICE). -/
def State.barWrite (s : State) (a : Nat) (data : List Byte) : State :=
  if a % 8 = 0 && data.length = 8 && barRegister (bits a 23 0) && s.dcrAwake (bits a 27 24) (bits a 23 0) then
    s.writeDcr (bits a 27 24) (bits a 23 0) (BitVec.ofNat 64 (ofBytes data))
  else s

/-- HOST_WRITE. A write to the host's own memory is the host's to make. Log 103 (DEDUCED). -/
def execHostWrite (link hpa pa : Nat) (data : List Byte) (s : State) : Host.Outcome State Fault Refusal :=
  .next (if data.isEmpty || decide (64 < pa % 64 + data.length) || !s.sec.powered then s
  else if inBar0 pa then (if s.hostLinkUp link then s.barWrite (pa - bar0Base) data else s)
  else if isHostPa pa && decide (pa < 2 ^ 56) then s.storeAll pa data
  else if isDevicePa pa && s.hostLinkUp link then s.hostWrite link hpa pa data
  else s)

/-- A byte of BAR0: every offset that is none of its registers reads 0 (21 R417). -/
def State.barByte (s : State) (a : Nat) : Byte :=
  let off := bits a 23 3 * 8
  if barRegister off then (toBytes (s.readDcr (bits a 27 24) off).1.toNat 8).getD (a % 8) 0 else 0

/-- HOST_READ: of device memory, the value last applied at the home (21 R419); or of registers, through BAR0. -/
def execHostRead (pa len : Nat) (s : State) : Host.Outcome State Fault Refusal :=
  let at_ := (List.range len).map (pa + ·)
  let read (f : Nat → Byte) : State := { s with hostOut := at_.map f }
  .next (if !s.sec.powered || !(List.range 4).any s.hostLinkUp then s
  else if inBar0 pa then
    (if at_.all fun a => s.dcrAwake (bits a 27 24) (bits a 23 3 * 8) then read fun a => s.barByte (a - bar0Base) else s)
  else if isDevicePa pa && decide (pa % 64 + len ≤ 64) && s.homeAwake pa hostKey none true then read s.hostByte
  else s)

/-- A DCR address: its die and offset (17 R360); nothing when bits [31:28] are not 0. -/
def dcrAddress (a : Nat) : Option (Nat × Nat) := if a / 2 ^ 28 % 16 ≠ 0 then none else some (bits a 27 24, bits a 23 0)

end Sys2Proof.Machine
end

