-- ==== Sys2Proof/Machine/Management.lean ====
section
/-! DEFINITION. The management window of the security controller (25 R474 to R476, 22 R446) and the Lenmus port (23 R452). -/

namespace Sys2Proof.Machine

/-! Responses: OP with bit 15, the tag, a status and a body (25 R476). -/

def statusDone : Nat := 0
def statusNotReady : Nat := 2
def statusRefused : Nat := 3
def statusRange : Nat := 4

def State.answer (s : State) (op : Nat) (tag : W32) (status : Nat) (body : List Byte) : State :=
  { s with sec := { s.sec with answerOp := BitVec.ofNat 16 (op + 0x8000), answerTag := tag, status := status, answer := body } }

/-- The boot has failed (25 R473). -/
def Sec.failed (x : Sec) : Bool := x.stage = 15

/-- A request that is served from a boot stage on, and not after a failed boot. Log 116 (DEDUCED). -/
def State.serve (s : State) (stage op : Nat) (tag : W32) (f : State → State) : State :=
  if !s.sec.powered then s
  else if s.sec.stage < stage || s.sec.failed then s.answer op tag statusNotReady []
  else f s

/-- A request that a failed boot serves too. Log 116 (DEDUCED). -/
def State.serveAlways (s : State) (stage op : Nat) (tag : W32) (f : State → State) : State :=
  if !s.sec.powered then s
  else if s.sec.stage < stage then s.answer op tag statusNotReady []
  else f s

/-- Log 120 (DEDUCED). -/
def execIdent (tag : W32) (s : State) : Host.Outcome State Fault Refusal :=
  .next (s.serveAlways 1 0x01 tag fun t => t.answer 0x01 tag statusDone (Config.xmssPublicKey ++ Config.certificate))

/-- SEC_BOOTST. -/
def State.bootStatus (s : State) : Nat := s.sec.stage + 2 ^ 32 * s.sec.fail.toNat

def execBootst (tag : W32) (s : State) : Host.Outcome State Fault Refusal :=
  .next (s.serveAlways 1 0x02 tag fun t => t.answer 0x02 tag statusDone (toBytes t.bootStatus 8))

/-! Attestation (25 R475). -/

/-- What a report says of an image: nothing is stated of one that was not accepted. Log 119 (DESIGN CHOICE). -/
def State.reportImage (s : State) (type : Nat) : List Byte × State :=
  match lookup s.sec.images type with
  | some x => (toBytes x.digest.toNat 32 ++ toBytes x.version.toNat 4, s)
  | none =>
    let (a, s1) := s.drawValue
    let (b, s2) := s1.drawValue
    let (c, s3) := s2.drawValue
    let (d, s4) := s3.drawValue
    let (e, s5) := s4.drawValue
    (toBytes a.toNat 8 ++ toBytes b.toNat 8 ++ toBytes c.toNat 8 ++ toBytes d.toNat 8 ++ toBytes e.toNat 4, s5)

/-- Bit i for each host link that is trained. -/
def State.linkBits (s : State) : Nat := ((List.range 4).map fun i => if s.sec.links.getD i 0 = 0 then 0 else 2 ^ i).sum

/-- Bytes 0 to 135 of a report. -/
def State.reportBody (s : State) (nonce : BitVec 256) (leaf : Nat) : List Byte × State :=
  let (cal, s1) := s.reportImage 1
  let (sup, s2) := s1.reportImage 2
  (toBytes (s.dcr 0 offIDENT).toNat 4 ++ toBytes (s.dcrBits 0 offPKGID 14 0) 2 ++ toBytes s.sec.stage 1 ++ toBytes s.sec.refused 1
    ++ toBytes nonce.toNat 32 ++ cal ++ sup ++ toBytes s.linkBits 8 ++ toBytes s.sec.ports.toNat 8 ++ toBytes s.sec.hbm.toNat 4
    ++ toBytes leaf 4, s2)

/-- ATTEST: before stage 9, and when every leaf has been used, the report has no signature. Log 97 (DESIGN CHOICE). Log 119 (DESIGN CHOICE). -/
def State.attest (s : State) (tag : W32) (nonce : BitVec 256) : State :=
  if s.sec.stage = 9 && decide (s.xmssLeaf < xmssLeaves) then
    let (body, s1) := s.reportBody nonce s.xmssLeaf
    let sig := (padEnd signatureBytes (Config.xmssSign s.xmssLeaf body)).take signatureBytes
    State.answer { s1 with xmssLeaf := s.xmssLeaf + 1 } 0x03 tag statusDone (body ++ sig)
  else
    let (v, s1) := s.drawValue
    let (body, s2) := s1.reportBody nonce v.toNat
    s2.answer 0x03 tag statusNotReady body

def execAttest (tag : W32) (nonce : BitVec 256) (s : State) : Host.Outcome State Fault Refusal :=
  .next (s.serveAlways 1 0x03 tag fun t => t.attest tag nonce)

/-! Images, resets, partitions, policies, power. -/

/-- Stage bytes of an image: a byte staged again replaces the old one. -/
def stageBytes (l : List (Nat × Byte)) (off : Nat) : List Byte → List (Nat × Byte)
  | [] => l
  | b :: bs => stageBytes (insertKey l off b) (off + 1) bs

/-- Log 116 (DEDUCED). -/
def execImgload (tag : W32) (ty off : Nat) (body : List Byte) (s : State) : Host.Outcome State Fault Refusal :=
  .next (s.serve 1 0x04 tag fun t =>
    if 5 < t.sec.stage then t.answer 0x04 tag statusRefused []
    else if (ty ≠ 1 && ty ≠ 2) || decide (4096 < body.length) then t.answer 0x04 tag statusRange []
    else
      State.answer { t with sec := { t.sec with
        staged := insertKey t.sec.staged ty (stageBytes ((lookup t.sec.staged ty).getD []) off body) } } 0x04 tag statusDone [])

/-- RESET (25 R472): kind 0 warm, 1 cold. -/
def execReset (tag : W32) (kind : Nat) (s : State) : Host.Outcome State Fault Refusal :=
  .next (s.serveAlways 0 0x05 tag fun t =>
    if kind = 0 then t.warmReset.answer 0x05 tag statusDone []
    else if kind = 1 then t.coldReset.answer 0x05 tag statusDone []
    else t.answer 0x05 tag statusRange [])

/-- SETPART (19 R407): only while the die has no bound cohort but in its supervisor slots. -/
def execSetpart (tag : W32) (die pid : Nat) (s : State) : Host.Outcome State Fault Refusal :=
  .next (s.serve 9 0x10 tag fun t =>
    if Config.dies ≤ die || 4095 ≤ pid then t.answer 0x10 tag statusRange []
    else if t.residentOn die then t.answer 0x10 tag statusRefused []
    else (t.setDcr die offPART (BitVec.ofNat 64 pid)).answer 0x10 tag statusDone [])

/-- SETPOLICY (22 R441). -/
def execSetpolicy (tag : W32) (pid : Nat) (pol : Policy) (s : State) : Host.Outcome State Fault Refusal :=
  .next (s.serve 9 0x11 tag fun t =>
    if pid = 0 || 4095 ≤ pid || pol.pMode = 3 || decide (2 ^ 55 ≤ pol.csize.toNat) then t.answer 0x11 tag statusRange []
    else State.answer { t with sec := { t.sec with policies := insertKey t.sec.policies pid pol } } 0x11 tag statusDone [])

/-- Checkpoint registers (24 R463). -/
def ckRegister (off : Nat) : Bool := off = 0x100 || off = 0x108 || off = offCKGRP || off = offCKAREA || off = offCKSRC

/-- A DCR access by address (23 R452): the value read. -/
def State.dcrAccess (s : State) (write : Bool) (addr : Nat) (data : W64) : W64 × State :=
  match dcrAddress addr with
  | none => (0, s)
  | some (d, off) => if write then (data, s.writeDcr d off data) else s.readDcr d off

/-- MGMT_DCRACC. Log 116 (DEDUCED). -/
def execMgmtDcracc (tag : W32) (write : Bool) (addr : BitVec 31) (data : W64) (s : State) : Host.Outcome State Fault Refusal :=
  .next (s.serve 9 0x12 tag fun t =>
    match dcrAddress addr.toNat with
    | none => t.answer 0x12 tag statusRefused []
    | some (d, off) =>
      if !t.dcrAwake d off then t
      else if barRegister off || ckRegister off then
        let (v, t1) := t.dcrAccess write addr.toNat data
        t1.answer 0x12 tag statusDone (if write then [] else toBytes v.toNat 8)
      else t.answer 0x12 tag statusRefused [])

/-- PWRSET (25 R476, R477). -/
def execPwrset (tag : W32) (watts : Nat) (s : State) : Host.Outcome State Fault Refusal :=
  .next (s.serve 9 0x30 tag fun t =>
    if watts < 1000 || decide (14000 < watts) then t.answer 0x30 tag statusRange []
    else (t.setDcr 0 offENVELOPE (BitVec.ofNat 64 watts)).answer 0x30 tag statusDone [])

/-! The vault (22 R446). -/

/-- Log 117 (PRESUMED). -/
def VaultSlot.listing (v : VaultSlot) : List Byte := toBytes v.state 1 ++ toBytes v.seq 8 ++ toBytes v.size 8 ++ toBytes v.subj 2

def execVlist (tag : W32) (s : State) : Host.Outcome State Fault Refusal :=
  .next (s.serve 1 0x20 tag fun t => t.answer 0x20 tag statusDone (t.vault.flatMap fun v => v.listing))

/-- VREAD. A slot that a cut took over after it had been read answers every read with an error, until it is released. Log 118 (DEDUCED). -/
def execVread (tag : W32) (slot off len : Nat) (s : State) : Host.Outcome State Fault Refusal :=
  .next (s.serve 1 0x21 tag fun t =>
    let v := t.vault.getD slot {}
    if 4 ≤ slot || len = 0 || decide (4096 < len) || (v.state = 2 && decide (v.size < off + len)) then t.answer 0x21 tag statusRange []
    else if v.state ≠ 2 || v.lost then t.answer 0x21 tag statusRefused []
    else State.answer { t with vault := t.vault.set slot { v with read := true } } 0x21 tag statusDone (t.home (vaultAt slot + off) len))

def execVrelease (tag : W32) (slot seq : Nat) (s : State) : Host.Outcome State Fault Refusal :=
  .next (s.serve 1 0x22 tag fun t =>
    let v := t.vault.getD slot {}
    if v.state = 2 && v.seq = seq then
      State.answer { t with vault := t.vault.set slot {} } 0x22 tag statusDone []
    else t.answer 0x22 tag statusRefused [])

/-! The Lenmus port (23 R452). Register n captures, what it captured shifts out, and what shifted in is updated. A management message
over the high-speed path carries the same operation, and is the same step. -/

/-- Bits in bytes, the first in bit 0. -/
def packBits (l : List Bool) : List Byte :=
  toBytes ((l.zipIdx.map fun x => if x.1 then 2 ^ x.2 else 0).sum) ((l.length + 7) / 8)

def State.modLenmus (s : State) (f : Lenmus → Lenmus) : State := if s.sec.powered then { s with lenmus := f s.lenmus } else s

/-- EXTEST: the pins are captured, and the cells drive them. Log 122 (PRESUMED). -/
def execExtest (pins : List Bool) (s : State) : Host.Outcome State Fault Refusal :=
  .next (s.modLenmus fun x => { x with ir := 0x00, out := packBits x.pins, cells := pins, pins := pins })

def execIdcode (s : State) : Host.Outcome State Fault Refusal :=
  .next (s.modLenmus fun x => { x with ir := 0x01, out := toBytes 0x2F160001 4 })

/-- SAMPLE_PRELOAD: the pins are captured, and the cells do not drive them. Log 122 (PRESUMED). -/
def execSamplePreload (pins : List Bool) (s : State) : Host.Outcome State Fault Refusal :=
  .next (s.modLenmus fun x => { x with ir := 0x02, out := packBits x.pins, cells := pins })

/-- LENMUS_DCRACC: the capture returns the value that the last access read; bits [95:64] of a capture are not stated. Log 122 (PRESUMED). -/
def execLenmusDcracc (write : Bool) (addr : BitVec 31) (data : W64) (s : State) : Host.Outcome State Fault Refusal :=
  .next (if !s.sec.powered || !s.dcrAwake (bits addr.toNat 27 24) (bits addr.toNat 23 0) then s
  else
    let (v, s1) := s.dcrAccess write addr.toNat data
    let (upper, s2) := s1.drawValue
    s2.modLenmus fun x => { x with
      ir := 0x10, out := toBytes x.data.toNat 8 ++ toBytes upper.toNat 4, data := if write then x.data else v })

/-- SNAPSEL: of the register, the die and the chain are kept; its other bits are 0. -/
def execSnapsel (v : W32) (s : State) : Host.Outcome State Fault Refusal :=
  .next (s.modLenmus fun x => { x with ir := 0x11, out := toBytes x.sel.toNat 4, sel := v &&& 0xFFF00000 })

def execSnaprd (s : State) : Host.Outcome State Fault Refusal :=
  let die := bits s.lenmus.sel.toNat 31 28
  let chain := bits s.lenmus.sel.toNat 27 20
  .next (s.modLenmus fun x => { x with ir := 0x12, out := s.chainBytes die chain })

/-- Instructions that select a register of their own. -/
def lenmusOwn : List (BitVec 8) := [0x00, 0x01, 0x02, 0x10, 0x11, 0x12]

/-- BYPASS, which every value of the instruction register without a register of its own selects: the register captures 0. Which of them
the port holds is not said. Log 122 (PRESUMED). -/
def execBypass (bit : Bool) (s : State) : Host.Outcome State Fault Refusal :=
  let (v, s1) := s.drawValue
  let ir : BitVec 8 := if lenmusOwn.contains (v.setWidth 8) then 0xFF else v.setWidth 8
  .next (if s.sec.powered then s1.modLenmus fun x => { x with ir := ir, out := packBits [false], bypass := bit } else s)

end Sys2Proof.Machine
end

