-- ==== Sys2Proof/Machine/Privileged.lean ====
section
/-! DEFINITION. The instructions of MAJ 0x3E (17 R358, R365 to R376): SRET, DCRR and DCRW, TLBINV and TLBSYNC, FRQPOP, MAPDONE,
SLOGRUN, BINDW, HALTC, CIMGS and CIMGL. -/

namespace Sys2Proof.Machine

/-! SRET (17 R358). -/

/-- `$tcause` names BREAK: the trap does not take place again at `$tpc` (23 R455). -/
def Trap.wasBreak (t : Trap) : Bool := t.tcause.toNat % 256 = 12

def execSret (f : Form) (s : State) : Host.Outcome State Fault Refusal :=
  execLanes .sret f s fun i t n =>
    let l := t.laneAt i n
    if !l.trap.tstat.getLsbD 0 then (t, .eff (illegal i 2))
    else
      let (m, pc) := l.trapReturn
      (t.setLane (i.lane n) { m.complete [] with bks := l.trap.wasBreak }, .stand i.prio pc)

/-! DCRR and DCRW (17 R360, R366). -/

/-- Address A + sext(word 2). Log 123 (DEDUCED). -/
def dcrTarget (f : Form) (l : Lane) : W32 := l.reg f.a.toNat + f.w2

/-- What an address breaks: its bits [31:28] must be 0, and it must be a multiple of 8. Log 123 (DEDUCED). -/
def dcrCheck (i : Issue) (a : W32) : Option Effect :=
  if bits a.toNat 31 28 ≠ 0 then some (illegal i 6)
  else if a.toNat % 8 ≠ 0 then some (misalign i (a.setWidth 64) 8)
  else none

def execDcrr (f : Form) (s : State) : Host.Outcome State Fault Refusal :=
  execLanes .dcrr f s fun i t n =>
    let a := dcrTarget f (t.laneAt i n)
    match dcrCheck i a with
    | some e => (t, .eff e)
    | none =>
      if !t.dcrAwake (bits a.toNat 27 24) (bits a.toNat 23 0) then (t, .stall) else
      let (v, t1) := t.readDcr (bits a.toNat 27 24) (bits a.toNat 23 0)
      (t1.modLane (i.lane n) fun l => l.setPair f.d.toNat v, .go .seq)

def State.dcrwLane (s : State) (i : Issue) (f : Form) (n : Nat) : State × LaneOut :=
  let l := s.laneAt i n
  let a := dcrTarget f l
  match dcrCheck i a with
  | some e => (s, .eff e)
  | none =>
    let v := BitVec.ofNat 64 (bRaw .dcrw f l true)
    let (d, off) := (bits a.toNat 27 24, bits a.toNat 23 0)
    if !s.dcrAwake d off || s.bindWaits d off v then (s, .stall) else (s.writeDcr d off v, .go .seq)

/-- The lanes of an issue are still the same fibres: a write may bring the failure of the die's supervisor (17 R359). Log 129 (DEDUCED). -/
def State.sameFibres (s t : State) (i : Issue) (ns : List Nat) : Bool := ns.all fun n => s.fibreOf (i.lane n) = t.fibreOf (i.lane n)

/-- DCRW: FENCE `lsu` at `.PKG`, and then the writes. Log 129 (DEDUCED). -/
def execDcrw (f : Form) (s : State) : Host.Outcome State Fault Refusal :=
  withIssue s fun i t =>
    let u := f.use .dcrw
    let ex := t.executing i f.guard
    let fenced := ex.filter fun n => (dcrCheck i (dcrTarget f (t.laneAt i n))).isNone
    if t.mustWait i f.guard u then t
    else if !(fenced.all fun n => t.fenceReady (i.lane n) 3 [.lsu]) then t
    else
      let (t1, fx) := t.fenceLanes i 3 [.lsu] fenced
      let (t2, outs) := runLanes (fun v n => v.dcrwLane i f n) (ex.filter fun n => (lookup fx n).isNone) t1
      if outs.any fun x => x.2 = .stall then t
      else if t.sameFibres t2 i ex then t2.finish i u ((fx.map fun x => (x.1, .eff x.2)) ++ outs) else t2

/-! TLBINV and TLBSYNC (17 R367, R368; 19 R400). -/

/-- Dies whose TLBs a removal reaches. -/
def State.invDies (s : State) (d : Nat) (x : TlbInv) : List Nat :=
  if x.scope = 2 then [d] else (List.range Config.dies).filter fun e => x.sel ≠ 2 || s.pid e = s.pid d

/-- Entries that a removal covers. Log 124 (DEDUCED). -/
def TlbInv.covers (x : TlbInv) (e : TlbEntry) : Bool :=
  let mine := e.global || e.asid = x.asid
  match x.sel with
  | 0 => mine && decide (e.vbase ≤ x.va) && decide (x.va < e.vbase + pageSize e.level)
  | 1 => mine
  | _ => true

/-- Translations that the TLBs of a die hold, of its cores and its own. -/
def State.tlbOf (s : State) (d : Nat) : List TlbEntry :=
  (s.die d).tlb ++ (s.cores.filter fun c => c.1.1 = d).flatMap fun c => c.2.tlb

/-- A removal with the level of the largest page it covers now. -/
def State.widen (s : State) (d : Nat) (x : TlbInv) : TlbInv :=
  let levels := (s.invDies d x).flatMap fun e => ((s.tlbOf e).filter x.covers).map fun y => y.level
  { x with level := levels.foldl max x.level }

/-- The covered entries leave every L1 TLB, L2 TLB and walker cache of the scope (17 R367). -/
def State.removeTlb (s : State) (d : Nat) (x : TlbInv) : State :=
  let ds := s.invDies d x
  let keep (es : List TlbEntry) : List TlbEntry := es.filter fun z => !x.covers z
  { s with
    cores := s.cores.map fun (c : (Nat × Nat) × Core) => if ds.contains c.1.1 then (c.1, { c.2 with tlb := keep c.2.tlb }) else c
    dies := s.dies.map fun (e : Nat × Die) => if ds.contains e.1 then (e.1, { e.2 with tlb := keep e.2.tlb, walks := keep e.2.walks }) else e }

/-- TLBINV is accepted; the entries may be removed at once, or only by TLBSYNC. Log 13 (DESIGN CHOICE). Log 124 (DEDUCED). -/
def State.startInv (s : State) (k : LaneKey) (x : TlbInv) : State :=
  let y := s.widen k.coh.die x
  let (now, s1) := s.choose 2
  (if now = 1 then s1.removeTlb k.coh.die y else s1).modLane k fun l => { l with tlbinvs := l.tlbinvs ++ [y] }

def execTlbinv (f : Form) (s : State) : Host.Outcome State Fault Refusal :=
  execLanes .tlbinv f s fun i t n =>
    let l := t.laneAt i n
    let b := bRaw .tlbinv f l false
    if bits b 15 2 ≠ 0 then (t, .eff (illegal i 6))
    else
      (t.startInv (i.lane n) { scope := f.rs.toNat, sel := b % 4, va := (l.regPair f.a.toNat).toNat % 2 ^ 57,
                               asid := BitVec.ofNat 16 (bits b 31 16) }, .go .seq)

/-- Removals of a lane that a TLBSYNC at a scope waits for. -/
def Lane.syncs (l : Lane) (scope : Nat) : List TlbInv := l.tlbinvs.filter fun x => x.scope ≤ scope

/-- The mark of an instruction that stalls the cohort head: the number from which accesses are later than its start. -/
def stallMark (i : Issue) (o : Op) (stamp : Nat) : Arrival :=
  { op := o, form := {}, bytes := i.bytes, word := i.word, guard := true, a := BitVec.ofNat 64 stamp, b := 0, mode := 0 }

def Lane.markOf (l : Lane) (o : Op) : Option Nat := l.arrival.bind fun a => if a.op = o then some a.a.toNat else none

/-- TLBSYNC begins: what the lane's removals cover is removed. Log 13 (DESIGN CHOICE). Log 124 (DEDUCED). -/
def State.beginSync (s : State) (i : Issue) (scope n : Nat) : State :=
  let k := i.lane n
  let l := s.laneAt i n
  if (l.markOf .tlbsync).isSome then s
  else
    let wide := l.tlbinvs.map fun x => if x.scope ≤ scope then s.widen k.coh.die x else x
    let s1 := foldState (fun (t : State) x => if x.scope ≤ scope then t.removeTlb k.coh.die x else t) wide s
    s1.modLane k fun y => { y with tlbinvs := wide, arrival := some (stallMark i .tlbsync s.nextId) }

/-- An address lies in what a removal covers. Log 125 (DEDUCED). -/
def TlbInv.near (x : TlbInv) (va : Nat) : Bool := x.sel ≠ 0 || va % 2 ^ 57 / pageSize x.level = x.va / pageSize x.level

/-- A user access of a die that a removal covers. -/
def State.invAccess (s : State) (d : Nat) (x : TlbInv) (k : CohKey) (va : Nat) : Bool :=
  (s.invDies d x).contains k.die && !superSlot k && x.near va

/-- Stash pages of users whose range a removal covers (19 R400). Log 125 (DEDUCED). -/
def State.syncPages (s : State) (d : Nat) (x : TlbInv) : List ((Nat × Nat) × ScratchPage) :=
  let dies := (s.invDies d x).filter fun e => 2 ≤ x.sel || bits (s.dcr e offATP).toNat 59 44 = x.asid.toNat
  let hit (p : ScratchPage) : Bool := !p.priv && match p.stash with
    | none => false
    | some g => (List.range 4).any fun j => x.near (g + 4096 * j)
  (s.cores.filter fun c => dies.contains c.1.1).flatMap fun c => (c.2.pages.filter hit).map fun p => (c.1, p)

/-- Every access made before the lane's TLBSYNC began, through a translation it removed, is performed at its home, and the dirty sectors of
covered stash pages may be written back. Log 125 (DEDUCED). -/
def State.syncDone (s : State) (i : Issue) (scope n : Nat) : Bool :=
  let l := s.laneAt i n
  let stamp := (l.markOf .tlbsync).getD 0
  (l.syncs scope).all fun x =>
    (s.writes.all fun w => w.home || decide (stamp ≤ w.id) || !s.invAccess i.key.die x w.src.coh w.va)
      && (s.loads.all fun y => decide (stamp ≤ y.id) || !s.invAccess i.key.die x y.src.coh y.va)
      && (s.atomics.all fun y => decide (stamp ≤ y.id) || y.reply.isSome || !s.invAccess i.key.die x y.src.coh y.va)
      && (s.syncPages i.key.die x).all fun p => s.homesAwake p.1 p.2 && (s.stashWrites p.1 p.2).all fun w => w.home

/-- The dirty sectors of a stash page are written back, and those that a removal covers leave it (19 R400); a sector that cannot be written
back kills its gang. Log 125 (DEDUCED). -/
def State.syncPage (s : State) (x : TlbInv) (c : Nat × Nat) (p : ScratchPage) : State :=
  let g := p.stash.getD 0
  let s1 := s.modPage c.1 c.2 p.id fun q => { q with
    sectors := (q.sectors.filter fun y => !x.near (g + 128 * y.idx)).map fun y => { y with dirty := false } }
  match s.dirtyBad p with
  | some pa => s1.writeBackFails c.1 c.2 p.gang pa
  | none => s1

def State.syncStash (s : State) (d : Nat) (x : TlbInv) : State :=
  foldState (fun (t : State) p => t.syncPage x p.1 p.2) (s.syncPages d x) s

/-- TLBSYNC has waited: the removals of the lane are done with. -/
def State.endSync (s : State) (i : Issue) (scope n : Nat) : State :=
  (foldState (fun (t : State) x => t.syncStash i.key.die x) ((s.laneAt i n).syncs scope) s).modLane (i.lane n) fun l =>
    { l with tlbinvs := l.tlbinvs.filter fun x => scope < x.scope, arrival := none }

/-- The acknowledgement: pair B is stored to physical address A. -/
def State.ackLane (s : State) (i : Issue) (f : Form) (n : Nat) : State × LaneOut :=
  let l := s.laneAt i n
  let a := l.regPair f.a.toNat
  if a.toNat % 8 ≠ 0 then (s, .eff (misalign i a 8))
  else if !s.physOk i.key.die a.toNat then (s.addLate (i.lane n) (refusedErr i a.toNat 0 0), .go .seq)
  else (goWrite i s n { pa := a.toNat, va := a.toNat } (toBytes (bRaw .tlbsync f l true) 8) none false, .go .seq)

def execTlbsync (f : Form) (s : State) : Host.Outcome State Fault Refusal :=
  withIssue s fun i t =>
    let u := f.use .tlbsync
    let ex := t.executing i f.guard
    if t.mustWait i f.guard u then t
    else
      let scope := f.rs.toNat
      let t1 := foldState (fun (v : State) n => v.beginSync i scope n) ex t
      if !(ex.all fun n => t1.syncDone i scope n) then t1
      else if f.xm && !(ex.all fun n => t1.fenceReady (i.lane n) 5 [.lsu]) then t1
      else
        let t2 := foldState (fun (v : State) n => v.endSync i scope n) ex t1
        if !f.xm then t2.finish i u (allOut ex (.go .seq))
        else
          let (t3, fx) := t2.fenceLanes i 5 [.lsu] ex
          let (t4, outs) := runLanes (fun v n => v.ackLane i f n) (ex.filter fun n => (lookup fx n).isNone) t3
          t4.finish i u ((fx.map fun x => (x.1, .eff x.2)) ++ outs)

/-! FRQPOP (17 R369). -/

/-- Lanes of a die that wait for a record, with the numbers of their requests. -/
def State.faultWaiters (s : State) (d : Nat) : List (Nat × LaneKey) :=
  (s.cohorts.filter fun x => x.1.die = d && x.2.priv).flatMap fun x => x.2.lanes.filterMap fun y =>
    match y.2.status, y.2.arrival.bind fun a => a.pend with
    | .parked 0 _, some id => some (id, ⟨x.1, y.1⟩)
    | _, _ => none

def FaultRec.words (r : FaultRec) : List W32 := wordsOf r.encode 16

/-- A lane parks; its destination is pending. -/
def State.parkFault (s : State) (i : Issue) (f : Form) (n : Nat) : State × LaneOut :=
  let id := s.nextId
  let a : Arrival := { op := .frqpop, form := f, bytes := i.bytes, word := i.word, guard := true, a := 0, b := 0, mode := 0, pend := some id }
  ({ s with nextId := id + 1 }.modLane (i.lane n) fun l => { l.addPend id f.d.toNat 16 0 with arrival := some a }, .park 0 0)

/-- A record goes to the lane if no earlier request waits for it; `pred` is the predicate of `.TRY`. Log 127 (DEDUCED). -/
def popFault (f : Form) (pred : Option Nat) (i : Issue) (s : State) (n : Nat) : State × LaneOut :=
  let set (b : Bool) (l : Lane) : Lane := match pred with
    | some p => l.setPred p b
    | none => l
  match if (s.faultWaiters i.key.die).isEmpty then s.takeFault i.key.die else none with
  | some (r, t) => (t.modLane (i.lane n) fun l => set true (l.setRegs f.d.toNat r.words), .go .seq)
  | none => if pred.isSome then (s.modLane (i.lane n) (set false), .go .seq) else s.parkFault i f n

def execFrqpop (f : Form) (s : State) : Host.Outcome State Fault Refusal := execLanes .frqpop f s (popFault f none)
def execFrqpopTry (f : Form) (s : State) : Host.Outcome State Fault Refusal := execLanes .frqpopTry f s (popFault f (some f.c.toNat))

/-! MAPDONE (17 R370). -/

def execMapdone (f : Form) (s : State) : Host.Outcome State Fault Refusal :=
  execLanes .mapdone f s fun i t n =>
    let l := t.laneAt i n
    let d := i.key.die
    let b := bRaw .mapdone f l false
    match ((t.die d).frq ++ (t.die d).out).find? fun r => r.rid = l.reg f.a.toNat && !r.oneWay with
    | none => (t, .eff (illegal i 6))
    | some r =>
      if 3 ≤ b then (t, .eff (illegal i 6)) else (t.reply d r b (l.regPair f.c.toNat), .go .seq)

/-! SLOGRUN (17 R371). -/

/-- Entries of a core that fail at once: those that wait, or whose replay has made no access yet. Log 126 (DEDUCED). -/
def State.failing (s : State) (d c va : Nat) : List SideEntry :=
  (s.core d c).sideLog.filter fun e =>
    (e.state = 1 || (e.state = 2 && !(e.lanes.any fun x => x.sent))) && e.holds va

def State.slogStart (s : State) (i : Issue) (va action n : Nat) : State :=
  let d := i.key.die
  let run := s.nextId
  let one (t : State) (c : Nat) : State :=
    if action.testBit 0 then foldState (fun (u : State) e => u.failSide d c e (bits action 15 8)) (t.failing d c va) t
    else t.startReplay d c va run
  (foldState one (List.range Config.cores) { s with nextId := run + 1 }).modLane (i.lane n) fun l =>
    { l with arrival := some (stallMark i .slogrun run) }

/-- Every entry of the page has been replayed, has failed, or has written a new record. -/
def State.slogDone (s : State) (i : Issue) (va action n : Nat) : Bool :=
  let run := ((s.laneAt i n).markOf .slogrun).getD 0
  action.testBit 0 || (List.range Config.cores).all fun c => (s.core i.key.die c).sideLog.all fun e =>
    !e.holds va || (e.state ≠ 2 && !(e.state = 1 && e.run = run && e.rid = 0))

/-- Log 126 (DEDUCED). -/
def execSlogrun (f : Form) (s : State) : Host.Outcome State Fault Refusal :=
  withIssue s fun i t =>
    let u := f.use .slogrun
    let ex := t.executing i f.guard
    let va (n : Nat) : Nat := ((t.laneAt i n).regPair f.a.toNat).toNat
    let action (n : Nat) : Nat := bRaw .slogrun f (t.laneAt i n) false
    let bad (n : Nat) : Bool := bits (action n) 7 1 ≠ 0 || bits (action n) 31 16 ≠ 0
    if t.mustWait i f.guard u then t
    else
      let good := ex.filter fun n => !bad n
      let start (v : State) (n : Nat) : State :=
        if ((v.laneAt i n).markOf .slogrun).isSome then v else v.slogStart i (va n) (action n) n
      let t1 := foldState start good t
      if !(good.all fun n => t1.slogDone i (va n) (action n) n) then t1
      else
        let t2 := foldState (fun (v : State) n => v.modLane (i.lane n) fun l => { l with arrival := none }) good t1
        t2.finish i u (ex.map fun n => (n, if bad n then .eff (illegal i 6) else .go .seq))

/-! BINDW (17 R372). -/

/-- Log 79 (DEDUCED). Log 128 (DEDUCED). -/
def execBindw (f : Form) (s : State) : Host.Outcome State Fault Refusal :=
  execLanes .bindw f s fun i t n =>
    let d := i.key.die
    let a := ((t.laneAt i n).regPair f.a.toNat).toNat
    let rs := t.readChain d chainLimit a
    if a % 64 ≠ 0 || (rs.any fun r => superSlot r.key) || (firstBad (t.bindOk (t.pid d) rs) rs 0).isSome then (t, .eff (illegal i 6))
    else
      let (r, t1) := t.submitChain d a
      if r.result = 0 then (t, .stall) else (t1.modLane (i.lane n) fun l => l.setPred f.d.toNat (r.result = 1), .go .seq)

/-! HALTC (17 R373). -/

def State.haltLanes (s : State) (i : Issue) (target : Nat → Nat) : List Nat → Bool × State
  | [] => (true, s)
  | n :: ns =>
    let (a, s1) := if targetOk (target n) then s.halt (targetKey (target n)) else (true, s)
    let (b, s2) := s1.haltLanes i target ns
    (a && b, s2)

def targetOut (i : Issue) (w : Nat) : LaneOut := if targetOk w then .go .seq else .eff (illegal i 6)

def execHaltc (f : Form) (s : State) : Host.Outcome State Fault Refusal :=
  withIssue s fun i t =>
    let u := f.use .haltc
    let ex := t.executing i f.guard
    let target (n : Nat) : Nat := (t.laneAt i n).nat32 f.a.toNat
    if t.mustWait i f.guard u then t
    else
      let (done, t1) := t.haltLanes i target ex
      if done then t1.finish i u (ex.map fun n => (n, targetOut i (target n))) else t1

def execHaltcGo (f : Form) (s : State) : Host.Outcome State Fault Refusal :=
  execLanes .haltcGo f s fun i t n =>
    let w := (t.laneAt i n).nat32 f.a.toNat
    (if targetOk w then t.restart (targetKey w) else t, targetOut i w)

/-! CIMGS and CIMGL (17 R375, R376). -/

/-- The image of a halted cohort is written by the lane, and the slot is given up, once its fibres' writes are performed. Log 78 (DEDUCED). -/
def State.saveImage (s : State) (i : Issue) (n : Nat) (k : CohKey) (a : Nat) : Option State :=
  let s1 := s.beforeSave k
  match s1.cohort? k with
  | none => none
  | some c =>
    let bs := c.imageBytes
    if !(s.physOk i.key.die a && s.physOk i.key.die (a + bs.length - 1)) then none
    else
      let at_ := (piecesOf a bs.length).map fun x => (x.1 - a, x.2, ({ pa := x.1, va := x.1 } : Loc))
      some (((s1.countWic i [n]).imageWrites i n [n] bs at_).leaveSlot k a)

/-- Log 79 (DEDUCED). -/
def execCimgs (f : Form) (s : State) : Host.Outcome State Fault Refusal :=
  execLanes .cimgs f s fun i t n =>
    let l := t.laneAt i n
    let a := (l.regPair f.a.toNat).toNat
    let w := bRaw .cimgs f l false
    let answer (v : State) (b : Bool) : State × LaneOut := (v.modLane (i.lane n) fun x => x.setPred f.d.toNat b, .go .seq)
    if !targetOk w || a % 64 ≠ 0 then (t, .eff (illegal i 6))
    else if !t.stands (targetKey w) then answer t false
    else if !t.cohortQuiet (targetKey w) then (t, .stall)
    else match t.saveImage i n (targetKey w) a with
      | some t1 => answer t1 true
      | none => answer (t.addLate (i.lane n) (refusedErr i a 0 0)) false

/-- The loads and atomics of a lane are home, and its reductions are in its view. -/
def State.ownQuiet (s : State) (k : LaneKey) : Bool :=
  (s.loads.all fun x => x.src ≠ k) && (s.atomics.all fun x => x.src ≠ k)
    && s.writes.all fun w => !(w.src = k && w.red.isSome) || w.appliedAt (observerOf k.coh)

/-- Read an image as the lane does. -/
def State.readSaved (s : State) (k : LaneKey) (a : Nat) : NowRead × State :=
  let rd (o m : Nat) : List Byte := match (s.readNow k 1 (BitVec.ofNat 64 (a + o)) m).1 with
    | .bytes bs _ => bs
    | _ => []
  match s.readNow k 1 (BitVec.ofNat 64 a) imageRegs with
  | (.bytes _ _, s1) => s1.readNow k 1 (BitVec.ofNat 64 a) (imageLength rd)
  | r => r

def State.loadImage (s : State) (i : Issue) (f : Form) (n : Nat) : State × LaneOut :=
  let l := s.laneAt i n
  let a := (l.regPair f.a.toNat).toNat
  let w := bRaw .cimgl f l false
  let k := targetKey w
  let answer (v : State) (b : Bool) : State × LaneOut := (v.modLane (i.lane n) fun x => x.setPred f.d.toNat b, .go .seq)
  if !targetOk w || a % 64 ≠ 0 then (s, .eff (illegal i 6))
  else match s.readSaved (i.lane n) a with
    | (.bytes bs seen, s1) =>
      let g := parseImage bs
      if !g.ok then (s1, .eff (illegal i 6))
      else
        let fits := match s1.cohort? k with
          | some c => g.fits c && s1.mayGrow k 0 g.nreg
          | none => false
        if fits then answer ((s1.observe (i.lane n) seen).restore k g a) true else answer s1 false
    | (x, s1) =>
      let (s2, outs) := s1.readFails i [n] 0 0 x
      (s2, (lookup outs n).getD .off)

/-- Log 79 (DEDUCED). -/
def execCimgl (f : Form) (s : State) : Host.Outcome State Fault Refusal :=
  withIssue s fun i t =>
    if !((t.executing i f.guard).all fun n => t.ownQuiet (i.lane n)) then t
    else t.issueWith i f.guard (f.use .cimgl) fun v ex => runLanes (fun x n => x.loadImage i f n) ex v

end Sys2Proof.Machine
end

