-- ==== Sys2Proof/Machine/Wakes.lean ====
section
/-! DEFINITION. WAKE and AWAIT (02 R38 to R41): what each block waits for, the wake that follows, and the effect on a user fibre that
stays parked. -/

namespace Sys2Proof.Machine

/-- The request of a lane is the first of its die (17 R369). Log 127 (DEDUCED). -/
def State.firstWaiter (s : State) (k : LaneKey) : Bool :=
  match s.faultWaiters k.coh.die with
  | [] => false
  | x :: xs => (xs.foldl (fun (a : Nat × LaneKey) b => if b.1 < a.1 then b else a) x).2 = k

/-- A record is there for the first lane that waits. -/
def State.faultReady (s : State) (k : LaneKey) : Bool := s.firstWaiter k && !(s.die k.coh.die).frq.isEmpty

/-- The queue of a lane's request has an entry for it (11 R275). Log 65 (DEDUCED). -/
def State.queueReady (s : State) (k : LaneKey) : Bool :=
  match s.qreqs.find? fun r => r.key = k with
  | none => false
  | some r =>
    let q := s.queueAt r.desc
    (s.qreqs.find? fun x => x.desc = r.desc) = some r && !q.empty && !s.queueStuck r.desc

/-- The word of a CWAIT or TWAIT has reached the ticket, in the view of the lane's core (11 R267). Log 131 (DEDUCED). -/
def State.wordReady (s : State) (k : LaneKey) (va : W64) (ticket : Nat) : Bool :=
  let (x, _) := s.findGlobal k .load va
  match x.loc? with
  | some y => !s.badAt y.pa 8 && reached (ofBytes (s.viewN (observerOf k.coh) y.pa 8)) ticket
  | none => false

/-- An older cohort of the core has a lane parked on growth that would be granted: requests of one cycle are served in order of cohort age
(04 R85). -/
def State.growBehind (s : State) (k : CohKey) : Bool :=
  match s.cohort? k with
  | none => false
  | some c => (s.coreCohorts k.die k.core).any fun x => decide (x.2.order < c.order) && x.2.lanes.any fun y => match y.2.status with
    | .parked 7 _ => s.growOk x.1 y.2.want
    | _ => false

/-- A lane parked on growth executes its instruction again once the growth is granted, and no older cohort's goes first (04 R84, R85; 09
R217; 13 R314). Log 150 (DEDUCED). -/
def State.growDue (s : State) (k : CohKey) (l : Lane) : Bool := s.growOk k l.want && !s.growBehind k

/-- The condition of a lane's block is met (02 R38). -/
def State.wakeDue (s : State) (k : LaneKey) (l : Lane) : Bool :=
  match l.status, l.arrival with
  | .parked 0 _, _ => s.faultReady k
  | .parked 1 _, _ => s.queueReady k
  | .parked 2 _, some a => (s.tokenBarrier k.coh a.a.toNat).complete (bits a.a.toNat 22 0)
  | .parked 5 _, _ => (s.opsOf k).isEmpty
  | .parked 6 _, _ => match s.cohort? k.coh with
    | some c => (c.roundOf k.lane).isSome
    | none => false
  | .parked 7 _, _ => s.growDue k.coh l
  | .parked _ va, some a => s.wordReady k va a.a.toNat
  | _, _ => false

/-- A parked lane executes its instruction again. Log 20 (DEDUCED). Log 150 (DEDUCED). -/
def State.againLane (s : State) (k : LaneKey) (l : Lane) : State := (s.setLane k { l with lastReads := [] }).readyLane k l.prio l.pc

/-- The first lane that waits for a fault record takes it. -/
def State.wakeFault (s : State) (k : LaneKey) (id : Nat) : State :=
  match s.takeFault k.coh.die with
  | some (r, t) => (t.modLane k fun l => l.land id r.words).passLane k
  | none => s

/-- A barrier's phase is complete: a BAR clears its token (13 R325). Log 75 (DEDUCED). -/
def State.wakeBarrier (s : State) (k : LaneKey) (a : Arrival) : State :=
  let b := s.tokenBarrier k.coh a.a.toNat
  let clear (l : Lane) : Lane := if a.op = .bar then l.setReg a.form.d.toNat 0 else l
  ((s.modLane k clear).observe k (b.seen.filter s.inFlight)).passLane k

/-- MWAIT of a lane completes (12 R301): the fibre has observed the octet's writes (07 R141). -/
def State.wakeMatrix (s : State) (k : LaneKey) : State := (s.observe k (s.matrixWrites k)).passLane k

/-- The lanes of a cohort that wait at the MWAIT of a lane, in lane order: fused octets end in lockstep (12 R286), and their lanes wake
in one cycle, in which those of a pair merge (02 R39). -/
def State.matrixWaiters (s : State) (k : LaneKey) (l : Lane) : List LaneKey :=
  match s.cohort? k.coh with
  | none => []
  | some c => (c.lanes.filter fun x => x.2.status = l.status && x.2.pc = l.pc && x.2.prio = l.prio && (s.opsOf ⟨k.coh, x.1⟩).isEmpty).map
    fun x => ⟨k.coh, x.1⟩

/-- The wake of a lane whose condition is met (02 R39). -/
def State.wake (s : State) (k : LaneKey) (l : Lane) : State :=
  match l.status, l.arrival with
  | .parked 0 _, some a => s.wakeFault k (a.pend.getD 0)
  | .parked 1 _, _ => match s.qreqs.find? fun r => r.key = k with
    | some r => s.serveQueue r.desc (s.qreqs.length + 1)
    | none => s
  | .parked 2 _, some a => s.wakeBarrier k a
  | .parked 5 _, _ => foldState State.wakeMatrix (s.matrixWaiters k l) s
  | .parked 6 _, _ => s.converge k.coh
  | .parked _ _, _ => s.againLane k l
  | _, _ => s

/-- WAKE: a parked lane whose condition is met; a lane whose capture waits tries again (03 R59). -/
def execWake (l : LaneKey) (s : State) : Host.Outcome State Fault Refusal :=
  match s.lane? l with
  | none => .next s
  | some x => .next (if !s.awake l.coh.die then s
    else match x.status with
      | .capturing _ e => s.deliver l e
      | _ => if s.wakeDue l x then s.wake l x else s)

/-! AWAIT (02 R40). -/

/-- Core cycles from the issue of the instruction at which a lane parks: two of the issue, and 256. Log 130 (DEDUCED). -/
def awaitCycles : Nat := 258

/-- AWAIT (02 R38). Bit 63 of `k3` is 1, as 03 R61 has it for every hardware-raised effect, where R38 writes 0 in bits [63:8]. Log 151 (DEDUCED). -/
def awaitEffect (l : Lane) (block : Nat) (k2 : W64) : Effect :=
  { tag := 1, k2 := k2, k3 := hwDetail block, cpc := some l.pc, xpc := l.pc }

/-- The AWAIT that is due to a lane: a user fibre's, parked long enough, whose condition is not met and to which no PREEMPT is due. Log 130 (DEDUCED). -/
def State.awaitDue (s : State) (k : LaneKey) (l : Lane) : Option Effect :=
  match s.cohort? k.coh, l.status with
  | some c, .parked block k2 =>
    if !c.priv && decide (awaitCycles ≤ l.parkedCycles) && !c.halted && !s.groupParked k.coh c && s.awake k.coh.die && !l.preemptDue
        && !s.wakeDue k l then
      some (awaitEffect l block k2)
    else none
  | _, _ => none

def execAwait (l : LaneKey) (s : State) : Host.Outcome State Fault Refusal :=
  match s.lane? l with
  | none => .next s
  | some x => .next (match s.awaitDue l x with
    | some e => s.deliver l e
    | none => s)

end Sys2Proof.Machine
end

