-- ==== Sys2Proof/Machine/Dispatch.lean ====
section
/-! DEFINITION. Which meaning each instruction and step has. -/

namespace Sys2Proof.Machine

def exec (i : Instr) (s : State) : Host.Outcome State Fault Refusal :=
  match i with
  | .iadd f => Sys2Proof.Machine.execIadd f s
  | .isub f => Sys2Proof.Machine.execIsub f s
  | .ineg f => Sys2Proof.Machine.execIneg f s
  | .iabs f => Sys2Proof.Machine.execIabs f s
  | .imin f => Sys2Proof.Machine.execImin f s
  | .imax f => Sys2Proof.Machine.execImax f s
  | .lea f => Sys2Proof.Machine.execLea f s
  | .imul f => Sys2Proof.Machine.execImul f s
  | .imulh f => Sys2Proof.Machine.execImulh f s
  | .imad f => Sys2Proof.Machine.execImad f s
  | .idiv f => Sys2Proof.Machine.execIdiv f s
  | .irem f => Sys2Proof.Machine.execIrem f s
  | .andOp f => Sys2Proof.Machine.execAndOp f s
  | .orOp f => Sys2Proof.Machine.execOrOp f s
  | .xorOp f => Sys2Proof.Machine.execXorOp f s
  | .andn f => Sys2Proof.Machine.execAndn f s
  | .notOp f => Sys2Proof.Machine.execNotOp f s
  | .shl f => Sys2Proof.Machine.execShl f s
  | .shr f => Sys2Proof.Machine.execShr f s
  | .sar f => Sys2Proof.Machine.execSar f s
  | .rotl f => Sys2Proof.Machine.execRotl f s
  | .popc f => Sys2Proof.Machine.execPopc f s
  | .clz f => Sys2Proof.Machine.execClz f s
  | .ctz f => Sys2Proof.Machine.execCtz f s
  | .brev f => Sys2Proof.Machine.execBrev f s
  | .bfx f => Sys2Proof.Machine.execBfx f s
  | .bfi f => Sys2Proof.Machine.execBfi f s
  | .mov f => Sys2Proof.Machine.execMov f s
  | .movl f => Sys2Proof.Machine.execMovl f s
  | .sel f => Sys2Proof.Machine.execSel f s
  | .movFromK f => Sys2Proof.Machine.execMovFromK f s
  | .movToK f => Sys2Proof.Machine.execMovToK f s
  | .icmp f => Sys2Proof.Machine.execIcmp f s
  | .pset f => Sys2Proof.Machine.execPset f s
  | .psetGet f => Sys2Proof.Machine.execPsetGet f s
  | .plop f => Sys2Proof.Machine.execPlop f s
  | .sread f => Sys2Proof.Machine.execSread f s
  | .swrite f => Sys2Proof.Machine.execSwrite f s
  | .rel f => Sys2Proof.Machine.execRel f s
  | .spill f => Sys2Proof.Machine.execSpill f s
  | .fill f => Sys2Proof.Machine.execFill f s
  | .fadd f => Sys2Proof.Machine.execFadd f s
  | .fsub f => Sys2Proof.Machine.execFsub f s
  | .fmul f => Sys2Proof.Machine.execFmul f s
  | .ffma f => Sys2Proof.Machine.execFfma f s
  | .ffms f => Sys2Proof.Machine.execFfms f s
  | .fnma f => Sys2Proof.Machine.execFnma f s
  | .fdiv f => Sys2Proof.Machine.execFdiv f s
  | .fsqrt f => Sys2Proof.Machine.execFsqrt f s
  | .frem f => Sys2Proof.Machine.execFrem f s
  | .fmin f => Sys2Proof.Machine.execFmin f s
  | .fmax f => Sys2Proof.Machine.execFmax f s
  | .fminm f => Sys2Proof.Machine.execFminm f s
  | .fmaxm f => Sys2Proof.Machine.execFmaxm f s
  | .fabs f => Sys2Proof.Machine.execFabs f s
  | .fneg f => Sys2Proof.Machine.execFneg f s
  | .fcpys f => Sys2Proof.Machine.execFcpys f s
  | .fcmp f => Sys2Proof.Machine.execFcmp f s
  | .fclass f => Sys2Proof.Machine.execFclass f s
  | .frnd f => Sys2Proof.Machine.execFrnd f s
  | .fcvt f => Sys2Proof.Machine.execFcvt f s
  | .fscale f => Sys2Proof.Machine.execFscale f s
  | .flogb f => Sys2Proof.Machine.execFlogb f s
  | .fdot2 f => Sys2Proof.Machine.execFdot2 f s
  | .rcp f => Sys2Proof.Machine.execRcp f s
  | .rsq f => Sys2Proof.Machine.execRsq f s
  | .ex2 f => Sys2Proof.Machine.execEx2 f s
  | .lg2 f => Sys2Proof.Machine.execLg2 f s
  | .sin f => Sys2Proof.Machine.execSin f s
  | .cos f => Sys2Proof.Machine.execCos f s
  | .tanh f => Sys2Proof.Machine.execTanh f s
  | .sfuResultRetire die core => Sys2Proof.Machine.execSfuResultRetire die core s
  | .xshfl f => Sys2Proof.Machine.execXshfl f s
  | .xvote f => Sys2Proof.Machine.execXvote f s
  | .xred f => Sys2Proof.Machine.execXred f s
  | .xminidx f => Sys2Proof.Machine.execXminidx f s
  | .xscan f => Sys2Proof.Machine.execXscan f s
  | .xmatch f => Sys2Proof.Machine.execXmatch f s
  | .ld f => Sys2Proof.Machine.execLd f s
  | .st f => Sys2Proof.Machine.execSt f s
  | .ldr f => Sys2Proof.Machine.execLdr f s
  | .str f => Sys2Proof.Machine.execStr f s
  | .atom f => Sys2Proof.Machine.execAtom f s
  | .acas f => Sys2Proof.Machine.execAcas f s
  | .ared f => Sys2Proof.Machine.execAred f s
  | .fence f => Sys2Proof.Machine.execFence f s
  | .pref f => Sys2Proof.Machine.execPref f s
  | .cpy f => Sys2Proof.Machine.execCpy f s
  | .cpy2d f => Sys2Proof.Machine.execCpy2d f s
  | .cwait f => Sys2Proof.Machine.execCwait f s
  | .ctest f => Sys2Proof.Machine.execCtest f s
  | .pin f => Sys2Proof.Machine.execPin f s
  | .unpin f => Sys2Proof.Machine.execUnpin f s
  | .stash f => Sys2Proof.Machine.execStash f s
  | .unstash f => Sys2Proof.Machine.execUnstash f s
  | .swb f => Sys2Proof.Machine.execSwb f s
  | .freeze f => Sys2Proof.Machine.execFreeze f s
  | .thaw f => Sys2Proof.Machine.execThaw f s
  | .twait f => Sys2Proof.Machine.execTwait f s
  | .ftest f => Sys2Proof.Machine.execFtest f s
  | .qpush f => Sys2Proof.Machine.execQpush f s
  | .qpop f => Sys2Proof.Machine.execQpop f s
  | .qtry f => Sys2Proof.Machine.execQtry f s
  | .qpopComplete l => Sys2Proof.Machine.execQpopComplete l s
  | .amark f => Sys2Proof.Machine.execAmark f s
  | .tdef f => Sys2Proof.Machine.execTdef f s
  | .tqry f => Sys2Proof.Machine.execTqry f s
  | .trel f => Sys2Proof.Machine.execTrel f s
  | .mzero f => Sys2Proof.Machine.execMzero f s
  | .mma f => Sys2Proof.Machine.execMma f s
  | .mms f => Sys2Proof.Machine.execMms f s
  | .mmf f => Sys2Proof.Machine.execMmf f s
  | .mwait f => Sys2Proof.Machine.execMwait f s
  | .quant f => Sys2Proof.Machine.execQuant f s
  | .deq f => Sys2Proof.Machine.execDeq f s
  | .spz f => Sys2Proof.Machine.execSpz f s
  | .matrixKstepDone id => Sys2Proof.Machine.execMatrixKstepDone id s
  | .install f => Sys2Proof.Machine.execInstall f s
  | .uninst f => Sys2Proof.Machine.execUninst f s
  | .perform f => Sys2Proof.Machine.execPerform f s
  | .resume f => Sys2Proof.Machine.execResume f s
  | .drop f => Sys2Proof.Machine.execDrop f s
  | .contq f => Sys2Proof.Machine.execContq f s
  | .spawn f => Sys2Proof.Machine.execSpawn f s
  | .post f => Sys2Proof.Machine.execPost f s
  | .postCont f => Sys2Proof.Machine.execPostCont f s
  | .exit f => Sys2Proof.Machine.execExit f s
  | .bar f => Sys2Proof.Machine.execBar f s
  | .bara f => Sys2Proof.Machine.execBara f s
  | .barw f => Sys2Proof.Machine.execBarw f s
  | .launch f => Sys2Proof.Machine.execLaunch f s
  | .rbind f => Sys2Proof.Machine.execRbind f s
  | .scall f => Sys2Proof.Machine.execScall f s
  | .bra f => Sys2Proof.Machine.execBra f s
  | .braLong f => Sys2Proof.Machine.execBraLong f s
  | .brp f => Sys2Proof.Machine.execBrp f s
  | .brpLong f => Sys2Proof.Machine.execBrpLong f s
  | .jmpr f => Sys2Proof.Machine.execJmpr f s
  | .call f => Sys2Proof.Machine.execCall f s
  | .callr f => Sys2Proof.Machine.execCallr f s
  | .ret f => Sys2Proof.Machine.execRet f s
  | .prio f => Sys2Proof.Machine.execPrio f s
  | .nop f => Sys2Proof.Machine.execNop f s
  | .pair f => Sys2Proof.Machine.execPair f s
  | .sret f => Sys2Proof.Machine.execSret f s
  | .dcrr f => Sys2Proof.Machine.execDcrr f s
  | .dcrw f => Sys2Proof.Machine.execDcrw f s
  | .tlbinv f => Sys2Proof.Machine.execTlbinv f s
  | .tlbsync f => Sys2Proof.Machine.execTlbsync f s
  | .frqpop f => Sys2Proof.Machine.execFrqpop f s
  | .frqpopTry f => Sys2Proof.Machine.execFrqpopTry f s
  | .mapdone f => Sys2Proof.Machine.execMapdone f s
  | .slogrun f => Sys2Proof.Machine.execSlogrun f s
  | .bindw f => Sys2Proof.Machine.execBindw f s
  | .haltc f => Sys2Proof.Machine.execHaltc f s
  | .haltcGo f => Sys2Proof.Machine.execHaltcGo f s
  | .cimgs f => Sys2Proof.Machine.execCimgs f s
  | .cimgl f => Sys2Proof.Machine.execCimgl f s
  | .boundaryEffect => Sys2Proof.Machine.execBoundaryEffect s
  | .lateEffect => Sys2Proof.Machine.execLateEffect s
  | .entryAged c prio pc => Sys2Proof.Machine.execEntryAged c prio pc s
  | .wake l => Sys2Proof.Machine.execWake l s
  | .await l => Sys2Proof.Machine.execAwait l s
  | .activeSetDisplace die core => Sys2Proof.Machine.execActiveSetDisplace die core s
  | .loadDataReturn l id => Sys2Proof.Machine.execLoadDataReturn l id s
  | .writeApply id a => Sys2Proof.Machine.execWriteApply id a s
  | .atomicPerform id => Sys2Proof.Machine.execAtomicPerform id s
  | .copyComplete id => Sys2Proof.Machine.execCopyComplete id s
  | .freezeComplete id => Sys2Proof.Machine.execFreezeComplete id s
  | .thawCollectComplete id => Sys2Proof.Machine.execThawCollectComplete id s
  | .stashFill page sector => Sys2Proof.Machine.execStashFill page sector s
  | .stashRecall page sector => Sys2Proof.Machine.execStashRecall page sector s
  | .scratchEvict page => Sys2Proof.Machine.execScratchEvict page s
  | .scratchRefill page sector => Sys2Proof.Machine.execScratchRefill page sector s
  | .sideLogReplay die core page => Sys2Proof.Machine.execSideLogReplay die core page s
  | .faultRecordWrite die => Sys2Proof.Machine.execFaultRecordWrite die s
  | .faultTimeout die rid => Sys2Proof.Machine.execFaultTimeout die rid s
  | .heldLaneReplay id => Sys2Proof.Machine.execHeldLaneReplay id s
  | .completionWordWatch id => Sys2Proof.Machine.execCompletionWordWatch id s
  | .msiWrite die off data => Sys2Proof.Machine.execMsiWrite die off data s
  | .hostRequestRecord die => Sys2Proof.Machine.execHostRequestRecord die s
  | .hotnessProposal die granule pkg => Sys2Proof.Machine.execHotnessProposal die granule pkg s
  | .hotnessDecay die => Sys2Proof.Machine.execHotnessDecay die s
  | .hostWrite link hpa pa data => Sys2Proof.Machine.execHostWrite link hpa pa data s
  | .hostRead pa len => Sys2Proof.Machine.execHostRead pa len s
  | .hostSnoop line => Sys2Proof.Machine.execHostSnoop line s
  | .flitReceive link flit => Sys2Proof.Machine.execFlitReceive link flit s
  | .nakReceive link => Sys2Proof.Machine.execNakReceive link s
  | .linkReplayTimeout link => Sys2Proof.Machine.execLinkReplayTimeout link s
  | .linkRetrain link ok => Sys2Proof.Machine.execLinkRetrain link ok s
  | .calendsPass die => Sys2Proof.Machine.execCalendsPass die s
  | .taskStart die quad => Sys2Proof.Machine.execTaskStart die quad s
  | .calHlqtail die v => Sys2Proof.Machine.execCalHlqtail die v s
  | .calDlqpop die => Sys2Proof.Machine.execCalDlqpop die s
  | .calBind die v => Sys2Proof.Machine.execCalBind die v s
  | .calPreempt die v => Sys2Proof.Machine.execCalPreempt die v s
  | .preemptDeadline die => Sys2Proof.Machine.execPreemptDeadline die s
  | .gangTimeLimit gang => Sys2Proof.Machine.execGangTimeLimit gang s
  | .arbiterPass avail power => Sys2Proof.Machine.execArbiterPass avail power s
  | .relockEnd die => Sys2Proof.Machine.execRelockEnd die s
  | .currentLimit die => Sys2Proof.Machine.execCurrentLimit die s
  | .thermalThrottle die degC => Sys2Proof.Machine.execThermalThrottle die degC s
  | .thermalTrip die => Sys2Proof.Machine.execThermalTrip die s
  | .powerOn => Sys2Proof.Machine.execPowerOn s
  | .bootStage r => Sys2Proof.Machine.execBootStage r s
  | .almCutreq die v => Sys2Proof.Machine.execAlmCutreq die v s
  | .cut id die => Sys2Proof.Machine.execCut id die s
  | .almanacFreeze id die => Sys2Proof.Machine.execAlmanacFreeze id die s
  | .almanacCopyDone id die buf => Sys2Proof.Machine.execAlmanacCopyDone id die buf s
  | .capsuleSeal id => Sys2Proof.Machine.execCapsuleSeal id s
  | .ident tag => Sys2Proof.Machine.execIdent tag s
  | .bootst tag => Sys2Proof.Machine.execBootst tag s
  | .attest tag nonce => Sys2Proof.Machine.execAttest tag nonce s
  | .imgload tag ty off body => Sys2Proof.Machine.execImgload tag ty off body s
  | .reset tag kind => Sys2Proof.Machine.execReset tag kind s
  | .setpart tag die pid => Sys2Proof.Machine.execSetpart tag die pid s
  | .setpolicy tag pid pol => Sys2Proof.Machine.execSetpolicy tag pid pol s
  | .mgmtDcracc tag write addr data => Sys2Proof.Machine.execMgmtDcracc tag write addr data s
  | .pwrset tag watts => Sys2Proof.Machine.execPwrset tag watts s
  | .vlist tag => Sys2Proof.Machine.execVlist tag s
  | .vread tag slot off len => Sys2Proof.Machine.execVread tag slot off len s
  | .vrelease tag slot seq => Sys2Proof.Machine.execVrelease tag slot seq s
  | .extest pins => Sys2Proof.Machine.execExtest pins s
  | .idcode => Sys2Proof.Machine.execIdcode s
  | .samplePreload pins => Sys2Proof.Machine.execSamplePreload pins s
  | .lenmusDcracc write addr data => Sys2Proof.Machine.execLenmusDcracc write addr data s
  | .snapsel v => Sys2Proof.Machine.execSnapsel v s
  | .snaprd => Sys2Proof.Machine.execSnaprd s
  | .bypass bit => Sys2Proof.Machine.execBypass bit s
  | .solStopArm die v => Sys2Proof.Machine.execSolStopArm die v s
  | .solsticeStop die => Sys2Proof.Machine.execSolsticeStop die s
  | .solResume die v => Sys2Proof.Machine.execSolResume die v s
  | .solsticeResume => Sys2Proof.Machine.execSolsticeResume s
  | .parkGo die k => Sys2Proof.Machine.execParkGo die k s
  | .sampleRecord die core => Sys2Proof.Machine.execSampleRecord die core s
  | .ckCapture die => Sys2Proof.Machine.execCkCapture die s
  | .ckQuiesceDone die => Sys2Proof.Machine.execCkQuiesceDone die s
  | .ckBuddyTimeout die => Sys2Proof.Machine.execCkBuddyTimeout die s
  | .ckRelease die => Sys2Proof.Machine.execCkRelease die s
  | .ckRestoreOwn die => Sys2Proof.Machine.execCkRestoreOwn die s
  | .ckRestoreSrc die => Sys2Proof.Machine.execCkRestoreSrc die s
  | .dcrWrite die off v => Sys2Proof.Machine.execDcrWrite die off v s
  | .powerLoss => Sys2Proof.Machine.execPowerLoss s
  | .hostLinkDown link => Sys2Proof.Machine.execHostLinkDown link s

end Sys2Proof.Machine
end

