-- ==== Sys2Proof/Machine/Policy.lean ====
section
/-! DEFINITION. The default policy: the turns that follow when the agenda names none. The specification fixes no order among agents;
any order that it allows can be had by an agenda. A turn whose step is not due changes nothing. -/

namespace Sys2Proof.Machine

/-- Cohorts that may issue. -/
def State.readyCohorts (s : State) : List (CohKey × Cohort) :=
  s.cohorts.filter fun x => s.awake x.1.die && !x.2.halted && !x.2.frontier.isEmpty && !s.groupParked x.1 x.2

/-- Each core that has a ready cohort. -/
def State.issueTurns (s : State) : List Turn :=
  (dedup (s.readyCohorts.map fun x => (x.1.die, x.1.core))).map fun c => .core c.1 c.2

/-- A cohort takes its place among others by its last issue; those of an equal last issue keep the order of the list. Log 156 (DESIGN CHOICE). -/
def insertOlder (x : CohKey × Cohort) : List (CohKey × Cohort) → List (CohKey × Cohort)
  | [] => [x]
  | y :: ys => if x.2.lastIssue ≤ y.2.lastIssue then x :: y :: ys else y :: insertOlder x ys

/-- Active cohorts of a core, the one that issued least recently first (02 R43). -/
def State.issueOrder (s : State) (d c : Nat) : List CohKey :=
  (((s.coreCohorts d c).filter fun x => x.2.active && !x.2.frontier.isEmpty).foldr insertOlder []).map fun x => x.1

/-- Steps that time waits for. -/
def State.timeTurns (s : State) : List Instr :=
  (s.dies.filterMap fun d => if d.2.relock.isSome then some (.relockEnd d.1) else none)
    ++ (if s.sol.arm then (List.range Config.dies).map .solsticeStop else [])
    ++ (if s.sol.resuming then [.solsticeResume] else [])
    ++ s.cuts.flatMap fun c => c.dies.map fun d => .almanacFreeze c.id d

/-- Steps of the fabric and the homes. -/
def State.accessTurns (s : State) : List Instr :=
  (s.writes.map fun w => .writeApply w.id (.home [])) ++ (s.writes.flatMap fun w => w.left.map fun o => .writeApply w.id (.observer o))
    ++ (s.loads.map fun x => .loadDataReturn x.src x.id) ++ (s.atomics.map fun x => .atomicPerform x.id)

/-- Steps of the engines of the cores. -/
def State.engineTurns (s : State) : List Instr :=
  (s.cores.filterMap fun c => if c.2.sfu.isEmpty then none else some (.sfuResultRetire c.1.1 c.1.2))
    ++ (s.matOps.map fun x => .matrixKstepDone x.id) ++ (s.qwaits.map fun q => .qpopComplete q.key)
    ++ (s.jobs.map fun j => if j.frz then (if j.thaw then .thawCollectComplete j.id else .freezeComplete j.id) else .copyComplete j.id)
    ++ (s.cores.filterMap fun c => if c.2.sample.isSome then some (.sampleRecord c.1.1 c.1.2) else none)

/-- Fault service. -/
def State.faultTurns (s : State) : List Instr :=
  (s.cores.flatMap fun c => (c.2.sideLog.filter fun e => e.state = 2).map fun e => .sideLogReplay c.1.1 c.1.2 e.page)
    ++ (s.cores.flatMap fun c => (c.2.sideLog.filter fun e => e.word.isSome).map fun e => .completionWordWatch e.id)
    ++ (s.holds.map fun h => if h.word.isSome then .completionWordWatch h.id else .heldLaneReplay h.id)
    ++ (s.jobs.filterMap fun j => if j.cw.isSome then some (.completionWordWatch j.id) else none)
    ++ (s.matOps.filterMap fun x => if x.word.isSome then some (.completionWordWatch x.id) else none)
    ++ s.dies.flatMap fun d => (if d.2.frWait.isEmpty then [] else [.faultRecordWrite d.1])
      ++ (if d.2.irq.isEmpty then [] else [.hostRequestRecord d.1]) ++ (d.2.frq ++ d.2.out).map fun r => .faultTimeout d.1 r.rid

/-- Wakes, and AWAIT for the lanes that stay parked. -/
def State.parkTurns (s : State) : List Instr :=
  s.cohorts.flatMap fun c => c.2.lanes.flatMap fun l => match l.2.status with
    | .parked _ _ => [.wake ⟨c.1, l.1⟩, .await ⟨c.1, l.1⟩]
    | _ => []

/-- Firmware, the Almanac, checkpoints and the boot. -/
def State.firmTurns (s : State) : List Instr :=
  (s.dies.flatMap fun d => (if d.2.preempt.isSome then [.preemptDeadline d.1] else []) ++ (if d.2.hot.isEmpty then [] else [.hotnessDecay d.1])
      ++ (if s.pid d.1 ≠ 0 then [.calendsPass d.1] else []))
    ++ (s.gangs.map fun g => .gangTimeLimit g.id)
    ++ (s.cuts.flatMap fun c => (((List.range Config.dies).filter fun d => !c.notified.contains d).map fun d => .cut c.id d)
      ++ (c.frozen.flatMap fun d => ((List.range Config.cores).map fun n => .almanacCopyDone c.id d (.core n)) ++ [.almanacCopyDone c.id d .sched])
      ++ [.capsuleSeal c.id])
    ++ (if s.cks.any fun x => x.2.state = 1 || x.2.state = 3 then
        (List.range Config.dies).flatMap fun d => [.ckQuiesceDone d, .ckBuddyTimeout d] else [])
    ++ (if s.arbiterDue then [.arbiterPass 0 (List.replicate Config.dies [])] else [])
    ++ (if s.sec.stage < 9 then [.bootStage .done] else [])

/-- A round of turns: every step that may be due, one issue of each core, and a tick. Log 1 (DESIGN CHOICE). -/
def State.defaultTurns (s : State) : List Turn :=
  ((s.timeTurns ++ s.accessTurns ++ s.engineTurns ++ s.faultTurns ++ s.parkTurns ++ s.firmTurns).map .event) ++ s.issueTurns ++ [.elapse 1]

end Sys2Proof.Machine
end

