-- ==== Sys2Proof/Machine/Step.lean ====
section
/-! DEFINITION. One step of the package: the next turn of the agenda, or the first of those that the default policy lists. -/

namespace Sys2Proof.Machine

/-- A cohort's turn to issue: the instruction at its entry runs, and what follows an issue. -/
def runIssue (s : State) (k : CohKey) : Host.Outcome State Fault Refusal :=
  match s.prepare k with
  | .ended s1 => .next s1
  | .run i s1 =>
    match exec i s1 with
    | .next s2 => .next (s2.issued s1)
    | r => r

/-- The first of some cohorts whose entry can issue does (02 R43). -/
def runFirst : List CohKey → State → Host.Outcome State Fault Refusal
  | [], s => .next s
  | k :: ks, s =>
    match runIssue s k with
    | .next s1 => if s1.issues = s.issues then runFirst ks s1 else .next s1
    | r => r

/-- The active cohorts of a core that issued less recently than one of them (02 R43). -/
def State.ahead (s : State) (k : CohKey) : List CohKey :=
  let order := s.issueOrder k.die k.core
  if order.contains k then order.takeWhile fun x => x ≠ k else []

/-- A cohort's turn: it asks for a place in the active set, and issues when those that issued less recently cannot (02 R43). -/
def turnOf (k : CohKey) (s : State) : Host.Outcome State Fault Refusal :=
  let s1 := if s.awake k.die then s.enterActive k else s
  match s1.ahead k with
  | [] => runIssue s1 k
  | ks => runFirst (ks ++ [k]) s1

/-- A turn: a step of an engine, controller or outside party; the issue of a cohort or of a core; or time. An instruction has no turn of
its own: it runs when an entry issues. Log 1 (DESIGN CHOICE). -/
def runTurn (s : State) (t : Turn) : Host.Outcome State Fault Refusal :=
  match t with
  | .event i => if i.op.isSome then .next s else exec i s
  | .elapse n => .next (s.elapse n)
  | .spoil n => .next (s.spoil n)
  | .issue k => turnOf k s
  | .core d c =>
    if !s.awake d then .next s
    else
      let s1 := s.displace d c
      runFirst (s1.issueOrder d c) s1

def step (s : State) : Host.Outcome State Fault Refusal :=
  match s.agenda with
  | t :: rest => runTurn { s with agenda := rest } t
  | [] =>
    match s.defaultTurns with
    | t :: rest => runTurn { s with agenda := rest } t
    | [] => .next s

/-- `s` with an instruction, whose first nbits are `w` and whose other bits are 0, where the next step fetches and runs it. Log 6 (DESIGN CHOICE). -/
def State.withFetchWord (s : State) (nbits w : Nat) : State :=
  s.placeInstruction (w / 4 % 64 = 0x3E) (tableBytes nbits w)

end Sys2Proof.Machine
end

