-- ==== Sys2Proof/Safety.lean ====
section
/-! DEFINITION. What a safe run is: memory keeps its canonical form, and no step stops. Then the terms in which statements say what
an issue does and what it leaves alone. -/

namespace Sys2Proof

/-- The memory of a state is in canonical form. -/
def Machine.State.memOk (s : Machine.State) : Prop := Machine.Memory.wf s.mem = true

/-- A step goes on. -/
def goesOn (s : Machine.State) : Prop := ∃ t, Machine.step s = .next t

/-- Every state that a run reaches. -/
inductive Reaches : Machine.State → Machine.State → Prop where
  | refl (s : Machine.State) : Reaches s s
  | step {s t u : Machine.State} (h : Reaches s t) (h' : Machine.step t = .next u) : Reaches s u

namespace Machine

/-- The pair at which a lane stands in the frontier of its cohort (02 R31). -/
def State.pair? (s : State) (k : LaneKey) : Option (BitVec 8 × Nat) :=
  (s.cohort? k.coh).bind fun c => (entryOf c.frontier k.lane).map fun e => (e.prio, e.pc)

/-- The state but for its cohorts, its cores, the count of issues and the issue in progress. -/
def State.rest (s : State) : State := { s with cohorts := [], cores := [], issues := 0, issue := none }

/-- A core but for its growth reserve and its count of issues. -/
def Core.rest (c : Core) : Core := { c with reserve := .free, issues := 0 }

/-- A cohort but for its lanes, its frontier and the number of its last issue. -/
def Cohort.rest (c : Cohort) : Cohort := { c with lanes := [], frontier := [], lastIssue := 0 }

/-- A lane of the entry that issues. -/
def Issue.has (i : Issue) (k : LaneKey) : Prop := k.coh = i.key ∧ i.mask.getLsbD k.lane = true

/-- `t` is `s` after the entry of `i` has issued (02 R34): its lanes are as `lane` says and stand where `stand` says; no other lane
or slot has changed. -/
structure Issued (s t : State) (i : Issue) (lane : Nat → Lane → Lane) (stand : Nat → Option (BitVec 8 × Nat)) : Prop where
  lanes : ∀ n l, i.mask.getLsbD n = true → s.lane? (i.lane n) = some l → t.lane? (i.lane n) = some (lane n l)
  pairs : ∀ n, i.mask.getLsbD n = true → t.pair? (i.lane n) = stand n
  otherLanes : ∀ k, ¬ i.has k → t.lane? k = s.lane? k
  otherPairs : ∀ k, ¬ i.has k → t.pair? k = s.pair? k
  slots : ∀ k, (t.cohort? k).map Cohort.rest = (s.cohort? k).map Cohort.rest
  count : t.issues = s.issues + 1
  ended : t.issue = none

/-- No core has changed, but for the growth reserve (04 R84) and the count of its issues. -/
def CoresSame (s t : State) : Prop := ∀ d c, (t.core d c).rest = (s.core d c).rest

/-- The entry of `i` can issue an instruction with a guard and registers: its cohort is `c`, no lane waits for a register (08 R174),
and growth is not refused (04 R84). -/
structure CanIssue (s : State) (i : Issue) (c : Cohort) (g : Guard) (u : RegUse) : Prop where
  issue : s.issue = some i
  cohort : s.cohort? i.key = some c
  ready : s.mustWait i g u = false
  growth : s.growOk i.key u.writes = true

/-- A lane of the entry after an instruction that changes it by `f` where its guard is true (08 R173): it goes on at the next
instruction, and the instruction's last reads take effect (04 R81). -/
def Lane.after (l : Lane) (i : Issue) (c : Cohort) (g : Guard) (u : RegUse) (f : Lane → Lane) : Lane :=
  { (if l.passes g then (f l).complete (u.lastAt true (f l).pending) else l.complete (u.lastOf false)) with
    prio := i.prio, pc := i.nextPc c.priv, keeps := [] }

/-- `t` is `s` after an instruction that changes lane n of the entry by `f n`, and the rest of the machine as `u` has it. -/
def MachineDone (s u t : State) (i : Issue) (c : Cohort) (g : Guard) (r : RegUse) (f : Nat → Lane → Lane) : Prop :=
  Issued s t i (fun n l => l.after i c g r (f n)) (fun _ => some (i.prio, i.nextPc c.priv)) ∧ CoresSame u t ∧ t.rest = u.rest

/-- The entry can issue an LSU access, which makes its executing lanes' accesses at `loc`: no watchpoint is set on them, no copy holds
them up, their addresses are aligned and translated, and a release has nothing to wait for (11 R250, R251; 06 R128; 07 R146). -/
structure CanAccess (s : State) (i : Issue) (c : Cohort) (o : Op) (f : Form) (space : Nat) (acc : Acc) (loc : Nat → Loc) : Prop where
  can : CanIssue s i c f.guard (f.use o)
  watch : s.watchHit i acc.needsW (if space = 1 then (s.executing i f.guard).map fun n =>
    (n, memAddr f (s.laneAt i n), sizeBytes f.ty.toNat) else []) = .none
  free : ∀ n ∈ s.executing i f.guard, s.scoreStall i.key space (memAddr f (s.laneAt i n)).toNat (sizeBytes f.ty.toNat) acc.needsW = false
  aligned : ∀ n ∈ s.executing i f.guard, (memAddr f (s.laneAt i n)).toNat % sizeBytes f.ty.toNat = 0
  found : ∀ n ∈ s.executing i f.guard,
    s.findAccess (i.lane n) space acc (memAddr f (s.laneAt i n)) (sizeBytes f.ty.toNat) = (.at (loc n), s)
  release : acc ≠ .load → f.ord.getLsbD 1 = true → ∀ n ∈ s.executing i f.guard,
    s.fenceReady (i.lane n) f.rs.toNat [.lsu] = true ∧ (s.laneAt i n).fenceFx = []

/-- No stash page holds a dirty sector whose data is uncorrectable, which could not be written back (06 R134). -/
abbrev State.dirtyGood (s : State) : Prop :=
  ∀ y ∈ s.cores, ∀ p ∈ y.2.pages, ∀ x ∈ p.sectors, x.dirty = true → s.badAt x.pa 128 = false

/-- `t` is `s` but for its cohorts, the Almanacs of its cores and the counts of discarded records (22 R428, R433), and the counts of the
branches that samples count. -/
def RecordsOnly (s t : State) : Prop :=
  { t.rest with dies := [] } = { s.rest with dies := [] }
    ∧ (∀ d, { t.die d with dcr := removeKey (t.die d).dcr offALMLOST } = { s.die d with dcr := removeKey (s.die d).dcr offALMLOST })
    ∧ ∀ d n, { (t.core d n).rest with branches := 0, alm := {} } = { (s.core d n).rest with branches := 0, alm := {} }

/-- The state in which lanes of the entry have ended the fence that an instruction performs first (07 R146, R147). -/
def State.fenced (s : State) (i : Issue) (scope : Nat) (ps : List Path) (ns : List Nat) : State := (s.fenceLanes i scope ps ns).1

/-- What the lanes' fences changed: which writes a fence came after, and views that follow the home again (07 R136, R141); no memory. -/
def FenceOnly (s t : State) : Prop :=
  { t with cohorts := [], writes := [], views := [] } = { s with cohorts := [], writes := [], views := [] }
    ∧ t.writes.map (fun w => { w with fenced := none }) = s.writes.map (fun w => { w with fenced := none })
    ∧ ∀ v ∈ t.views, v ∈ s.views

/-- What a lane of the entry keeps of the fences of a state. -/
def State.madeBy (s : State) (i : Issue) (n : Nat) : List Nat := (s.laneAt i n).made

/-- No write of the host and no request of another package waits at a home. -/
def State.noOutside (s : State) : Prop := s.hostHeld = [] ∧ ∀ d, (s.die d).remote = []

/-- `t` is `s` after an instruction that changes only registers: lane n of the entry by `f n`. -/
def RegsDone (s t : State) (i : Issue) (c : Cohort) (g : Guard) (u : RegUse) (f : Nat → Lane → Lane) : Prop :=
  MachineDone s s t i c g u f

/-- A lane of the entry after an instruction that changes it by `f` and sends it to a pair where its guard is true. -/
def Lane.afterAt (l : Lane) (i : Issue) (c : Cohort) (g : Guard) (u : RegUse) (f : Lane → Lane) (goesTo : BitVec 8 × Nat) : Lane :=
  { (if l.passes g then (f l).complete (u.lastAt true (f l).pending) else l.complete (u.lastOf false)) with
    prio := if l.passes g then goesTo.1 else i.prio, pc := if l.passes g then goesTo.2 else i.nextPc c.priv, keeps := [] }

/-- `t` is `s` after an instruction that changes lane n of the entry by `f n` and sends it to `to n`, and the rest of the machine as
`u` has it; only Almanacs may have changed besides. -/
def GoesTo (s u t : State) (i : Issue) (c : Cohort) (g : Guard) (r : RegUse) (f : Nat → Lane → Lane) (goesTo : Nat → BitVec 8 × Nat) : Prop :=
  Issued s t i (fun n l => l.afterAt i c g r (f n) (goesTo n))
      (fun n => some (if (s.laneAt i n).passes g then goesTo n else (i.prio, i.nextPc c.priv)))
    ∧ RecordsOnly u t

/-- Wherever it can issue and its operands allow it, the instruction completes, and changes only registers: each executing lane's
by `f`. -/
def Writes (x : Instr) (o : Op) (f : Form) (ok : Lane → Prop) (result : Lane → Lane) : Prop :=
  ∀ (s : State) (i : Issue) (c : Cohort), CanIssue s i c f.guard (f.use o) →
    (∀ n ∈ s.executing i f.guard, ok (s.laneAt i n)) →
    ∃ t, exec x s = .next t ∧ RegsDone s t i c f.guard (f.use o) fun _ => result

end Machine

end Sys2Proof
end

