-- ==== Sys2Proof/Certificates/Slice0/Obligations.lean ====
section
/-! DEFINITION. The statements for the provers. -/

open Sys2Proof Sys2Proof.Machine

/-! Integer, logic, move and predicate instructions. -/

/-- The exact results of the arithmetic instructions, delivered by 09 R188 (09 R191, R193).

IDIV and IREM in lanes whose divisor is not 0 (09 R191).
It rests on choices of the model, which no rule states: log 12, 19. -/
def Obligations.ArithmeticResults : Prop :=
  (∀ f : Form,
      let ty := f.ty.toNat
      let a (l : Lane) : Int := l.opnd ty f.a.toNat
      let c (l : Lane) : Int := l.opnd ty f.c.toNat
      let put (sat : Bool) (x : Lane → Int) (l : Lane) : Lane := l.wr ty f.d.toNat (intDeliver ty sat (x l))
      Writes (.iadd f) .iadd f (fun _ => True) (put f.xm fun l => a l + bInt .iadd f l ty)
      ∧ Writes (.isub f) .isub f (fun _ => True) (put f.xm fun l => a l - bInt .isub f l ty)
      ∧ Writes (.ineg f) .ineg f (fun _ => True) (put f.xm fun l => - a l)
      ∧ Writes (.iabs f) .iabs f (fun _ => True) (put f.xm fun l => if a l < 0 then - a l else a l)
      ∧ Writes (.imin f) .imin f (fun _ => True) (put false fun l => if a l ≤ bInt .imin f l ty then a l else bInt .imin f l ty)
      ∧ Writes (.imax f) .imax f (fun _ => True) (put false fun l => if a l ≤ bInt .imax f l ty then bInt .imax f l ty else a l)
      ∧ Writes (.imul f) .imul f (fun _ => True) (put f.xm fun l => a l * bInt .imul f l ty)
      ∧ Writes (.imulh f) .imulh f (fun _ => True) (put false fun l => a l * bInt .imulh f l ty / 2 ^ intWidth ty)
      ∧ Writes (.imad f) .imad f (fun _ => True) (put f.xm fun l => a l * bInt .imad f l ty + c l)
      ∧ Writes (.lea f) .lea f (fun _ => True) fun l =>
          l.setPair f.d.toNat (BitVec.ofInt 64 ((l.regPair f.a.toNat).toNat + intOf ty (bRaw .lea f l false) * 2 ^ f.c.toNat)))
  ∧ (∀ f : Form,
      let ty := f.ty.toNat
      Writes (.idiv f) .idiv f (fun l => bInt .idiv f l ty ≠ 0)
          (fun l => l.wr ty f.d.toNat (intDeliver ty f.xm ((l.opnd ty f.a.toNat).tdiv (bInt .idiv f l ty))))
      ∧ Writes (.irem f) .irem f (fun l => bInt .irem f l ty ≠ 0)
          fun l =>
            let a := l.opnd ty f.a.toNat
            let b := bInt .irem f l ty
            l.wr ty f.d.toNat (intDeliver ty false (a - b * a.tdiv b)))

/-- Logic, shifts, counts and bit fields (09 R194 to R197). The width n is 64 for codes 2 and 3, else 32; the count of a shift is the
low 5 or 6 bits of operand B. -/
def Obligations.LogicResults : Prop :=
  ∀ f : Form,
    let w := Form.wide f
    let n := Form.n f
    let a (l : Lane) : Nat := l.raw w f.a.toNat
    let b (o : Op) (l : Lane) : Nat := bRaw o f l w
    let sh (o : Op) (l : Lane) : Nat := bRaw o f l false % n
    let put (x : Lane → Nat) (l : Lane) : Lane := l.setRaw w f.d.toNat (x l)
    let put32 (x : Lane → Nat) (l : Lane) : Lane := l.setReg f.d.toNat (BitVec.ofNat 32 (x l))
    let always : Lane → Prop := fun _ => True
    Writes (.andOp f) .andOp f always (put fun l => (a l &&& b .andOp l) % 2 ^ n)
    ∧ Writes (.orOp f) .orOp f always (put fun l => (a l ||| b .orOp l) % 2 ^ n)
    ∧ Writes (.xorOp f) .xorOp f always (put fun l => (a l ^^^ b .xorOp l) % 2 ^ n)
    ∧ Writes (.andn f) .andn f always (put fun l => (a l &&& (2 ^ n - 1 - b .andn l % 2 ^ n)) % 2 ^ n)
    ∧ Writes (.notOp f) .notOp f always (put fun l => 2 ^ n - 1 - a l % 2 ^ n)
    ∧ Writes (.shl f) .shl f always (put fun l => a l * 2 ^ sh .shl l % 2 ^ n)
    ∧ Writes (.shr f) .shr f always (put fun l => a l % 2 ^ n / 2 ^ sh .shr l)
    ∧ Writes (.sar f) .sar f always (put fun l => truncInt (sextNat (a l) n / 2 ^ sh .sar l) n)
    ∧ Writes (.rotl f) .rotl f always (put fun l => (a l * 2 ^ sh .rotl l ||| a l / 2 ^ (n - sh .rotl l)) % 2 ^ n)
    ∧ Writes (.popc f) .popc f always (put32 fun l => ((List.range n).filter fun k => (a l).testBit k).length)
    ∧ Writes (.clz f) .clz f always (put32 fun l => if a l = 0 then n else n - 1 - (a l).log2)
    ∧ Writes (.ctz f) .ctz f always (put32 fun l => (((List.range n).find? fun k => (a l).testBit k).getD n))
    ∧ Writes (.brev f) .brev f always
        (put fun l => ((List.range n).map fun k => if (a l).testBit k then 2 ^ (n - 1 - k) else 0).sum)
    ∧ Writes (.bfx f) .bfx f always
        (fun l =>
          let ty := f.ty.toNat
          let pos := bRaw .bfx f l false % 256
          let len := bRaw .bfx f l false / 256 % 256
          let x := intOf ty (a l) / 2 ^ pos % 2 ^ len
          let y : Int := if intSigned ty = true ∧ 0 < len then sextNat x.toNat len else x
          l.wr ty f.d.toNat (intOf ty (truncInt y n)))
    ∧ Writes (.bfi f) .bfi f always
        (put fun l =>
          let pos := bRaw .bfi f l false % 256
          let len := bRaw .bfi f l false / 256 % 256
          let m := (2 ^ len - 1) * 2 ^ pos % 2 ^ n
          (a l &&& (2 ^ n - 1 - m)) ||| (l.raw w f.c.toNat * 2 ^ pos &&& m))

/-- Moves, selection and predicates (09 R198 to R203).
It rests on choices of the model, which no rule states: log 12, 19. -/
def Obligations.MoveResults : Prop :=
  ∀ f : Form,
    let w := Form.wide f
    let n := Form.n f
    let always : Lane → Prop := fun _ => True
    Writes (.mov f) .mov f always (fun l => l.setRaw w f.d.toNat (bRaw .mov f l w % 2 ^ n))
    ∧ Writes (.movl f) .movl f always
        (fun l => if w then l.setPair f.d.toNat (f.lit.getD 0) else l.setReg f.d.toNat ((f.lit.getD 0).setWidth 32))
    ∧ Writes (.sel f) .sel f always
        (fun l => l.setRaw w f.d.toNat (if l.pred f.c.toNat then l.raw w f.a.toNat else bRaw .sel f l w))
    ∧ Writes (.movFromK f) .movFromK f always
        (fun l => l.setPair f.d.toNat (if f.a = 8 then BitVec.ofNat 64 l.sp else l.kreg f.a.toNat))
    ∧ Writes (.movToK f) .movToK f always (fun l => l.setK f.d.toNat (BitVec.ofNat 64 (bRaw .movToK f l true)))
    ∧ Writes (.pset f) .pset f always
        (fun l => { l with p := ((l.reg f.a.toNat).setWidth 8 &&& f.w2.setWidth 8) ||| (l.p &&& ~~~f.w2.setWidth 8) })
    ∧ Writes (.psetGet f) .psetGet f always (fun l => l.setReg f.d.toNat (l.p.setWidth 32))

/-- ICMP writes predicate P by condition COND, which its D field holds, and PLOP by its table (09 R201, R203).

PAIR: both halves take their operands before either result is written (08 R177).
It rests on choices of the model, which no rule states: log 12, 19. -/
def Obligations.PredicateAndPairResults : Prop :=
  (∀ f : Form,
      let ty := f.ty.toNat
      let cond := f.d.toNat / 8
      let always : Lane → Prop := fun _ => True
      let cmp (a b : Int) : Bool :=
        if cond = 0 then a = b else if cond = 1 then a ≠ b else if cond = 2 then a < b else if cond = 3 then a ≥ b
        else if cond = 4 then a ≤ b else if cond = 5 then a > b
        else if cond = 6 then truncInt a (intWidth ty) &&& truncInt b (intWidth ty) = 0
        else truncInt a (intWidth ty) &&& truncInt b (intWidth ty) ≠ 0
      Writes (.icmp f) .icmp f always (fun l => l.setPred (f.d.toNat % 8) (cmp (l.opnd ty f.a.toNat) (bInt .icmp f l ty)))
      ∧ ∀ m, f.bSrc .plop = .reg m →
          Writes (.plop f) .plop f always
            fun l => l.setPred f.d.toNat (f.w2.getLsbD (2 * (l.pred f.a.toNat).toNat + (l.pred m).toNat)))
  ∧ (∀ (s : State) (i : Issue) (c : Cohort) (f : PairForm), CanIssue s i c f.guard f.use →
      ∃ t, exec (.pair f) s = .next t ∧ RegsDone s t i c f.guard f.use fun _ l =>
        let b (h : Half) (imm : BitVec 8) : W32 := if h.bi then imm.signExtend 32 else l.reg h.b.toNat
        let x := pairOp f.x.op.toNat (l.reg f.x.a.toNat) (b f.x f.immX)
        let y := pairOp f.y.op.toNat (l.reg f.y.a.toNat) (b f.y f.immY)
        (l.setReg f.x.d.toNat x).setReg f.y.d.toNat y)

/-- SREAD of each register (04 R77, R88; 09 R204; 17 R356). No flags of the lanes are still to accrue when it reads `$fflags`.
It rests on choices of the model, which no rule states: log 21. -/
def Obligations.SpecialRegisterReads : Prop :=
  ∀ (s : State) (i : Issue) (c : Cohort) (f : Form), CanIssue s i c f.guard (f.use .sread) →
    (f.a = 6 → ∀ n ∈ s.executing i f.guard, s.flagsPending (i.lane n) = false) →
    ∃ t, exec (.sread f) s = .next t ∧ RegsDone s t i c f.guard (f.use .sread) fun n l =>
      let put32 (x : Nat) : Lane := l.setReg f.d.toNat (BitVec.ofNat 32 x)
      let put64 (x : Nat) : Lane := l.setPair f.d.toNat (BitVec.ofNat 64 x)
      let d := s.die i.key.die
      if f.a = 0 then put32 n
      else if f.a = 1 then put32 64
      else if f.a = 2 then put32 c.role
      else if f.a = 3 then put32 c.member
      else if f.a = 4 then put32 c.gang
      else if f.a = 5 then put32 i.prio.toNat
      else if f.a = 6 then put32 l.fflags.toNat
      else if f.a = 7 then put32 l.frm.toNat
      else if f.a = 8 then put32 l.fenable.toNat
      else if f.a = 9 then put32 l.wic.toNat
      else if f.a = 10 then put64 s.tick
      else if f.a = 11 then put64 d.cyc.toNat
      else if f.a = 12 then put64 (d.ncyc.toNat / 65536)
      else if f.a = 16 then put64 l.trap.tvec.toNat
      else if f.a = 17 then put64 l.trap.tpc.toNat
      else if f.a = 18 then put32 l.trap.tcause.toNat
      else if f.a = 19 then put64 l.trap.tval.toNat
      else if f.a = 20 then put32 l.trap.tstat.toNat
      else if f.a = 21 then put64 l.trap.tscr.toNat
      else put32 0

/-- SWRITE of each writable register with a value that it can hold (04 R77, R78; 09 R205; 17 R356). -/
def Obligations.SpecialRegisterWrites : Prop :=
  ∀ (s : State) (i : Issue) (c : Cohort) (f : Form), CanIssue s i c f.guard (f.use .swrite) →
    let x32 (l : Lane) : W32 := l.reg f.a.toNat
    let x64 (l : Lane) : W64 := l.regPair f.a.toNat
    let ex := s.executing i f.guard
    let done (g : Lane → Lane) : Prop := ∃ t, exec (.swrite f) s = .next t ∧ RegsDone s t i c f.guard (f.use .swrite) fun _ => g
    (f.d = 6 → (∀ n ∈ ex, s.flagsPending (i.lane n) = false) → (∀ n ∈ ex, x32 (s.laneAt i n) < 32) →
      done fun l => { l with fflags := (x32 l).setWidth 5 })
    ∧ (f.d = 7 → (∀ n ∈ ex, x32 (s.laneAt i n) < 5) → done fun l => { l with frm := (x32 l).setWidth 3 })
    ∧ (f.d = 8 → (∀ n ∈ ex, x32 (s.laneAt i n) < 32) → done fun l => { l with fenable := (x32 l).setWidth 5 })
    ∧ (f.d = 16 → done fun l => { l with trap := { l.trap with tvec := (x64 l).extractLsb' 2 55 ++ (0 : BitVec 2) |>.setWidth 64 } })
    ∧ (f.d = 17 → done fun l => { l with trap := { l.trap with tpc := x64 l } })
    ∧ (f.d = 18 → done fun l => { l with trap := { l.trap with tcause := x32 l } })
    ∧ (f.d = 19 → done fun l => { l with trap := { l.trap with tval := x64 l } })
    ∧ (f.d = 20 → done fun l => { l with trap := { l.trap with tstat := x32 l &&& 1 } })
    ∧ (f.d = 21 → done fun l => { l with trap := { l.trap with tscr := x64 l } })

/-- REL releases registers A to A + count − 1 of the executing lanes: each reads 0 and is not live, and no result pending for it will
land in it (09 R206, 04 R80). No instruction of the core is tagged for sampling.
It rests on choices of the model, which no rule states: log 46. -/
def Obligations.ReleaseResults : Prop :=
  ∀ (s : State) (i : Issue) (c : Cohort) (f : Form), CanIssue s i c f.guard (f.use .rel) →
    (s.core i.key.die i.key.core).sample = none →
    ∃ t g, exec (.rel f) s = .next t ∧ RegsDone s t i c f.guard (f.use .rel) (fun _ => g)
      ∧ ∀ l n, (l.v.map fun x => x.1).Pairwise (· < ·) →
        let inRun := f.a.toNat ≤ n ∧ n < f.a.toNat + (f.w2.toNat % 128 + 1)
        (inRun → (g l).live n = false ∧ (g l).reg n = 0 ∧ (g l).pending n = false)
        ∧ (¬ inRun → (g l).live n = l.live n ∧ (g l).reg n = l.reg n ∧ (g l).pending n = l.pending n)

/-! Floating point and special functions. -/

/-- Floating results with their flags, in lanes where no exception that the result raises is enabled (10 R218, R219; 05 R99): the
flags accrue and the bits are written. The bits and flags are those of the format's operation, element by element.
It rests on choices of the model, which no rule states: log 12, 36, 157, 158. -/
def Obligations.FloatResults : Prop :=
  ∀ f : Form,
    let ty := f.ty.toNat
    let t := fmtOf ty
    let a (l : Lane) : Nat := l.fopnd ty f.a.toNat
    let b (o : Op) (l : Lane) : Nat := fopndB o f l ty
    let c (l : Lane) : Nat := l.fopnd ty f.c.toNat
    let m (l : Lane) : Nat := Form.mode f l
    let yields (x : Instr) (o : Op) (r : Lane → FRes) : Prop :=
      Writes x o f (fun l => (r l).2 &&& l.fenable = 0)
        fun l => { l with fflags := l.fflags ||| (r l).2 }.fwr ty f.d.toNat (r l).1
    yields (.fadd f) .fadd (fun l => packedMap2 ty (fadd t (m l)) (a l) (b .fadd l))
    ∧ yields (.fsub f) .fsub (fun l => packedMap2 ty (fsub t (m l)) (a l) (b .fsub l))
    ∧ yields (.fmul f) .fmul (fun l => packedMap2 ty (fmul t (m l)) (a l) (b .fmul l))
    ∧ yields (.ffma f) .ffma (fun l => packedMap3 ty (ffma t (m l) false false) (a l) (b .ffma l) (c l))
    ∧ yields (.ffms f) .ffms (fun l => packedMap3 ty (ffma t (m l) false true) (a l) (b .ffms l) (c l))
    ∧ yields (.fnma f) .fnma (fun l => packedMap3 ty (ffma t (m l) true false) (a l) (b .fnma l) (c l))
    ∧ yields (.fdiv f) .fdiv (fun l => packedMap2 ty (fdiv t (m l)) (a l) (b .fdiv l))
    ∧ yields (.fsqrt f) .fsqrt (fun l => packedMap ty (fsqrt t (m l)) (a l))
    ∧ yields (.frem f) .frem (fun l => packedMap2 ty (frem t) (a l) (b .frem l))
    ∧ yields (.fmin f) .fmin (fun l => packedMap2 ty (fminmax t false true) (a l) (b .fmin l))
    ∧ yields (.fmax f) .fmax (fun l => packedMap2 ty (fminmax t true true) (a l) (b .fmax l))
    ∧ yields (.fminm f) .fminm (fun l => packedMap2 ty (fminmax t false false) (a l) (b .fminm l))
    ∧ yields (.fmaxm f) .fmaxm (fun l => packedMap2 ty (fminmax t true false) (a l) (b .fmaxm l))
    ∧ yields (.frnd f) .frnd (fun l => packedMap ty (frnd t (m l) f.xm) (a l))
    ∧ yields (.fscale f) .fscale (fun l => fscale t (m l) (a l) (sextNat (bRaw .fscale f l false) 32))
    ∧ yields (.flogb f) .flogb (fun l => packedMap ty (flogb t) (a l))
    ∧ yields (.fdot2 f) .fdot2
        (fun l => fdot2 t (m l) (l.reg f.a.toNat).toNat (bRaw .fdot2 f l false) (l.reg f.c.toNat).toNat)

/-- FABS, FNEG and FCPYS act on the sign bit of each element only and raise nothing (10 R226). -/
def Obligations.SignResults : Prop :=
  ∀ f : Form,
    let ty := f.ty.toNat
    let sign : Nat := if ty = 6 ∨ ty = 7 then 0x80008000 else 2 ^ ((fmtOf ty).width - 1)
    let a (l : Lane) : Nat := l.fopnd ty f.a.toNat
    let put (x : Lane → Nat) (l : Lane) : Lane := l.fwr ty f.d.toNat (x l)
    let always : Lane → Prop := fun _ => True
    Writes (.fabs f) .fabs f always (put fun l => a l - (a l &&& sign))
    ∧ Writes (.fneg f) .fneg f always (put fun l => a l ^^^ sign)
    ∧ Writes (.fcpys f) .fcpys f always (put fun l => (a l - (a l &&& sign)) + (fopndB .fcpys f l ty &&& sign))

/-- FCMP by its table and FCLASS by its class bits (10 R227, R228). -/
def Obligations.CompareResults : Prop :=
  ∀ f : Form,
    let ty := f.ty.toNat
    let t := fmtOf ty
    let cond := f.d.toNat / 8
    let x (l : Lane) : FVal := fvalue t (l.fopnd ty f.a.toNat)
    let y (l : Lane) : FVal := fvalue t (fopndB .fcmp f l ty)
    let un (l : Lane) : Bool := (x l).isNan || (y l).isNan
    let nv (l : Lane) : BitVec 5 := if (x l).isSnan ∨ (y l).isSnan ∨ (f.xm = true ∧ un l = true) then flagNV else 0
    let order (l : Lane) : Int := fcompare (x l) (y l)
    let r (l : Lane) : Bool :=
      if cond = 0 then !un l && decide (order l = 0) else if cond = 1 then un l || decide (order l ≠ 0)
      else if cond = 2 then !un l && decide (order l < 0) else if cond = 3 then !un l && decide (0 ≤ order l)
      else if cond = 4 then !un l && decide (order l ≤ 0) else if cond = 5 then !un l && decide (0 < order l)
      else if cond = 6 then un l else !un l
    Writes (.fcmp f) .fcmp f (fun l => nv l &&& l.fenable = 0)
        (fun l => { l with fflags := l.fflags ||| nv l }.setPred (f.d.toNat % 8) (r l))
    ∧ Writes (.fclass f) .fclass f (fun _ => True) fun l =>
        let bit := match x l with
          | .inf neg => if neg then 0 else 7
          | .nan signalling => if signalling then 8 else 9
          | .zero neg => if neg then 3 else 4
          | .fin neg m e => if e + bitLen m - 1 < 1 - (t.bias : Int) then (if neg then 2 else 5) else (if neg then 1 else 6)
        l.setReg f.d.toNat (BitVec.ofNat 32 (2 ^ bit))

/-- FCVT from a float to an integer, from an integer to a float, and from a float to a float (10 R230).
It rests on choices of the model, which no rule states: log 12, 158, 159. -/
def Obligations.ConversionResults : Prop :=
  ∀ f : Form,
    let ty := f.ty.toNat
    let src := f.c.toNat % 8
    let m (l : Lane) : Nat := Form.mode f l
    let toInt (l : Lane) : Int × BitVec 5 := cvtFI (fmtOf src) (m l) (intWidth ty) (intSigned ty) (l.fopnd src f.a.toNat)
    let fromInt (l : Lane) : FRes := cvtIF (fmtOf ty) (m l) (l.opnd src f.a.toNat)
    let toFloat (l : Lane) : FRes := cvtFF (fmtOf ty) (fmtOf src) (m l) (l.fopnd src f.a.toNat)
    let accrue (l : Lane) (x : BitVec 5) : Lane := { l with fflags := l.fflags ||| x }
    (f.c.getLsbD 4 = true → Writes (.fcvt f) .fcvt f (fun l => (toInt l).2 &&& l.fenable = 0)
      fun l => (accrue l (toInt l).2).wr ty f.d.toNat (toInt l).1)
    ∧ (f.c.getLsbD 4 = false → f.c.getLsbD 3 = true → Writes (.fcvt f) .fcvt f (fun l => (fromInt l).2 &&& l.fenable = 0)
      fun l => (accrue l (fromInt l).2).fwr ty f.d.toNat (fromInt l).1)
    ∧ (f.c.getLsbD 4 = false → f.c.getLsbD 3 = false → Writes (.fcvt f) .fcvt f (fun l => (toFloat l).2 &&& l.fenable = 0)
      fun l => (accrue l (toFloat l).2).fwr ty f.d.toNat (toFloat l).1)

/-- Rounding to nearest even (05 R94): the multiple of 2^q that `roundAt` answers is nearest to m × 2^e, and even when two are
equally near; it says so when it differs. -/
def Obligations.NearestEven : Prop :=
  ∀ (neg : Bool) (m : Nat) (e q : Int), e < q →
    let r := roundAt 0 neg m e q
    let unit := 2 ^ (q - e).toNat
    (∀ n : Nat, ((r.1 * unit : Int) - m).natAbs ≤ ((n * unit : Int) - m).natAbs)
    ∧ (2 * ((r.1 * unit : Int) - m).natAbs = unit → r.1 % 2 = 0)
    ∧ (r.2 = true ↔ (r.1 * unit : Int) ≠ m)

/-- A special function issues (10 R232, R234): with room in the core's result queue and no trap enabled, each executing lane's
destination is pending, and its correctly rounded result with its flags stands in the queue.
It rests on choices of the model, which no rule states: log 5, 19. -/
def Obligations.SpecialFunctionIssue : Prop :=
  ∀ (s : State) (i : Issue) (c : Cohort) (f : Form) (x : Instr) (o : Op) (fn : Nat),
    (x, o, fn) ∈ [(.rcp f, .rcp, 0), (.rsq f, .rsq, 1), (.ex2 f, .ex2, 2), (.lg2 f, .lg2, 3), (.sin f, .sin, 4), (.cos f, .cos, 5),
      (.tanh f, .tanh, 6)] →
    CanIssue s i c f.guard (f.use o) → (s.core i.key.die i.key.core).sfuEntries < 32 →
    (∀ n ∈ s.executing i f.guard, (s.laneAt i n).fenable = 0) →
    let r (n : Nat) : FRes := packedMap f.ty.toNat (sfuFun (fmtOf f.ty.toNat) fn) ((s.laneAt i n).fopnd f.ty.toNat f.a.toNat)
    let u := State.modCore { s with nextId := s.nextId + 1 } i.key.die i.key.core fun y =>
      { y with sfu := y.sfu ++ (s.executing i f.guard).map fun n => ⟨i.lane n, s.nextId, BitVec.ofNat 32 (r n).1, (r n).2⟩ }
    ∃ t, exec x s = .next t ∧ MachineDone s u t i c f.guard (f.use o) fun _ l => l.addPend s.nextId f.d.toNat 1 f.la

/-- SFU_RESULT_RETIRE: the oldest entry of the queue retires; its results land and their flags accrue (10 R234).
It rests on choices of the model, which no rule states: log 5. -/
def Obligations.SpecialFunctionRetires : Prop :=
  ∀ (s : State) (d n : Nat) (r : SfuResult) (rest : List SfuResult), (s.core d n).sfu = r :: rest →
    (∀ x ∈ rest, x.id ≠ r.id) →
    ∃ t, exec (.sfuResultRetire d n) s = .next t ∧ (t.core d n).sfu = rest ∧ t.mem = s.mem
      ∧ t.lane? r.key = (s.lane? r.key).map (fun l => { l.land r.id [r.value] with fflags := l.fflags ||| r.flags })
      ∧ ∀ k, k ≠ r.key → t.lane? k = s.lane? k

/-! Cross-lane instructions. -/

/-- A cross-lane instruction whose whole wait set stands in the issuing entry (10 R235 to R237): no lane parks, each contributor
receives what the operation gives it, a member whose guard is false receives nothing, and a lane outside the members passes.
It rests on choices of the model, which no rule states: log 20, 40. -/
def Obligations.CrossLaneRounds : Prop :=
  ∀ (s : State) (i : Issue) (c : Cohort) (f : Form) (x : Instr) (o : Op),
    (x, o) ∈ [(.xshfl f, .xshfl), (.xvote f, .xvote), (.xred f, .xred), (.xminidx f, .xminidx), (.xscan f, .xscan),
      (.xmatch f, .xmatch)] →
    CanIssue s i c f.guard (f.use o) → c.active = true →
    let u := f.use o
    let m := f.lit.getD (BitVec.allOnes 64)
    (∀ n, m.getLsbD n = true → (c.lane? n).isSome = true → i.mask.getLsbD n = true) →
    (∀ n, i.mask.getLsbD n = true → (c.lane? n).isSome = true) →
    (∀ n l k2, c.lane? n = some l → l.status ≠ .parked 6 k2) →
    let arrives (n : Nat) : Arrival :=
      let l := s.laneAt i n
      { op := o, form := f, bytes := i.bytes, word := i.word, guard := true, a := arrivalA o f l, b := l.reg (f.bField o)
        mode := Form.mode f l }
    let members := i.lanes.filter fun n => m.getLsbD n
    let cs := (members.filter fun n => (s.laneAt i n).passes f.guard).map fun n => (n, arrives n)
    let r (n : Nat) : CrossOut := crossResult o f cs n (arrives n)
    (∀ y ∈ cs, (r y.1).flags &&& (s.laneAt i y.1).fenable = 0) →
    ∃ (t : State) (id : Nat → Nat), exec x s = .next t ∧ CoresSame s t
      ∧ t.rest = { s with nextId := s.nextId + members.length, readied := s.readied + members.length }.rest
      ∧ Issued s t i
        (fun n l =>
          let stands (y : Lane) : Lane := { y with
            status := .ready, bks := false, skip := none, parkedCycles := 0, want := [], arrival := none, lastReads := [], keeps := []
            prio := i.prio, pc := i.nextPc c.priv }
          if m.getLsbD n = false then { l.complete u.last with prio := i.prio, pc := i.nextPc c.priv, keeps := [] }
          else if l.passes f.guard = false then stands (l.tickWindows.lastReadAll u.last)
          else
            let y := ((if u.writes = [] then l else l.addPend (id n) (u.writes.headD 0) u.writes.length f.la).tickWindows).lastReadAll u.last
            let z := { y with fflags := y.fflags ||| (r n).flags }
            let w := if u.writes = [] then z else z.land (id n) (r n).words
            stands (match (r n).pred with
              | some b => w.setPred f.d.toNat b
              | none => w))
        fun _ => some (i.prio, i.nextPc c.priv)

/-- What the contributors of a round receive (10 R238, R239, R243). -/
def Obligations.CrossLaneMeanings : Prop :=
  ∀ (f : Form) (cs : List (Nat × Arrival)) (n : Nat) (a : Arrival), (cs.map fun x => x.1).Nodup → (∀ x ∈ cs, x.1 < 64) →
    (f.w2.toNat % 4 = 0 → (crossResult .xvote f cs n a).pred = some (cs.all fun x => x.2.a ≠ 0))
    ∧ (f.w2.toNat % 4 = 1 → (crossResult .xvote f cs n a).pred = some (cs.any fun x => x.2.a ≠ 0))
    ∧ (f.w2.toNat % 4 = 2 → (crossResult .xvote f cs n a).pred
        = some (cs.all fun x => cs.all fun y => decide (x.2.a = 0) = decide (y.2.a = 0)))
    ∧ (f.w2.toNat % 4 = 3 → ∃ v : W64, (crossResult .xvote f cs n a).words = [v.setWidth 32, (v >>> 32).setWidth 32]
        ∧ ∀ j, v.getLsbD j = true ↔ ∃ x ∈ cs, x.1 = j ∧ x.2.a ≠ 0)
    ∧ (∃ v : W64, (crossResult .xmatch f cs n a).words = [v.setWidth 32, (v >>> 32).setWidth 32]
        ∧ ∀ j, v.getLsbD j = true ↔ ∃ x ∈ cs, x.1 = j ∧ x.2.a = a.a)
    ∧ (f.w2.getLsbD 4 = true → f.w2.getLsbD 3 = false → f.w2.toNat % 8 = 3 → ∀ x ∈ cs, x.1 = n ^^^ bits f.w2.toNat 15 8 →
        (crossResult .xshfl f cs n a).words = wideWords (Form.wide f) x.2.a.toNat)

/-! Accesses of the LSU. -/

/-- LD and LDR issue (11 R256): each executing lane's access is under way at its location, and its destination is pending. It acquires when
the form says so, or when it is the first access of a fibre that a POST started (13 R321).
It rests on choices of the model, which no rule states: log 8, 13, 19, 21. -/
def Obligations.LoadIssue : Prop :=
  ∀ (s : State) (i : Issue) (c : Cohort) (f : Form) (x : Instr) (o : Op) (space : Nat) (loc : Nat → Loc),
    (x, o, space) ∈ [(.ld f, .ld, if f.xm then 1 else 0), (.ldr f, .ldr, 2)] →
    CanAccess s i c o f space .load loc →
    let ex := s.executing i f.guard
    let regs := (f.use o).writes
    let id (n : Nat) : Nat := s.nextId + ex.idxOf n
    let acquires (n : Nat) : Bool × Nat := acquireOf f (s.acquiresNext (i.lane n))
    let loads := ex.map fun n => { id := id n, src := i.lane n, pc := i.pc, va := (loc n).va, pa := (loc n).pa, ty := f.ty.toNat
                                   ext := f.c.toNat, first := regs.headD 0, acq := (acquires n).1, scope := (acquires n).2
                                   gang := c.gang, stash := (loc n).stash : Load }
    let u := { s with loads := s.loads ++ loads, nextId := s.nextId + ex.length }
    ∃ t, exec x s = .next t ∧ MachineDone s u t i c f.guard (f.use o) fun n l =>
      { l with acquires := none }.addPend (id n) (regs.headD 0) regs.length f.la

/-- ST, STR and ARED issue (11 R257, R260): each executing lane's write of its data is in flight to its location, numbered in the order
of the lanes, and counts in `$wic` (04 R79). A release first ends a fence of each lane at its scope (07 R146), which changes no memory.
It rests on choices of the model, which no rule states: log 8, 21, 148, 152. -/
def Obligations.StoreIssue : Prop :=
  ∀ (s : State) (i : Issue) (c : Cohort) (f : Form) (x : Instr) (o : Op) (space : Nat) (acc : Acc) (loc : Nat → Loc),
    (x, o, space, acc) ∈ [(.st f, .st, (if f.xm then 1 else 0), .store), (.str f, .str, 2, .store),
      (.ared f, .ared, (if f.xm then 1 else 0), .reduction)] →
    CanAccess s i c o f space acc loc →
    let ex := s.executing i f.guard
    let data (l : Lane) : List Byte :=
      if acc = .reduction then toBytes (l.raw (f.ty = 1) (f.bField o)) (sizeBytes f.ty.toNat)
      else ((runRegs (f.runB o)).flatMap fun n => toBytes (l.reg n).toNat 4).take (sizeBytes f.ty.toNat)
    let s0 := if f.ord.getLsbD 1 then s.fenced i f.rs.toNat [.lsu] ex else s
    ∃ (t : State) (ws : List Write), exec x s = .next t
      ∧ ws.map (fun w => (w.id, w.src, w.path, w.va, w.pa)) =
          ex.map (fun n => (s.nextId + ex.idxOf n, i.lane n, Path.lsu, (loc n).va, (loc n).pa))
      ∧ ws.map (fun w => (w.data, w.red, w.home)) =
          ex.map (fun n => (data (s.laneAt i n), (if acc = .reduction then some (f.c.toNat, f.ty.toNat) else none), false))
      ∧ ws.map (fun w => (w.fibre, w.stash, w.acq)) = ex.map (fun n => (s.fibreOf (i.lane n), (loc n).stash, s.acquiresNext (i.lane n)))
      ∧ FenceOnly s s0
      ∧ MachineDone s { s0 with writes := s0.writes ++ ws, nextId := s.nextId + ex.length } t i c f.guard (f.use o)
          fun n l => { l.countWic with acquires := none, made := s0.madeBy i n }

/-- ATOM and ACAS issue (11 R258, R259): each executing lane's atomic is on its way, its destination is pending, and it counts in
`$wic`. A release first ends a fence of each lane at its scope (07 R146), which changes no memory.
It rests on choices of the model, which no rule states: log 8, 21, 139, 148. -/
def Obligations.AtomicIssue : Prop :=
  ∀ (s : State) (i : Issue) (c : Cohort) (f : Form) (x : Instr) (o : Op) (loc : Nat → Loc),
    (x, o) ∈ [(.atom f, .atom), (.acas f, .acas)] →
    CanAccess s i c o f (if f.xm then 1 else 0) .atomic loc →
    let ex := s.executing i f.guard
    let regs := (f.use o).writes
    let operand (l : Lane) (r : Nat) : W64 := BitVec.ofNat 64 (l.raw (f.ty = 1) r)
    let s0 := if f.ord.getLsbD 1 then s.fenced i f.rs.toNat [.lsu] ex else s
    ∃ (t : State) (xs : List Atomic), exec x s = .next t
      ∧ xs.map (fun a => (a.id, a.src, a.va, a.pa, a.wide)) =
          ex.map (fun n => (s.nextId + ex.idxOf n, i.lane n, (loc n).va, (loc n).pa, decide (f.ty = 1)))
      ∧ xs.map (fun a => (a.b, a.cmp)) =
          ex.map (fun n => (operand (s.laneAt i n) (f.bField o), if o = .acas then some (operand (s.laneAt i n) f.c.toNat) else none))
      ∧ (o = .atom → ∀ a ∈ xs, a.op = f.c.toNat)
      ∧ xs.map (fun a => (a.acq, a.scope)) = ex.map (fun n => acquireOf f (s.acquiresNext (i.lane n)))
      ∧ FenceOnly s s0
      ∧ MachineDone s { s0 with atomics := s.atomics ++ xs, nextId := s.nextId + ex.length } t i c f.guard (f.use o)
          fun n l => { l.countWic with acquires := none, made := s0.madeBy i n }.addPend (s.nextId + ex.idxOf n) (regs.headD 0) regs.length f.la

/-- PREF only advances (11 R262), and a FENCE that has nothing to wait for and no effect pending completes: it changes no register and
no memory (11 R261, 07 R147). -/
def Obligations.FenceCompletes : Prop :=
  ∀ (s : State) (i : Issue) (c : Cohort) (f : Form),
    (CanIssue s i c f.guard (f.use .pref) → ∃ t, exec (.pref f) s = .next t ∧ RegsDone s t i c f.guard (f.use .pref) fun _ l => l)
    ∧ (CanIssue s i c f.guard {} →
        (∀ n ∈ s.executing i f.guard, s.fenceReady (i.lane n) f.rs.toNat (pathsOf f.w2.toNat) = true ∧ (s.laneAt i n).fenceFx = []) →
        let s0 := s.fenced i f.rs.toNat (pathsOf f.w2.toNat) (s.executing i f.guard)
        ∃ t, exec (.fence f) s = .next t ∧ RecordsOnly s0 t ∧ FenceOnly s s0
          ∧ Issued s t i (fun n l => l.after i c f.guard {} fun y => { y with made := s0.madeBy i n })
              (fun _ => some (i.prio, i.nextPc c.priv)))

/-- LOAD_DATA_RETURN of a load that may be performed, at good memory whose home takes it (07 R135, R137; 11 R256): its lane receives what its
observer's view holds, or its own earlier store, and nothing else changes but what it has observed.
It rests on choices of the model, which no rule states: log 3, 8, 28, 31, 32, 54. -/
def Obligations.LoadReturns : Prop :=
  ∀ (s : State) (x : Load), x ∈ s.loads → (∀ y ∈ s.loads, y.id = x.id → y = x) → s.loadDue x = true → s.awake x.src.coh.die = true →
    s.homeAwake x.pa x.src.coh x.stash true = true → s.homeRefuses x.src.coh.die x.gang x.pa = false → s.badAt x.pa x.size = false →
    ∃ (t : State) (bs : List Byte), exec (.loadDataReturn x.src x.id) s = .next t ∧ t.mem = s.mem ∧ t.cores = s.cores
      ∧ t.loads = s.loads.filter (fun y => y.id ≠ x.id)
      ∧ bs.length = x.size
      ∧ (∀ j < x.size, ∀ b, bs[j]? = some b → b = match s.ownStore x.src x.id (x.pa + j) with
          | some w => w.data.getD (x.pa + j - w.pa) 0
          | none => s.view (observerOf x.src.coh) (x.pa + j))
      ∧ (∀ l, s.lane? x.src = some l →
          ∃ obs, t.lane? x.src = some { l.land x.id (loadWords x.ty x.ext (ofBytes bs)) with obs := obs })
      ∧ (∀ k, k ≠ x.src → t.lane? k = s.lane? k)

/-- WRITE_APPLY at the home of a write that may be applied, to memory that is not frozen (07 R135, R136): the home holds its data, or
what the reduction makes of the old value, and every other byte of memory is unchanged. At an observer that
comes before the home, its view holds the data.
It rests on choices of the model, which no rule states: log 8, 28, 31, 32, 93, 141, 148. -/
def Obligations.WritesApply : Prop :=
  ∀ (s : State) (w : Write), s.memOk → (s.views.map fun x => x.1).Nodup → s.write? w.id = some w → s.dirtyGood →
    (∀ lag, s.homeDue w (lagOf w lag) = true → s.writeAwake w (lagOf w lag) = true → s.homeRefuses w.src.coh.die w.gang w.pa = false →
      s.frzCount w.pa = 0 → (w.red.isSome = true → s.badAt w.pa w.size = false) →
      let data := match w.red with
        | none => w.data
        | some (op, ty) => toBytes (atomOp op (ty = 1) (s.homeNat w.pa w.size) (ofBytes w.data)) w.size
      ∃ t, exec (.writeApply w.id (.home lag)) s = .next t ∧ t.cohorts = s.cohorts
        ∧ (∀ j < w.size, Memory.read t.mem (w.pa + j) = data.getD j 0)
        ∧ ∀ a, (a < w.pa ∨ w.pa + w.size ≤ a) → Memory.read t.mem a = Memory.read s.mem a)
    ∧ ∀ o, mayLag w o = true → 0 < w.size → w.pa + w.size ≤ scratchBase → s.observerDue w o = true → observerAwake s o = true →
        w.fenced = none →
        ∃ t, exec (.writeApply w.id (.observer o)) s = .next t ∧ t.cohorts = s.cohorts ∧ t.mem = s.mem
          ∧ (w.home = false → o ≤ Config.hostObserver → t.viewN o w.pa w.size = w.data)

/-- ATOMIC_PERFORM of an atomic that may be performed, at good memory that is not frozen (11 R258, R259): the lane receives the old
value, and the location holds what the operation makes of it; an ACAS stores its operand where the old value is the expected one.
It rests on choices of the model, which no rule states: log 28, 31, 141. -/
def Obligations.AtomicsPerform : Prop :=
  ∀ (s : State) (a : Atomic), s.memOk → a ∈ s.atomics → (∀ y ∈ s.atomics, y.id = a.id → y = a) → s.atomicDue a = true → s.dirtyGood →
    s.awake a.src.coh.die = true → s.homeAwake a.pa a.src.coh a.stash false = true → s.homeRefuses a.src.coh.die a.gang a.pa = false →
    s.badAt a.pa a.size = false → s.frzCount a.pa = 0 →
    let old := s.homeNat a.pa a.size
    let m := 2 ^ (8 * a.size)
    let new := match a.cmp with
      | some c => if old = c.toNat % m then a.b.toNat % m else old
      | none => atomOp a.op a.wide old (a.b.toNat % m)
    ∃ t, exec (.atomicPerform a.id) s = .next t ∧ t.atomics = s.atomics.filter (fun y => y.id ≠ a.id)
      ∧ (∀ j < a.size, Memory.read t.mem (a.pa + j) = (toBytes new a.size).getD j 0)
      ∧ (∀ b, (b < a.pa ∨ a.pa + a.size ≤ b) → Memory.read t.mem b = Memory.read s.mem b)
      ∧ (∀ l, s.lane? a.src = some l → ∃ obs, t.lane? a.src = some { l.land a.id (wordsOf old (if a.wide then 2 else 1)) with obs := obs })
      ∧ (∀ k, k ≠ a.src → t.lane? k = s.lane? k)

/-- SPILL of a register that nothing is pending for, to addresses that translate: the image of the register goes out as writes of the
lowest executing lane (09 R208, 04 R86).

FILL from an image whose header is well formed: each executing lane that the image holds live takes its value, and the register
is not live in the others (09 R209, 04 R87).
It rests on choices of the model, which no rule states: log 12, 21, 148. -/
def Obligations.SpillAndFill : Prop :=
  (∀ (s : State) (i : Issue) (c : Cohort) (f : Form) (lead : Nat) (more : List Nat) (locs : List (Nat × Nat × Loc)),
      let space := if f.xm then 1 else 0
      let ea := memAddr f (s.laneAt i lead)
      let bs := c.image (f.bField .spill)
      CanIssue s i c f.guard (f.use .spill) → s.executing i f.guard = lead :: more →
      (∀ x ∈ c.lanes, x.2.pending (f.bField .spill) = false) →
      s.watchHit i true (if f.xm then (lead :: more).map fun n => (n, ea, bs.length) else []) = .none →
      s.scoreStall i.key space ea.toNat bs.length true = false → ea.toNat % 16 = 0 →
      s.findPieces (i.lane lead) space .store ea.toNat (piecesOf ea.toNat bs.length)
        = (s, locs.map fun x => (x.1, x.2.1, .at x.2.2)) →
      ∃ (t : State) (ws : List Write), exec (.spill f) s = .next t
        ∧ ws.map (fun w => (w.src, w.path, w.pa)) = locs.map (fun x => (i.lane lead, Path.lsu, x.2.2.pa))
        ∧ ws.map (fun w => w.data) = locs.map (fun x => (bs.drop x.1).take x.2.1)
        ∧ MachineDone s { s with writes := s.writes ++ ws, nextId := s.nextId + locs.length } t i c f.guard (f.use .spill)
            fun _ l => { l.countWic with acquires := none })
  ∧ (∀ (s : State) (i : Issue) (c : Cohort) (f : Form) (lead : Nat) (more : List Nat) (head bs : List Byte) (seen seen' : List Nat),
      let space := if f.xm then 1 else 0
      let ea := memAddr f (s.laneAt i lead)
      let fmt := ofBytes (bs.take 1)
      let live := ofBytes ((bs.drop 8).take 8)
      let n := imageSize (ofBytes (head.take 1))
      CanIssue s i c f.guard (f.use .fill) → s.executing i f.guard = lead :: more →
      s.watchHit i false (if f.xm then (lead :: more).map fun m => (m, ea, n) else []) = .none →
      s.scoreStall i.key space ea.toNat n false = false → ea.toNat % 16 = 0 →
      s.readNow (i.lane lead) space ea 16 = (.bytes head seen', s) → s.readNow (i.lane lead) space ea n = (.bytes bs seen, s) →
      fmt ≤ 4 → ofBytes ((bs.drop 1).take 7) = 0 →
      ∃ (t : State) (obs : Nat → List Nat), exec (.fill f) s = .next t ∧ RegsDone s t i c f.guard (f.use .fill) fun m l =>
        { (if live.testBit m then l.setReg f.d.toNat (imageLane fmt bs m) else l.release f.d.toNat) with obs := obs m, acquires := none })

/-! Copies, freezes and completion words. The entry has one executing lane. -/

/-- CPY and CPY2D (11 R263 to R265): aligned, with room for the ticket and in the scoreboards, the copy is in flight and its ticket is
the result.

The copy engine (11 R266): it reads a piece of 16 bytes as its core sees it, writes it on the copy path, whole or in parts, and completes
when all that it wrote is performed.
It rests on choices of the model, which no rule states: log 26, 43, 57, 135, 147. -/
def Obligations.CopiesRun : Prop :=
  (∀ (s : State) (i : Issue) (c : Cohort) (f : Form) (x : Instr) (o : Op) (n : Nat) (loc : Xlt),
      (x, o) ∈ [(.cpy f, .cpy), (.cpy2d f, .cpy2d)] →
      CanIssue s i c f.guard (f.use o) → c.stall = none → s.executing i f.guard = [n] →
      let l := s.laneAt i n
      let a := copyArgs o f l
      (o = .cpy2d → a.shape.ok = true) →
      a.dst.toNat % 16 = 0 → a.src.toNat % 16 = 0 → a.word.toNat % 8 = 0 → s.wordOk (i.lane n) a.word = (.at loc, s) →
      l.tickets.length < 32 → s.rangesFit (s.copyRanges i.key f.ty.toNat s.nextId a) = true →
      let ticket := (s.takeTicket i.key c false).1
      ∃ (t : State) (j : Job), exec x s = .next t ∧ t.jobs = s.jobs ++ [j] ∧ t.mem = s.mem ∧ t.writes = s.writes ∧ t.loads = s.loads
        ∧ (j.id, j.frz, j.complete, j.ticket, j.word) = (s.nextId, false, false, ticket, a.word.toNat)
        ∧ (j.dst, j.src, j.rowBytes, j.count) = (a.dst.toNat, a.src.toNat, a.shape.n, a.shape.r * a.shape.n / 16)
        ∧ (j.todo, j.got) = (List.range j.count, [])
        ∧ Issued s t i
            (fun _ l => l.after i c f.guard (f.use o) fun y => { (y.addPend s.nextId f.d.toNat 2 f.la).land s.nextId (wordsOf ticket 2) with
              tickets := y.tickets ++ [⟨1, a.word.toNat % 2 ^ 57, BitVec.ofNat 64 ticket⟩] })
            fun _ => some (i.prio, i.nextPc c.priv))
  ∧ (∀ (s : State) (j : Job), (s.jobs.find? fun y => y.id = j.id && !y.frz) = some j → s.awake j.key.coh.die = true → j.waiting = false →
      j.complete = false →
      (∀ p loc, j.got = [] → j.todo = [p] → s.jobFind j j.srcSpace (j.srcAt p) .copyRead = (.at loc, s) →
        s.homeAwake loc.pa j.key.coh loc.stash true = true → s.homeRefuses j.key.coh.die j.gang loc.pa = false → s.badAt loc.pa 16 = false →
        ∃ t, exec (.copyComplete j.id) s = .next t ∧ t = s.modJob { j with
          todo := [], got := [(p, s.viewN (observerOf j.key.coh) loc.pa 16)], retry := false })
      ∧ (∀ p data rest loc, j.got = (p, data) :: rest → s.jobFind j j.dstSpace (j.dstAt p) .copyWrite = (.at loc, s) →
        data.length = 16 →
        ∃ t ws, exec (.copyComplete j.id) s = .next t ∧ t.writes = s.writes ++ ws ∧ (ws.flatMap fun w => w.data) = data
          ∧ (∀ w ∈ ws, w.path = .cpy ∧ w.home = false ∧ loc.pa ≤ w.pa ∧ w.pa + w.size ≤ loc.pa + 16
              ∧ w.data = (data.drop (w.pa - loc.pa)).take w.size)
          ∧ t.mem = s.mem ∧ t.cohorts = s.cohorts)
      ∧ (j.got = [] → j.todo = [] → s.copyPerformed j = true →
        ∃ t, exec (.copyComplete j.id) s = .next t ∧ t.jobs = s.jobs.map (fun y => if y.id = j.id then { j with complete := true } else y)
          ∧ t.writes = s.writes))

/-- Completion words (06 R129; 11 R263, R271, R272): an operation that is complete, whose earlier tickets for the word are
written, and whose word can be, writes its ticket into bits [62:0] of the word; bit 63 stays once set, or is set by an operation that failed in part.

CWAIT, TWAIT, CTEST and FTEST with a readable word (11 R267): where bits [62:0] have reached the ticket, CWAIT (of a word whose bit
63 is clear) and TWAIT go on and CTEST and FTEST set the predicate; else the waits park and the tests clear it.
It rests on choices of the model, which no rule states: log 58, 131. -/
def Obligations.CompletionWordsAndWaits : Prop :=
  (∀ (s : State) (j : Job) (x : Instr) (loc : Xlt), s.memOk →
      (s.jobs.filter fun y => y.id = j.id) = [j] → j.complete = true → j.waiting = false →
      x = (if j.frz = false then .copyComplete j.id else if j.thaw then .thawCollectComplete j.id else .freezeComplete j.id) →
      s.awake j.key.coh.die = true → (j.thaw = true → j.granules.all s.granuleAwake = true ∧ s.noOutside) → s.dirtyGood →
      s.wordTurn j = true → s.wordFollows j = true → s.reach j.key.coh.die noCore j.priv (BitVec.ofNat 64 j.word) .atomic = (.at loc, s) →
      s.homeAwake loc.pa j.key.coh none false = true → s.collecting loc.pa = false → s.frzCount loc.pa = 0 →
      s.homeRefuses j.key.coh.die j.gang loc.pa = false →
      let old := s.homeNat loc.pa 8
      let bit63 := j.bad || old.testBit 63
      ∃ t, exec x s = .next t ∧ t.homeNat loc.pa 8 = j.ticket % 2 ^ 63 + (if bit63 then 2 ^ 63 else 0)
        ∧ t.jobs = s.jobs.filter (fun y => y.id ≠ j.id)
        ∧ ∀ a, (a < loc.pa ∨ loc.pa + 8 ≤ a) → Memory.read t.mem a = Memory.read s.mem a)
  ∧ (∀ (s : State) (i : Issue) (c : Cohort) (f : Form) (n : Nat) (bs : List Byte) (seen : List Nat),
      let l := s.laneAt i n
      let va := l.regPair f.a.toNat
      let word := ofBytes bs
      let ready (o : Op) : Prop :=
        CanIssue s i c f.guard (f.use o) ∧ s.executing i f.guard = [n] ∧ va.toNat % 8 = 0
        ∧ s.readNow (i.lane n) 1 va 8 = (.bytes bs seen, s) ∧ s.watchHit i false [(n, va, 8)] = .none
        ∧ (∀ y ∈ s.loads, y.src ≠ i.lane n) ∧ (∀ y ∈ s.atomics, y.src ≠ i.lane n) ∧ (∀ y ∈ s.qwaits, y.key ≠ i.lane n)
        ∧ (∀ w ∈ s.writes, s.ownWrite (i.lane n) .lsu w = true → w.red = none)
      let done (o : Op) : Prop := (l.regPair (f.bField o)).toNat ≤ word % 2 ^ 63
      let goesOn (x : Instr) (o : Op) (set : Lane → Lane) : Prop :=
        ∃ (t : State) (obs : List Nat), exec x s = .next t ∧ RegsDone s t i c f.guard (f.use o) fun _ y => { set y with obs := obs, acquires := none }
      let parks (x : Instr) (block : Nat) : Prop :=
        ∃ (t : State) (y : Lane), exec x s = .next t ∧ t.lane? (i.lane n) = some y ∧ y.status = .parked block va ∧ y.pc = i.pc
          ∧ t.pair? (i.lane n) = none ∧ t.rest = s.rest
      (s.lane? (i.lane n)).isSome = true →
      (ready .cwait → done .cwait → word.testBit 63 = false → goesOn (.cwait f) .cwait fun y => y)
      ∧ (ready .cwait → ¬ done .cwait → parks (.cwait f) 3)
      ∧ (ready .twait → done .twait → goesOn (.twait f) .twait fun y => y)
      ∧ (ready .twait → ¬ done .twait → parks (.twait f) 4)
      ∧ (ready .ctest → goesOn (.ctest f) .ctest fun y => y.setPred f.d.toNat (decide ((l.regPair (f.bField .ctest)).toNat ≤ word % 2 ^ 63)))
      ∧ (ready .ftest → goesOn (.ftest f) .ftest fun y => y.setPred f.d.toNat (decide ((l.regPair (f.bField .ftest)).toNat ≤ word % 2 ^ 63))))

/-! Scratch pages. -/

/-- PIN and UNPIN of the pages that they name, SWB, UNSTASH and STASH of a page (11 R268 to R270; 06 R123, R125). Each acts once, for the
lowest executing lane.

Engine steps on a scratch page (06 R123, R125): a sector of a stash page is filled with the permissions that its translation
finds; a recalled sector is not present any more; an unpinned page gives up its physical page; a sector of a page that came back is present
again.
It rests on choices of the model, which no rule states: log 72, 90. -/
def Obligations.ScratchPages : Prop :=
  (∀ (s : State) (i : Issue) (c : Cohort) (f : Form) (n : Nat) (more : List Nat), s.memOk → s.executing i f.guard = n :: more →
      let va := ((s.laneAt i n).reg f.a.toNat).toNat
      let g := (s.laneAt i n).regPair (f.bField .stash)
      let zero (t : State) (p : ScratchPage) : Prop :=
        (∀ off < 16384, Memory.read t.mem (scratchLoc p.id off) = 0)
        ∧ ∀ a, (a < scratchLoc p.id 0 ∨ scratchLoc p.id 16384 ≤ a) → Memory.read t.mem a = Memory.read s.mem a
      let page (t : State) (q : ScratchPage) : Prop := q ∈ (t.core i.key.die i.key.core).pages
      let here := (i.key.die, i.key.core)
      let own (o : Op) (backs : List Nat) (t : State) : Prop :=
        Issued s t i (fun m l => l.after i c f.guard (f.use o) fun y => if m = n then { y with backs := backs } else y)
          fun _ => some (i.prio, i.nextPc c.priv)
      let good (p : ScratchPage) : Prop :=
        s.homesAwake here p = true ∧ (∀ w ∈ s.stashWrites here p, w.home = true) ∧ s.dirtyBad p = none
      (∀ ps, CanIssue s i c f.guard (f.use .pin) → s.pagesFrom i c va (f.w2.toNat % 64 + 1) = some ps →
        ∃ t, exec (.pin f) s = .next t ∧ MachineDone s
          (foldState (fun (u : State) p => u.modPage i.key.die i.key.core p.id fun q => { q.touchPhysical with pinned := true }) ps s)
          t i c f.guard (f.use .pin) fun _ l => l)
      ∧ (∀ ps, CanIssue s i c f.guard (f.use .unpin) → s.pagesFrom i c va (f.w2.toNat % 64 + 1) = some ps →
        ∃ t, exec (.unpin f) s = .next t ∧ MachineDone s
          (foldState (fun (u : State) p => u.modPage i.key.die i.key.core p.id fun q => { q with pinned := false }) ps s)
          t i c f.guard (f.use .unpin) fun _ l => l)
      ∧ (∀ p, CanIssue s i c f.guard (f.use .swb) → s.pageFor i c va = some p → p.stash.isSome = true → good p →
        ∃ t backs, exec (.swb f) s = .next t ∧ own .swb backs t ∧ t.mem = s.mem
          ∧ page t { p with sectors := p.sectors.map fun y => { y with dirty := false } })
      ∧ (∀ p, CanIssue s i c f.guard (f.use .unstash) → s.pageFor i c va = some p → p.stash.isSome = true → good p →
        ∃ t backs, exec (.unstash f) s = .next t ∧ own .unstash backs t ∧ zero t p
          ∧ page t { p with stash := none, sectors := [], dirty := [], absent := [] })
      ∧ (∀ p, CanIssue s i c f.guard (f.use .stash) → s.pageFor i c va = some p → p.stash = none → g.toNat % 16384 = 0 →
        s.rangeThaws i.key.die c.priv g.toNat = false →
        ∃ t backs, exec (.stash f) s = .next t ∧ own .stash backs t ∧ zero t p
          ∧ page t { p.touchPhysical with stash := some (g.toNat % 2 ^ 57), sectors := [], dirty := [], absent := [] }))
  ∧ (∀ (s : State) (d n : Nat) (p : ScratchPage), s.findPage p.id = some ((d, n), p) → s.awake d = true →
      let goesTo (x : Instr) (q : ScratchPage) : Prop := ∃ t, exec x s = .next t ∧ t = s.modPage d n p.id fun _ => q
      (∀ g sec loc, p.stash = some g → sec < 128 → p.physical = true → p.absent = [] → (∀ y ∈ p.sectors, y.idx ≠ sec) →
        s.reach d n p.priv (p.globalAt (128 * sec)) .stashFill = (.at loc, s) →
        goesTo (.stashFill p.id sec)
          { p with sectors := ⟨sec, loc.pa, p.priv || pteW loc.pte, decide (s.frzCount loc.pa ≠ 0), false⟩ :: p.sectors })
      ∧ (∀ x ∈ p.sectors, (∀ y ∈ p.sectors, y.idx = x.idx → y = x) → s.homesAwake (d, n) p = true → s.dirtyGood →
        (∀ w ∈ s.writes, w.stash = some (d, n) → w.home = false → overlap w.pa w.size x.pa 128 = false) →
        ∃ t, exec (.stashRecall p.id x.idx) s = .next t ∧ t.mem = s.mem ∧ t.cohorts = s.cohorts
          ∧ (∀ k, k ≠ (d, n) → t.core k.1 k.2 = s.core k.1 k.2)
          ∧ (t.core d n).pages = (s.core d n).pages.map fun q => { q with sectors := q.sectors.filter fun y => y.pa ≠ x.pa })
      ∧ (p.physical = true → p.pinned = false → (s.core d n).covers p = false → s.homesAwake (d, n) p = true →
        (∀ w ∈ s.stashWrites (d, n) p, w.home = true) → s.dirtyBad p = none →
        ∃ t, exec (.scratchEvict p.id) s = .next t ∧ t = s.modPage d n p.id fun q =>
          { q with physical := false, sectors := [], dirty := [], absent := [] })
      ∧ ∀ sec, p.physical = true → ∃ t, exec (.scratchRefill p.id sec) s = .next t ∧ t = s.modPage d n p.id fun q =>
          { q with absent := q.absent.filter fun y => y ≠ sec })

/-! Freezes. -/

/-- FREEZE and THAW of a region that translates, by a fibre whose earlier writes are performed (11 R271, R272; 07 R157, R160; 19 R409):
the count of each granule goes up or down by one in its byte of memory, and the ticket is the result. The entry has one executing lane; the
granules' counts have bytes of their own and room in the tables.

A FREEZE completes when the writes made before it are performed at its scope (07 R157); a THAW completes when the collects of its
granules end, and their marks and table entries are gone (07 R160, 19 R392).
It rests on choices of the model, which no rule states: log 68, 71, 135, 138, 140. -/
def Obligations.FreezesAndThaws : Prop :=
  (∀ (s : State) (i : Issue) (c : Cohort) (f : Form) (x : Instr) (o : Op) (thaw : Bool) (n : Nat) (gs : List Nat) (loc : Xlt),
      (x, o, thaw) ∈ [(.freeze f, .freeze, false), (.thaw f, .thaw, true)] →
      CanIssue s i c f.guard (f.use o) → c.stall = none → s.executing i f.guard = [n] → s.memOk → s.dirtyGood →
      let l := s.laneAt i n
      let base := l.regPair f.a.toNat
      let len := (l.regPair (f.bField o)).toNat
      let word := l.regPair f.c.toNat
      let ps : List Path := if thaw then [.lsu] else [.lsu, .frz]
      0 < len → len % 65536 = 0 → len ≤ 2 ^ 40 → base.toNat % 65536 = 0 → word.toNat % 8 = 0 →
      s.granulesOf i.key c base.toNat len = (.ok gs, s) → s.wordOk (i.lane n) word = (.at loc, s) →
      s.fenceReady (i.lane n) f.rs.toNat ps = true → l.fenceFx = [] → l.tickets.length < 32 → gs.Nodup →
      (∀ g ∈ gs, isDevicePa (g * 65536) = true ∧ s.granuleAwake g = true) →
      (∀ g ∈ gs, ∀ h, isDevicePa (h * 65536) = true → s.frzByte (h * 65536) = s.frzByte (g * 65536) → h = g) →
      (thaw = true → ∀ g ∈ gs, 0 < s.frzCount (g * 65536)) →
      (thaw = false → (∀ d, (s.die d).frzTable.length + gs.length ≤ 4096) ∧ ∀ g ∈ gs, s.frzCount (g * 65536) < 255
        ∧ s.collecting (g * 65536) = false ∧ ∀ a ∈ s.atomics, a.pa / 65536 = g → a.taken = false) →
      let ticket := (s.takeTicket i.key c true).1
      ∃ (t : State) (j : Job), exec x s = .next t ∧ t.jobs = s.jobs ++ [j]
        ∧ (j.frz, j.thaw, j.complete, j.ticket, j.word) = (true, thaw, false, ticket, word.toNat)
        ∧ (∀ g ∈ gs, t.frzCount (g * 65536) = if thaw then s.frzCount (g * 65536) - 1 else s.frzCount (g * 65536) + 1)
        ∧ (∀ g, g ∉ gs → t.frzCount (g * 65536) = s.frzCount (g * 65536))
        ∧ (∀ a, (∀ g ∈ gs, a ≠ s.frzByte (g * 65536)) → Memory.read t.mem a = Memory.read s.mem a)
        ∧ Issued s t i
            (fun _ l => l.after i c f.guard (f.use o) fun y => { y.setPair f.d.toNat (BitVec.ofNat 64 ticket) with
              tickets := y.tickets ++ [⟨2, word.toNat % 2 ^ 57, BitVec.ofNat 64 ticket⟩], made := (s.fenced i f.rs.toNat ps [n]).madeBy i n })
            fun _ => some (i.prio, i.nextPc c.priv))
  ∧ (∀ (s : State) (j : Job), (s.jobs.filter fun y => y.id = j.id) = [j] → j.frz = true → j.waiting = false → j.complete = false →
      s.awake j.key.coh.die = true →
      let jobs := s.jobs.map fun y => if y.id = j.id then { j with complete := true } else y
      (j.thaw = false → (∀ w ∈ s.writes, j.before.contains w.id = true → w.performedAt j.scope j.key.coh = true) →
        ∃ t, exec (.freezeComplete j.id) s = .next t ∧ t.jobs = jobs ∧ t.mem = s.mem ∧ t.dies = s.dies)
      ∧ (j.thaw = true → j.granules.all s.granuleAwake = true → s.noOutside → s.dirtyGood →
        ∃ t, exec (.thawCollectComplete j.id) s = .next t ∧ t.jobs = jobs ∧ t.mem = s.mem
          ∧ ∀ g ∈ j.granules, t.collecting (g * 65536) = false))

/-! Control. -/

/-- Where branches, JMPR and PRIO send the executing lanes (09 R210 to R212, R215), and NOP, which changes nothing. -/
def Obligations.BranchTargets : Prop :=
  ∀ (s : State) (i : Issue) (c : Cohort) (f : Form),
    let at_ (disp : Int) : Nat := (((i.pc : Int) + 4 * disp) % 2 ^ 57).toNat
    let pri := BitVec.ofNat 8 (bits f.hi.toNat 20 13)
    let seq := (i.prio, i.nextPc c.priv)
    let goes (x : Instr) (o : Op) (goesTo : Nat → BitVec 8 × Nat) : Prop :=
      CanIssue s i c f.guard (f.use o) → ∃ t, exec x s = .next t ∧ GoesTo s s t i c f.guard (f.use o) (fun _ l => l) goesTo
    let brp (target : Nat) (n : Nat) : BitVec 8 × Nat :=
      if (s.laneAt i n).pred (bits f.hi.toNat 12 10) = !f.hi.getLsbD 9 then (pri, target) else seq
    goes (.bra f) .bra (fun _ => (pri, at_ (sextNat (bits f.hi.toNat 12 0) 13)))
    ∧ goes (.braLong f) .braLong (fun _ => (pri, at_ (sextNat f.w2.toNat 32)))
    ∧ goes (.brp f) .brp (brp (at_ (sextNat (bits f.hi.toNat 8 0) 9)))
    ∧ goes (.brpLong f) .brpLong (brp (at_ (sextNat f.w2.toNat 32)))
    ∧ goes (.prio f) .prio (fun _ => (pri, i.nextPc c.priv))
    ∧ goes (.nop f) .nop (fun _ => seq)
    ∧ decodeTableWord 32 0x7F0 = some (.nop {})
    ∧ ((∀ n ∈ s.executing i f.guard,
          let target := (s.laneAt i n).regPair f.a.toNat
          target.toNat % 4 = 0 ∧ if c.priv then target.toNat < 2 ^ 56 else canonical target = true) →
        goes (.jmpr f) .jmpr fun n =>
          (BitVec.ofNat 8 (bRaw .jmpr f (s.laneAt i n) false),
            ((s.laneAt i n).regPair f.a.toNat).toNat % (if c.priv then 2 ^ 64 else 2 ^ 57)))

/-- CALL, CALLR and RET (09 R213, R214; 03 R53) for one executing lane whose frame-heap action succeeds: a call places a frame that
holds where to return, a return pops it.

What a frame-heap action of a supervisor writes reads back: a frame, and the 16 bytes of a handler (03 R52, R56).
It rests on choices of the model, which no rule states: log 9, 11, 34, 66, 142, 143. -/
def Obligations.CallsAndReturns : Prop :=
  (∀ (s s1 : State) (i : Issue) (c : Cohort) (f : Form) (n : Nat), s.executing i f.guard = [n] → s.heapReady (i.lane n) = true →
      (s.lane? (i.lane n)).isSome = true →
      let l := s.laneAt i n
      let x := s.heapCtx (i.lane n)
      let pri := BitVec.ofNat 8 (bits f.hi.toNat 20 13)
      let at_ : Nat := (((i.pc : Int) + 4 * sextNat f.w2.toNat 32) % 2 ^ 57).toNat
      let target := l.regPair f.a.toNat
      (∀ a, CanIssue s i c f.guard (f.use .call) →
        callFrame x l (16 * bits f.hi.toNat 12 5) (i.nextPc c.priv) i.prio s = .ok (a, s1) →
        ∃ t, exec (.call f) s = .next t ∧ GoesTo s s1 t i c f.guard (f.use .call) (fun _ y => { y with sp := a }) fun _ => (pri, at_))
      ∧ (∀ a, CanIssue s i c f.guard (f.use .callr) → callFrame x l (16 * f.c.toNat) (i.nextPc c.priv) i.prio s = .ok (a, s1) →
        target.toNat % 4 = 0 → (if c.priv then target.toNat < 2 ^ 56 else canonical target = true) →
        ∃ t, exec (.callr f) s = .next t ∧ GoesTo s s1 t i c f.guard (f.use .callr) (fun _ y => { y with sp := a }) fun _ =>
          (BitVec.ofNat 8 (bRaw .callr f l false), target.toNat % (if c.priv then 2 ^ 64 else 2 ^ 57)))
      ∧ (∀ fr s0 head s2, CanIssue s i c f.guard (f.use .ret) → retKind x l.sp s = .ok ((.plain, fr), s0) →
        unlink x l.sp l.chain (walkFuel s) s0 = .ok (head, s2) → popFrame x l.sp s2 = .ok ((), s1) →
        (∀ k ∈ c.lanes, ∀ k2, k.2.status ≠ .parked 6 k2) →
        ∃ t, exec (.ret f) s = .next t ∧ GoesTo s s1 t i c f.guard (f.use .ret) (fun _ y => { y with chain := head, sp := fr.csp }) fun _ =>
          (fr.rprio, fr.rpc)))
  ∧ (∀ (s t : State) (x : HeapCtx) (a : Nat) (f : Frame) (h : Handler), s.memOk → x.priv = true →
      (f.csp < 2 ^ 57 → f.kind < 4 → f.rpc % 4 = 0 → f.rpc < 2 ^ 57 → s.badAt a 16 = false → writeFrame x a f s = .ok ((), t) →
        readFrame x a t = .ok (f, t))
      ∧ (h.prev % 16 = 0 → h.prev < 2 ^ 57 → h.hpc % 4 = 0 → h.hpc < 2 ^ 57 → s.badAt (a + 16) 16 = false →
        writeHandler x a h s = .ok ((), t) → readHandler x a t = .ok (h, t)))

/-! Handlers, continuations and fibres. -/

/-- INSTALL, UNINST, CONTQ and DROP (13 R310, R311, R315, R316) for one executing lane whose frame-heap action succeeds. In a supervisor's
heap, which is physical, INSTALL with room in the segment puts the frame at TOP, which rises by 32, and UNINST takes the top frame off.
It rests on choices of the model, which no rule states: log 34, 73, 143, 154. -/
def Obligations.HandlerInstructions : Prop :=
  ∀ (s s1 : State) (i : Issue) (c : Cohort) (f : Form) (n : Nat), s.executing i f.guard = [n] → s.heapReady (i.lane n) = true →
    (s.lane? (i.lane n)).isSome = true →
    let l := s.laneAt i n
    let x := s.heapCtx (i.lane n)
    let k := l.regPair f.a.toNat
    let hpc : Nat := (((i.pc : Int) + 4 * sextNat f.w2.toNat 32) % 2 ^ 57).toNat
    let seq : Nat → BitVec 8 × Nat := fun _ => (i.prio, i.nextPc c.priv)
    (∀ h, CanIssue s i c f.guard (f.use .install) →
      installFrame x l hpc (BitVec.ofNat 8 (bits f.hi.toNat 20 13)) (BitVec.ofNat 8 (bits f.hi.toNat 12 5)) s = .ok (h, s1) →
      ∃ t, exec (.install f) s = .next t ∧ GoesTo s s1 t i c f.guard (f.use .install) (fun _ y => { y with chain := h }) seq)
    ∧ (∀ prev, CanIssue s i c f.guard (f.use .uninst) → uninstFrame x l s = .ok (some prev, s1) →
      ∃ t, exec (.uninst f) s = .next t ∧ GoesTo s s1 t i c f.guard (f.use .uninst) (fun _ y => { y with chain := prev }) seq)
    ∧ (CanIssue s i c f.guard (f.use .contq) → HeapCtx.within { x with priv := false } s (handleSeg k) = false →
      ∃ t, exec (.contq f) s = .next t ∧ GoesTo s s t i c f.guard (f.use .contq) (fun _ y => y.setReg f.d.toNat 0) seq)
    ∧ (∀ bs seen, CanIssue s i c f.guard (f.use .contq) → HeapCtx.within { x with priv := false } s (handleSeg k) = true →
      s.readNow (i.lane n) 1 (va57 (handleSeg k)) 96 = (.bytes bs seen, s) →
      ∃ t obs, exec (.contq f) s = .next t
        ∧ GoesTo s s t i c f.guard (f.use .contq) (fun _ y => { y.setReg f.d.toNat (contAnswer k bs) with obs := obs }) seq)
    ∧ (∀ v, CanIssue s i c f.guard (f.use .drop) → openCont x k s = .ok (.ok v, s) → v.bad = none → dropHeap x k v s = .ok ((), s1) →
      ∃ t, exec (.drop f) s = .next t ∧ GoesTo s s1 t i c f.guard (f.use .drop) (fun _ y => y) seq)
    ∧ ∀ seg hdr, x.priv = true → s.memOk → seg % 512 = 0 → seg + 512 ≤ s.memTop x.die → (isDevicePa seg = true → s.awake (homeDie seg) = true) →
      s.badAt seg 512 = false → s.collecting seg = false → s.frzCount seg = 0 → (s.frzByte seg < seg ∨ seg + 512 ≤ s.frzByte seg) →
      readHdr x seg s = .ok (hdr, s) → hdr.split = false → l.sp < 2 ^ 57 → l.chain % 16 = 0 → l.chain < 2 ^ 57 →
      (CanIssue s i c f.guard (f.use .install) → segOf l.sp = seg → hdr.top % 16 = 0 → hdr.top + 32 ≤ 512 → i.pc % 4 = 0 →
        let h := seg + hdr.top
        ∃ t y, exec (.install f) s = .next t ∧ t.lane? (i.lane n) = some y ∧ y.chain = h ∧ y.sp = l.sp
          ∧ t.pair? (i.lane n) = some (i.prio, i.nextPc c.priv) ∧ readHdr x seg t = .ok ({ hdr with top := hdr.top + 32 }, t)
          ∧ readFrame x h t = .ok (⟨l.sp, 1, 0, 0⟩, t)
          ∧ readHandler x h t = .ok (⟨l.chain, BitVec.ofNat 8 (bits f.hi.toNat 12 5), hpc, BitVec.ofNat 8 (bits f.hi.toNat 20 13)⟩, t)
          ∧ ∀ a, (a < seg ∨ seg + 32 ≤ a) → (a < h ∨ h + 32 ≤ a) → Memory.read t.mem a = Memory.read s.mem a)
      ∧ (∀ hd, CanIssue s i c f.guard (f.use .uninst) → l.chain ≠ 0 → segOf l.chain = seg → l.chain % 512 ≠ 32 → 32 ≤ l.chain % 512 →
        hdr.top = l.chain % 512 + 32 → readFrame x l.chain s = .ok (⟨l.sp, 1, 0, 0⟩, s) → readHandler x l.chain s = .ok (hd, s) →
        ∃ t y, exec (.uninst f) s = .next t ∧ t.lane? (i.lane n) = some y ∧ y.chain = hd.prev ∧ y.sp = l.sp
          ∧ t.pair? (i.lane n) = some (i.prio, i.nextPc c.priv) ∧ readHdr x seg t = .ok ({ hdr with top := l.chain % 512 }, t)
          ∧ ∀ a, (a < seg ∨ seg + 32 ≤ a) → Memory.read t.mem a = Memory.read s.mem a)

/-- RESUME of a live continuation whose registers are granted (13 R314, 03 R69, R70): the resumer becomes the captured fibre, at its
continuation PC and priority, with the value in `k1`, over a resume frame.

PERFORM by a user fibre whose effect a handler catches (13 R312; 03 R59, R60): the fibre is captured past the instruction, and
stands at the handler with the handle, the tag, its operand and the PC in `k0` to `k4`.
It rests on choices of the model, which no rule states: log 34, 44, 51, 69, 74, 143, 154. -/
def Obligations.CapturesAndResumes : Prop :=
  (∀ (s s1 : State) (i : Issue) (c : Cohort) (f : Form) (n : Nat) (v : ContView) (r : Nat), s.executing i f.guard = [n] →
      CanIssue s i c f.guard (f.use .resume) → s.heapReady (i.lane n) = true → (s.lane? (i.lane n)).isSome = true →
      let l := s.laneAt i n
      let x := s.heapCtx (i.lane n)
      let k := l.regPair f.a.toNat
      let value := BitVec.ofNat 64 (bRaw .resume f l true)
      openCont x k s = .ok (.ok v, s) → v.bad = none → (∀ m ∈ v.regs, m < c.peak) →
      badCont x v s = .ok (none, s) →
      resumeHeap x k v l i.prio (i.nextPc c.priv) s = .ok (r, s1) → s.growOk i.key v.regs = true → (∀ y ∈ v.tickets, y.kind ≠ 4) →
      (∀ y ∈ c.lanes, ∀ k2, y.2.status ≠ .parked 7 k2) →
      ∃ t y, exec (.resume f) s = .next t ∧ t.mem = s1.mem ∧ RecordsOnly s1 t
        ∧ t.lane? (i.lane n) = some y ∧ y = { v.lane l r value with prio := v.desc.prio, pc := v.desc.pc }
        ∧ y.kreg 1 = value ∧ t.pair? (i.lane n) = some (v.desc.prio, v.desc.pc)
        ∧ ∀ m, ¬ i.has m → t.lane? m = s.lane? m ∧ t.pair? m = s.pair? m)
  ∧ (∀ (s s1 : State) (i : Issue) (c : Cohort) (f : Form) (n : Nat) (m : Lane) (handle : W64), s.executing i f.guard = [n] → i.lanes = [n] →
      CanIssue s i c f.guard (f.use .perform) → c.priv = false → c.halted = false → s.heapReady (i.lane n) = true →
      let k := i.lane n
      let l := s.laneAt i n
      let tag := BitVec.ofNat 8 (bits f.hi.toNat 13 6)
      let operand := BitVec.ofNat 64 (bRaw .perform f l true)
      let l1 : Lane := { l.complete [] with prio := i.prio, pc := i.pc, arrival := none, want := [], lastReads := [], keeps := [] }
      let e : Effect := { tag := tag, k2 := operand, k3 := 0, cpc := some (i.nextPc false), xpc := i.pc }
      s.lane? k = some l → tag ≠ 15 → tag ≠ 3 → l.tickets = [] → l.arrival = none → l.status = .ready →
      (∀ y ∈ l.late, y.cls ≠ .own) → (∀ r ∈ (s.core k.coh.die k.coh.core).sfu, r.key ≠ k) → (∀ q ∈ s.qwaits, q.key ≠ k) → (∀ q ∈ s.qreqs, q.key ≠ k) → (∀ op ∈ s.matOps, op.key = k.coh → op.octet ≠ k.lane / 8 ∧ op.owner ≠ k.lane) →
      captureFibre (s.heapCtx k) l1 e (i.nextPc false) s = .ok (some (m, handle), s1) →
      ∃ t y, exec (.perform f) s = .next t ∧ t.mem = s1.mem ∧ t.lane? k = some y ∧ y.status = .ready ∧ y.pc = m.pc ∧ y.sp = m.sp ∧ y.v = []
        ∧ y.k.take 5 = [handle, tag.setWidth 64, operand, 0, BitVec.ofNat 64 i.pc] ∧ t.pair? k = some (m.prio, m.pc)
        ∧ ∀ x, x ≠ k → t.lane? x = s.lane? x)

/-- SPAWN into an empty lane slot, and without one (13 R318): the new fibre stands at the target with priority 0x80, the operand and the
parent's lane; the predicate says whether it was made.

EXIT (13 R319): with nothing under way, the fibre's shares are released and its lane slot is empty. Another lane of the cohort goes
on; with none left, the cohort slot is released (18 R382).
It rests on choices of the model, which no rule states: log 34, 68, 143. -/
def Obligations.FibresStartAndEnd : Prop :=
  (∀ (s s1 : State) (i : Issue) (c : Cohort) (f : Form) (n : Nat), s.executing i f.guard = [n] →
      CanIssue s i c f.guard (f.use .spawn) → s.fenceReady (i.lane n) 0 [.lsu] = true → (s.laneAt i n).fenceFx = [] →
      (s.lane? (i.lane n)).isSome = true → f.d.toNat < 8 →
      let l := s.laneAt i n
      let p := f.d.toNat
      let target : Nat := (((i.pc : Int) + 4 * sextNat f.w2.toNat 32) % 2 ^ 57).toNat
      (∀ m r, c.emptySlot = some m → i.mask.getLsbD m = false → s.pair? ⟨i.key, m⟩ = none → startStack { s.heapCtx (i.lane n) with fibre := s.fibres } (s.rootOf i.key) s = .ok (r, s1) →
        ∃ t y z, exec (.spawn f) s = .next t ∧ t.mem = s1.mem
          ∧ t.lane? ⟨i.key, m⟩ = some y ∧ y.status = .ready ∧ y.k = [l.regPair f.a.toNat, BitVec.ofNat 64 n, 0, 0, 0, 0, 0, 0] ∧ y.v = []
          ∧ (y.sp, y.chain) = r ∧ t.pair? ⟨i.key, m⟩ = some (0x80, target)
          ∧ t.lane? (i.lane n) = some z ∧ z.pred p = true ∧ t.pair? (i.lane n) = some (i.prio, i.nextPc c.priv))
      ∧ (c.emptySlot = none → ∃ t z, exec (.spawn f) s = .next t ∧ t.mem = s.mem
          ∧ t.lane? (i.lane n) = some z ∧ z.pred p = false ∧ t.pair? (i.lane n) = some (i.prio, i.nextPc c.priv)))
  ∧ (∀ (s s1 : State) (i : Issue) (c : Cohort) (f : Form) (n : Nat), s.executing i f.guard = [n] → i.lanes = [n] →
      CanIssue s i c f.guard (f.use .exit) → (s.lane? (i.lane n)).isSome = true →
      s.drainRegs (i.lane n) = (true, s) → s.heapReady (i.lane n) = true → (c.lanes.map fun p => p.1).Pairwise (· < ·) →
      let x := s.heapCtx (i.lane n)
      releaseFrames x (x.sharesOf s (.fibre x.fibre)) s = .ok ((), s1) →
      ((∃ m, m ≠ n ∧ (c.lane? m).isSome = true) → (∀ p ∈ c.lanes, ∀ k2, p.2.status ≠ .parked 6 k2) →
        ∃ t, exec (.exit f) s = .next t ∧ t.mem = s1.mem ∧ t.lane? (i.lane n) = none ∧ t.pair? (i.lane n) = none
          ∧ ∀ m, m ≠ i.lane n → t.lane? m = s.lane? m ∧ t.pair? m = s.pair? m)
      ∧ (c.lanes.length = 1 → ∃ t, exec (.exit f) s = .next t ∧ t.cohort? i.key = none))

/-- POST and POST.CONT to a device address, after the fence that they perform (13 R320): the task record joins the queue of the quad
nearest to the data, or the predicate says that the queue is full.
It rests on choices of the model, which no rule states: log 31, 68, 85. -/
def Obligations.PostAppendsTask : Prop :=
  ∀ (s : State) (i : Issue) (c : Cohort) (f : Form) (x : Instr) (o : Op) (cont : Bool) (lead : Nat) (more : List Nat) (loc : Loc),
    (x, o, cont) ∈ [(.post f, .post, false), (.postCont f, .postCont, true)] →
    CanIssue s i c f.guard (f.use o) → s.executing i f.guard = lead :: more →
    let b := f.bField o
    let l := s.laneAt i lead
    (cont = false → (l.regPair b).toNat % 4 = 0) → s.findGlobal (i.lane lead) .load (l.regPair (b + 2)) = (.at loc, s) →
    isDevicePa loc.pa = true → s.awake (homeDie loc.pa) = true →
    (∀ n ∈ lead :: more, s.fenceReady (i.lane n) 3 [.lsu] = true ∧ (s.laneAt i n).fenceFx = []) →
    let s0 := s.fenced i 3 [.lsu] (lead :: more)
    let d := homeDie loc.pa
    let quad := 6 * (bits loc.pa 15 10 / 32) + bits loc.pa 15 10 % 32 * 6 / 32
    let queue := (s.die d).posted quad
    let record := taskRecord s.tick (l.regPair b) (l.regPair (b + 2)) ((List.range 4).map fun j => l.regPair (b + 4 + 2 * j)) cont c.gang
      i.key.die (s.dcrBits i.key.die offPKGID 11 0)
    let room := decide (queue.length < 256)
    ∃ t, exec x s = .next t ∧ FenceOnly s s0
      ∧ MachineDone s (if room then s0.modDie d fun y => { y with posts := numSet y.posts quad (queue ++ [record]) } else s0) t i c f.guard (f.use o)
          fun n y => { y.setPred f.d.toNat room with made := s0.madeBy i n }

/-- BAR, BARA and BARW on a granted barrier for one executing lane (13 R322 to R326): an arrival counts, and the last one that the
phase expects begins the next phase; BARA gives the token; a wait whose phase is complete goes on.
It rests on choices of the model, which no rule states: log 75, 76. -/
def Obligations.BarrierPhases : Prop :=
  ∀ (s : State) (i : Issue) (c : Cohort) (f : Form) (n : Nat), s.executing i f.guard = [n] → (s.lane? (i.lane n)).isSome = true →
    let l := s.laneAt i n
    let scope := f.rs.toNat
    let id := f.c.toNat
    let b := s.barrier (s.pid i.key.die) c.gang scope (scopeInst scope i.key) id
    let token := tokenOf scope id b.phase
    let expected := f.w2.toNat
    let fenced : Prop := s.fenceReady (i.lane n) scope [.lsu] = true ∧ l.fenceFx = []
    let mine (t : State) : Barrier := t.barrier (s.pid i.key.die) c.gang scope (scopeInst scope i.key) id
    s.granted i.key scope id = true → scope < 4 → b.phase < 2 ^ 23 →
    (CanIssue s i c f.guard (f.use .bara) → fenced → (if b.arrived = 0 then expected else b.exp) = expected → b.arrived + 1 ≠ expected →
      ∃ t made, exec (.bara f) s = .next t ∧ (mine t).arrived = b.arrived + 1 ∧ (mine t).phase = b.phase
        ∧ Issued s t i (fun _ y => y.after i c f.guard (f.use .bara) fun z => { z.setReg f.d.toNat token with made := made })
          fun _ => some (i.prio, i.nextPc c.priv))
    ∧ (CanIssue s i c f.guard (f.use .bar) → fenced → heldToken f l = none → (if b.arrived = 0 then expected else b.exp) = expected →
      b.arrived + 1 ≠ expected →
      ∃ t y, exec (.bar f) s = .next t ∧ (mine t).arrived = b.arrived + 1 ∧ (mine t).phase = b.phase
        ∧ t.lane? (i.lane n) = some y ∧ y.status = .parked 2 (BitVec.ofNat 64 (scope * 256 + id)) ∧ y.pc = i.pc)
    ∧ (CanIssue s i c f.guard (f.use .bar) → fenced → heldToken f l = none → (if b.arrived = 0 then expected else b.exp) = expected →
      b.arrived + 1 = expected →
      ∃ t obs made, exec (.bar f) s = .next t ∧ (mine t).arrived = 0 ∧ (mine t).phase = (b.phase + 1) % 2 ^ 23
        ∧ Issued s t i (fun _ y => y.after i c f.guard (f.use .bar) fun z =>
            { (z.setReg f.d.toNat token).setReg f.d.toNat 0 with obs := obs, made := made })
          fun _ => some (i.prio, i.nextPc c.priv))
    ∧ (∀ w, l.reg f.a.toNat = w → CanIssue s i c f.guard (f.use .barw) → w.getLsbD 31 = true →
      s.granted i.key (bits w.toNat 30 28) (bits w.toNat 27 23) = true → (s.tokenBarrier i.key w.toNat).complete (bits w.toNat 22 0) = true →
      ∃ t obs, exec (.barw f) s = .next t ∧ RegsDone s t i c f.guard (f.use .barw) fun _ y => { y with obs := obs })
    ∧ (∀ w, l.reg f.a.toNat = w → CanIssue s i c f.guard (f.use .barw) → w.getLsbD 31 = false →
      ∃ t, exec (.barw f) s = .next t ∧ RegsDone s t i c f.guard (f.use .barw) fun _ y => y)

/-- LAUNCH, RBIND and SCALL (13 R327 to R329; 17 R364): an aligned record address joins the die's queue of 64, or the predicate says
that it is full; RBIND gives the binding of the group's table; SCALL enters a request in the supervisor's ring.
It rests on choices of the model, which no rule states: log 31, 68. -/
def Obligations.RequestInstructions : Prop :=
  ∀ (s : State) (i : Issue) (c : Cohort) (f : Form) (n : Nat) (more : List Nat), s.memOk → s.executing i f.guard = n :: more →
    let l := s.laneAt i n
    let a := l.regPair f.a.toNat
    let d := i.key.die
    let fenced (scope : Nat) : Prop := ∀ m ∈ n :: more, s.fenceReady (i.lane m) scope [.lsu] = true ∧ (s.laneAt i m).fenceFx = []
    let room := decide ((s.die d).dlq.length < 64)
    (CanIssue s i c f.guard (f.use .launch) → fenced 5 → a.toNat % 64 = 0 →
      let s0 := s.fenced i 5 [.lsu] (n :: more)
      ∃ t, exec (.launch f) s = .next t ∧ FenceOnly s s0
        ∧ MachineDone s (if room then s0.modDie d fun y => { y with dlq := y.dlq ++ [64 * bits a.toNat 56 6] } else s0) t i c f.guard (f.use .launch)
          fun m y => { y.setPred f.d.toNat room with made := s0.madeBy i m })
    ∧ (CanIssue s i c f.guard (f.use .rbind) →
      ∃ t, exec (.rbind f) s = .next t ∧ RegsDone s t i c f.guard (f.use .rbind) fun _ y =>
        let w := (y.reg f.a.toNat).toNat
        y.setReg f.d.toNat (BitVec.ofNat 32 (match s.gangOf i.key with
          | some g => g.binding (bits w 31 30) (bits w 29 24)
          | none => 0)))
    ∧ (CanIssue s i c f.guard (f.use .scall) → more = [] → d < 16 → i.key.core < 64 → i.key.slot < 16 → i.pc < 2 ^ 57 → fenced 2 → a.toNat % 64 = 0 →
      let tail := s.dcrBits d offSRQTAIL 31 0
      let used := (tail + 2 ^ 32 - s.dcrBits d offSRQHEAD 31 0) % 2 ^ 32
      let slot := 16384 * s.dcrBits d offSRQBASE 56 14 + 64 * (tail % 256)
      s.homeAwake slot i.key none false = true → s.frzCount slot = 0 →
      ∃ t made, exec (.scall f) s = .next t
        ∧ Issued s t i (fun _ y => y.after i c f.guard (f.use .scall) fun z => { z.setPred f.d.toNat (decide (used < 256)) with made := made })
          (fun _ => some (i.prio, i.nextPc c.priv))
        ∧ (used < 256 → t.dcrBits d offSRQTAIL 31 0 = (tail + 1) % 2 ^ 32 ∧ bits (t.homeNat slot 64) 447 384 = a.toNat
            ∧ bits (t.homeNat slot 64) 479 448 = bRaw .scall f l false)
        ∧ (256 ≤ used → t.mem = s.mem))

/-! Queues. -/

/-- QPUSH at a good queue by one executing lane (06 R131, 11 R274): with room, the payload and the stamp stand in the entry at TAIL,
which rises by one, and the predicate is set; a full queue clears it and nothing is written.

QPOP and QTRY at a good queue by one executing lane (11 R275, R276): an entry at HEAD is taken, HEAD rises by one, and the
payload is pending for the block; at an empty queue QPOP parks with a request, and QTRY clears its predicate. QPOP_COMPLETE
lands a payload whose producer's writes are applied.
It rests on choices of the model, which no rule states: log 31, 33, 65, 153. -/
def Obligations.QueueOperations : Prop :=
  (∀ (s : State) (i : Issue) (c : Cohort) (f : Form) (n : Nat) (desc entry : Xlt), s.memOk → s.executing i f.guard = [n] →
      CanIssue s i c f.guard (f.use .qpush) →
      let l := s.laneAt i n
      let va := l.regPair f.a.toNat
      let q := s.queueAt desc.pa
      let regs := (List.range 14).flatMap fun j => toBytes (l.reg (f.bField .qpush + j)).toNat 4
      va.toNat % 64 = 0 → s.reachFor (i.lane n) va = (.at desc, s) → s.badAt desc.pa 64 = false →
      queueOk (s.homeNat desc.pa 64) = true → s.queueStall i va (fun y => y.slot y.tail) n = false → s.dirtyGood →
      (q.full = true → ∃ t, exec (.qpush f) s = .next t ∧ RegsDone s t i c f.guard (f.use .qpush) fun _ y => y.setPred f.d.toNat false)
      ∧ (q.full = false → s.queueStuck desc.pa = false → s.reachFor (i.lane n) (va57 (q.slot q.tail)) = (.at entry, s) →
        bit (s.homeNat (entry.pa + 56) 8) 0 = false → s.queueStuck entry.pa = false → (∀ r ∈ s.qreqs, r.desc ≠ desc.pa) →
        (entry.pa + 64 ≤ desc.pa ∨ desc.pa + 64 ≤ entry.pa) →
        ∃ t, exec (.qpush f) s = .next t ∧ t.homeNat entry.pa 56 = ofBytes regs
          ∧ t.homeNat (entry.pa + 56) 8 = stampOf (i.lane n) l.wic (s.pkgOf i.key.die) % 2 ^ 64
          ∧ t.homeNat (desc.pa + 8) 8 = (q.tail + 1) % 2 ^ 64
          ∧ (∀ a, (a < entry.pa ∨ entry.pa + 64 ≤ a) → (a < desc.pa + 8 ∨ desc.pa + 16 ≤ a) → Memory.read t.mem a = Memory.read s.mem a)
          ∧ Issued s t i (fun _ y => y.after i c f.guard (f.use .qpush) fun z => z.setPred f.d.toNat true)
            fun _ => some (i.prio, i.nextPc c.priv)))
  ∧ (∀ (s : State) (i : Issue) (c : Cohort) (f : Form) (n : Nat) (desc entry : Xlt), s.memOk → s.executing i f.guard = [n] →
      (s.lane? (i.lane n)).isSome = true →
      let l := s.laneAt i n
      let va := l.regPair f.a.toNat
      let q := s.queueAt desc.pa
      let good : Prop := va.toNat % 64 = 0 ∧ s.reachFor (i.lane n) va = (.at desc, s) ∧ s.badAt desc.pa 64 = false
        ∧ queueOk (s.homeNat desc.pa 64) = true ∧ s.queueStall i va (fun y => y.slot y.head) n = false ∧ s.dirtyGood
      let takes (x : Instr) (o : Op) (pred : Option Nat) : Prop :=
        ∃ t w, exec x s = .next t ∧ t.qwaits = s.qwaits ++ [w]
          ∧ (w.id, w.key, w.words, w.pred) = (s.nextId, i.lane n, wordsOf (s.homeNat entry.pa 56) 14, pred)
          ∧ t.homeNat (desc.pa + 16) 8 = (q.head + 1) % 2 ^ 64
          ∧ t.homeNat (entry.pa + 56) 8 = s.homeNat (entry.pa + 56) 8 / 2 * 2
          ∧ Issued s t i (fun _ y => y.after i c f.guard (f.use o) fun z => z.addPend s.nextId f.d.toNat 14 f.la)
            fun _ => some (i.prio, i.nextPc c.priv)
      let there : Prop := q.empty = false ∧ s.owedElsewhere (i.lane n) desc.pa = false ∧ s.queueStuck desc.pa = false
        ∧ s.reachFor (i.lane n) (va57 (q.slot q.head)) = (.at entry, s) ∧ s.queueStuck entry.pa = false
        ∧ s.badAt entry.pa 64 = false ∧ (entry.pa + 64 ≤ desc.pa ∨ desc.pa + 64 ≤ entry.pa)
      (CanIssue s i c f.guard (f.use .qpop) → good → there → takes (.qpop f) .qpop none)
      ∧ (CanIssue s i c f.guard (f.use .qtry) → good → there → takes (.qtry f) .qtry (some f.c.toNat))
      ∧ (CanIssue s i c f.guard (f.use .qpop) → good → q.empty = true → (∀ r ∈ s.qreqs, r.key ≠ i.lane n) →
        ∃ t y, exec (.qpop f) s = .next t ∧ t.qreqs = s.qreqs ++ [⟨i.lane n, desc.pa, f.d.toNat⟩] ∧ t.mem = s.mem
          ∧ t.lane? (i.lane n) = some y ∧ y.status = .parked 1 va ∧ y.pc = i.pc ∧ t.pair? (i.lane n) = none)
      ∧ (CanIssue s i c f.guard (f.use .qtry) → good → q.empty = true →
        ∃ t, exec (.qtry f) s = .next t ∧ RegsDone s t i c f.guard (f.use .qtry) fun _ y =>
          (y.setPred f.c.toNat false).lastReadAll ((f.use .qtry).last.filter (f.use .qtry).writes.contains))
      ∧ ∀ w k, (s.qwaits.find? fun y => y.key = k) = some w → s.awake k.coh.die = true → s.qwaitDue w = true →
          ∃ t, exec (.qpopComplete k) s = .next t ∧ t.mem = s.mem ∧ t.qwaits = s.qwaits.filter (fun y => y.id ≠ w.id)
            ∧ ∀ y, s.lane? k = some y → ∃ obs, t.lane? k = some (match w.pred with
                | some p => { (y.land w.id w.words).setPred p true with obs := obs }
                | none => { y.land w.id w.words with obs := obs }))

/-! The matrix unit. -/

/-- TDEF, TQRY, TREL, MWAIT and AMARK (12 R289, R290, R301; 11 R277). -/
def Obligations.TensorTable : Prop :=
  ∀ (s : State) (i : Issue) (c : Cohort) (f : Form) (lead : Nat) (more : List Nat), s.executing i f.guard = lead :: more →
    let seq : Nat → Option (BitVec 8 × Nat) := fun _ => some (i.prio, i.nextPc c.priv)
    let others (t : State) : Prop := ∀ m, m ≠ f.d.toNat → t.tensor i.key c.gang m = s.tensor i.key c.gang m
    (∀ bs seen,
      let ea := memAddr f (s.laneAt i lead)
      let space := if f.xm then 1 else 0
      CanIssue s i c f.guard (f.use .tdef) → s.watchHit i false (if f.xm then (lead :: more).map fun n => (n, ea, 64) else []) = .none →
      s.scoreStall i.key space ea.toNat 64 false = false → ea.toNat % 64 = 0 →
      s.readNow (i.lane lead) space ea 64 = (.bytes bs seen, s) → tensorOk (ofBytes bs) = true →
      ∃ t obs, exec (.tdef f) s = .next t ∧ t.tensor i.key c.gang f.d.toNat = ofBytes bs ∧ others t ∧ t.rest = s.rest
        ∧ Issued s t i (fun n y => y.after i c f.guard (f.use .tdef) fun z => if n = lead then { z with obs := obs, acquires := none } else z) seq)
    ∧ (CanIssue s i c f.guard (f.use .tqry) → ∃ t, exec (.tqry f) s = .next t ∧ RegsDone s t i c f.guard (f.use .tqry) fun _ y =>
        y.setPair f.d.toNat (BitVec.ofNat 64 (s.tensor i.key c.gang f.a.toNat)))
    ∧ (CanIssue s i c f.guard {} → ∃ t, exec (.trel f) s = .next t ∧ t.tensor i.key c.gang f.d.toNat = 0 ∧ others t ∧ t.rest = s.rest
        ∧ Issued s t i (fun _ y => y.after i c f.guard {} fun z => z) seq)
    ∧ (CanIssue s i c f.guard (f.use .mwait) → (∀ n ∈ lead :: more, s.opsOf (i.lane n) = []) →
        ∃ (t : State) (obs : Nat → List Nat), exec (.mwait f) s = .next t ∧ RegsDone s t i c f.guard (f.use .mwait) fun n y => { y with obs := obs n })
    ∧ (CanIssue s i c f.guard (f.use .amark) →
        let payload := ((s.laneAt i lead).reg f.a.toNat).toNat + 2 ^ 32 * (i.pc % 2 ^ 57)
        ∃ t, exec (.amark f) s = .next t ∧ GoesTo s s t i c f.guard (f.use .amark) (fun _ y => y) (fun _ => (i.prio, i.nextPc c.priv))
          ∧ ∀ d n, (t.core d n).alm = ((s.almLane (i.lane lead) 0x52 0 (maskOf (lead :: more)) (some payload)).core d n).alm)

/-- An octet operation whose octet stands whole in the issuing entry, with good operands (12 R285 to R288): it executes, its operands being
those of the tensor table, and the lanes go on.

MATRIX_KSTEP_DONE (12 R292) of a product that is not fused and has more steps to do, where the operands are good and the destination is
plain scratch: the step's results go out on the matrix path to their locations, the flags of its rows accrue in their lanes, and DONE rises by one.
It rests on choices of the model, which no rule states: log 36, 40, 63, 146, 147, 148. -/
def Obligations.MatrixOperations : Prop :=
  (∀ (s : State) (i : Issue) (c : Cohort) (f : Form) (x : Instr) (o : Op) (first octet : Nat),
      (x, o) ∈ [(.mzero f, .mzero), (.mma f, .mma), (.mms f, .mms), (.mmf f, .mmf), (.quant f, .quant), (.deq f, .deq), (.spz f, .spz)] →
      CanIssue s i c f.guard (f.use o) → c.active = true →
      (∀ n, i.mask.getLsbD n = true ↔ n / 8 = octet ∧ (c.lane? n).isSome = true) → i.lanes.head? = some first →
      (∀ n l k2, c.lane? n = some l → l.status ≠ .parked 6 k2) →
      let l := s.laneAt i first
      l.passes f.guard = true →
      let op := s.matOpOf i.key c i.pc first o f (arrivalA o f l) (Form.mode f l)
      op.ok = true →
      ∃ (t : State) (y : MatOp), exec x s = .next t ∧ t.matOps = s.matOps ++ [y] ∧ t.mem = s.mem ∧ t.writes = s.writes
        ∧ (y.kind, y.a, y.b, y.d, y.owner, y.octet) = (op.kind, op.a, op.b, op.d, first, octet)
        ∧ (y.ks, y.kn, y.done, y.row0, y.col0) = (op.ks, op.kn, op.done, op.row0, op.col0)
        ∧ (y.mode, y.ftz, y.n, y.single, y.waiting) = (op.mode, op.ftz, op.n, none, false)
        ∧ (∀ n, i.mask.getLsbD n = true → t.pair? (i.lane n) = some (i.prio, i.nextPc c.priv)
            ∧ ∃ z, t.lane? (i.lane n) = some z ∧ z.status = .ready)
        ∧ ∀ k, ¬ i.has k → t.lane? k = s.lane? k ∧ t.pair? k = s.pair? k)
  ∧ (∀ (s : State) (op : MatOp), (s.matOps.find? fun x => x.id = op.id) = some op → s.passOf op = [op] → s.passReady [op] = true →
      s.clocked op.die = true → op.alone = false → op.isProduct = true → op.done + 1 < op.kn →
      let addrs := op.reads.flatMap fun r => (List.range r.2).map (r.1 + ·)
      (s.touchAll op.die op.core op.gang op.role op.member
        (sectorNumbers (op.reads ++ op.writeAddrs.map fun a => (a, 1)))) = (.ok, s) →
      (∀ a ∈ addrs, s.badAt (s.opLoc op a) 1 = false) → s.staleBytes op addrs = [] →
      (∀ a ∈ op.writeAddrs, s.opSector op a = none) → (∀ c, s.cohort? op.key = some c → ∀ y ∈ c.lanes, ∀ p e, y.2.status ≠ .capturing p e) →
      let out := op.compute (s.opByte op false)
      let runs := byteRuns (mergeBytes (s.opByte op false) out.1)
      let flags (n : Nat) : BitVec 5 := (out.2.filter fun x => op.laneOf x.1 = n).foldl (fun y x => y ||| x.2) 0
      ∃ (t : State) (ws : List Write), exec (.matrixKstepDone op.id) s = .next t ∧ t.mem = s.mem ∧ t.writes = s.writes ++ ws
        ∧ ws.map (fun w => (w.pa, w.data, w.path, w.home)) = runs.map (fun r => (s.opLoc op r.1, r.2, Path.mtx, false))
        ∧ (∀ n, t.lane? ⟨op.key, n⟩ = (s.lane? ⟨op.key, n⟩).map fun l =>
            if s.opHas op n then { l with fflags := l.fflags ||| flags n } else l)
        ∧ (∀ k, k.coh ≠ op.key → t.lane? k = s.lane? k)
        ∧ t.matOps = s.matOps.map fun x => if x.id = op.id then { op with done := op.done + 1 } else x)

/-! Supervisor instructions. -/

/-- SRET and traps (17 R357, R358): in a trap SRET clears ACTIVE and each lane goes on at its `$tpc`; outside one it raises ILLEGAL cause
2, which a privileged fibre with nothing under way takes as a trap: the trap registers are written and it stands at `$tvec`.
It rests on choices of the model, which no rule states: log 134. -/
def Obligations.TrapsAndReturns : Prop :=
  ∀ (s : State) (i : Issue) (c : Cohort) (f : Form), CanIssue s i c f.guard (f.use .sret) → c.priv = true →
    ((∀ n ∈ i.lanes, (s.laneAt i n).passes f.guard = true ∧ (s.laneAt i n).trap.tstat.getLsbD 0 = true) →
      ∃ t, exec (.sret f) s = .next t ∧ CoresSame s t ∧ t.rest = s.rest
        ∧ Issued s t i
          (fun _ l => { l.complete [] with trap := { l.trap with tstat := l.trap.tstat &&& 0xFFFFFFFE }
                                           bks := decide (l.trap.tcause.toNat % 256 = 12), prio := i.prio, pc := l.trap.tpc.toNat })
          fun n => some (i.prio, (s.laneAt i n).trap.tpc.toNat))
    ∧ ∀ n l, s.executing i f.guard = [n] → i.lanes = [n] → s.lane? (i.lane n) = some l → l.trap.tstat.getLsbD 0 = false → c.halted = false →
      l.arrival = none → l.status = .ready → (∀ x ∈ l.late, x.cls ≠ .own) → (∀ x ∈ s.loads, x.src ≠ i.lane n) →
      (∀ x ∈ s.atomics, x.src ≠ i.lane n) → (∀ x ∈ s.qwaits, x.key ≠ i.lane n) →
      (∀ x ∈ (s.core i.key.die i.key.core).sfu, x.key ≠ i.lane n) →
      ∃ t y, exec (.sret f) s = .next t ∧ t.mem = s.mem ∧ t.lane? (i.lane n) = some y ∧ t.pair? (i.lane n) = some (i.prio, l.trap.tvec.toNat)
        ∧ y.trap = { l.trap with
            tpc := BitVec.ofNat 64 i.pc, tcause := 0x80000208, tval := i.word.setWidth 64, tscr := BitVec.ofNat 64 i.pc
            tstat := l.trap.tstat ||| 1 }
        ∧ (y.v, y.p, y.k, y.sp, y.chain, y.status) = (l.v, l.p, l.k, l.sp, l.chain, .ready)
        ∧ ∀ k, ¬ i.has k → t.lane? k = s.lane? k ∧ t.pair? k = s.pair? k

/-- DCRR and DCRW (17 R360, R366) of a register that is only stored, in a block that runs, by one executing lane: a read gives the bits
that the register has, and a write, after the fence that it performs, sets its writable bits and clears those that a 1 clears; so does a
write from outside, and the host's to a register that BAR0 shows (21 R417); the host's to any other register changes nothing.
It rests on choices of the model, which no rule states: log 68, 123, 161. -/
def Obligations.ControlRegisters : Prop :=
  ∀ (s : State) (i : Issue) (c : Cohort) (f : Form) (n : Nat) (g : DcrFields), s.executing i f.guard = [n] →
    let a : Nat := ((s.laneAt i n).reg f.a.toNat + f.w2).toNat
    let die := bits a 27 24
    let off := bits a 23 0
    bits a 31 28 = 0 → a % 8 = 0 → dcrFields die off = some g → s.computedDcr die off = none → off ≠ 0x58 → off ≠ 0x60 → die < 16 →
    s.dcrAwake die off = true →
    (CanIssue s i c f.guard (f.use .dcrr) → ∃ t, exec (.dcrr f) s = .next t ∧ RegsDone s t i c f.guard (f.use .dcrr) fun _ l =>
      l.setPair f.d.toNat (s.dcr die off &&& g.read))
    ∧ ∀ v : W64, v.toNat = bRaw .dcrw f (s.laneAt i n) true →
      (∀ u : State, u.writeDcr die off v = u.setDcr die off (g.after (u.dcr die off) v)) →
      let value := ((s.dcr die off &&& ~~~g.write) ||| (v &&& g.write)) &&& ~~~(v &&& g.clear)
      let s0 := s.fenced i 3 [.lsu] [n]
      (CanIssue s i c f.guard (f.use .dcrw) → s.fenceReady (i.lane n) 3 [.lsu] = true → (s.laneAt i n).fenceFx = [] →
        (s.lane? (i.lane n)).isSome = true →
        FenceOnly s s0 ∧ ∃ t, exec (.dcrw f) s = .next t
          ∧ MachineDone s (s0.setDcr die off value) t i c f.guard (f.use .dcrw) fun _ l => { l with made := s0.madeBy i n })
      ∧ (s.sec.powered = true → exec (.dcrWrite die off v) s = .next (s.setDcr die off value)
          ∧ ∀ link hpa, s.hostLinkUp link = true → exec (.hostWrite link hpa (bar0Base + 2 ^ 24 * die + off) (toBytes v.toNat 8)) s
              = .next (if barRegister off then s.setDcr die off value else s))

/-- TLBINV and TLBSYNC (17 R367, R368; 19 R400) by one executing lane, of the TLBs of cores and dies and of the walker caches: a removal
is noted and takes away only entries that it covers;
once no access is under way TLBSYNC has removed every entry that the lane's removals at its scope cover, and `.ACK` stores its word.
It rests on choices of the model, which no rule states: log 13, 68, 124, 125. -/
def Obligations.TranslationRemoval : Prop :=
  ∀ (s : State) (i : Issue) (c : Cohort) (f : Form) (n : Nat) (l : Lane), s.executing i f.guard = [n] → s.lane? (i.lane n) = some l →
    let b := bRaw .tlbinv f l false
    let held (u : State) (d : Nat) : List TlbEntry := u.tlbOf d ++ (u.die d).walks
    let keeps (t : State) (gone : Nat → TlbEntry → Prop) : Prop := ∀ d,
      (∀ e ∈ held t d, e ∈ held s d) ∧ ∀ e ∈ held s d, ¬ gone d e → e ∈ held t d
    let quiet : Prop := l.arrival = none ∧ (∀ w ∈ s.writes, w.home = true) ∧ s.loads = [] ∧ s.atomics = []
      ∧ ∀ y ∈ s.cores, ∀ p ∈ y.2.pages, p.stash = none
    let synced (t : State) : Prop :=
      (∀ x ∈ l.tlbinvs, x.scope ≤ f.rs.toNat → ∀ d ∈ s.invDies i.key.die x, ∀ e ∈ held t d, x.covers e = false)
      ∧ keeps t fun d e => ∃ x ∈ l.tlbinvs, x.scope ≤ f.rs.toNat ∧ d ∈ s.invDies i.key.die x ∧ x.covers e = true
    (CanIssue s i c f.guard (f.use .tlbinv) → b / 4 % 2 ^ 14 = 0 →
      let asked : TlbInv := { scope := f.rs.toNat, sel := b % 4, va := (l.regPair f.a.toNat).toNat % 2 ^ 57, asid := BitVec.ofNat 16 (b / 2 ^ 16) }
      ∃ t x, exec (.tlbinv f) s = .next t ∧ t.mem = s.mem ∧ x = s.widen i.key.die asked
        ∧ keeps t (fun d e => d ∈ s.invDies i.key.die x ∧ x.covers e = true)
        ∧ Issued s t i (fun _ y => y.after i c f.guard (f.use .tlbinv) fun z => { z with tlbinvs := z.tlbinvs ++ [x] })
          fun _ => some (i.prio, i.nextPc c.priv))
    ∧ (CanIssue s i c f.guard (f.use .tlbsync) → quiet → f.xm = false →
      ∃ t, exec (.tlbsync f) s = .next t ∧ t.mem = s.mem ∧ synced t
        ∧ Issued s t i (fun _ y => y.after i c f.guard (f.use .tlbsync) fun z =>
            { z with tlbinvs := z.tlbinvs.filter fun x => f.rs.toNat < x.scope })
          fun _ => some (i.prio, i.nextPc c.priv))
    ∧ (CanIssue s i c f.guard (f.use .tlbsync) → quiet → f.xm = true → s.fenceReady (i.lane n) 5 [.lsu] = true → l.fenceFx = [] →
      (l.regPair f.a.toNat).toNat % 8 = 0 → s.physOk i.key.die (l.regPair f.a.toNat).toNat = true →
      let bare (ws : List Write) : List Write := ws.map fun w => { w with fenced := none }
      ∃ t w, exec (.tlbsync f) s = .next t ∧ t.mem = s.mem ∧ synced t ∧ bare t.writes = bare (s.writes ++ [w])
        ∧ (w.src, w.pa, w.data, w.red) = (i.lane n, (l.regPair f.a.toNat).toNat, toBytes (bRaw .tlbsync f l true) 8, none)
        ∧ t.pair? (i.lane n) = some (i.prio, i.nextPc c.priv)
        ∧ ∀ k, ¬ i.has k → t.lane? k = s.lane? k ∧ t.pair? k = s.pair? k)

/-- FRQPOP, MAPDONE and SLOGRUN (17 R369 to R371) by one executing lane: the oldest record goes to the block of registers, or the lane
parks, or `.TRY` clears its predicate; a *resolved* reply retires its record and frees the held lanes to go on; SLOGRUN that fails the
entries of a page gives each its cause, and without entries it goes on.

The fault queue (19 R394 to R399, 17 R370): a record that waits is numbered and joins a queue that has room; a record outstanding
for 100 ms is answered *fatal*, which retires it and aborts the gang of the lanes it holds; lanes of a resolved record go on once the page's
entries have replayed; the next entry of a page makes its accesses again; a mapped page in word C resolves a hold.
It rests on choices of the model, which no rule states: log 22, 27, 53, 91, 92, 126, 127. -/
def Obligations.FaultServiceAndQueue : Prop :=
  (∀ (s : State) (i : Issue) (c : Cohort) (f : Form) (n : Nat) (l : Lane), s.executing i f.guard = [n] → s.lane? (i.lane n) = some l →
      let d := i.key.die
      let seq : Nat → Option (BitVec 8 × Nat) := fun _ => some (i.prio, i.nextPc c.priv)
      (∀ r rest, (s.die d).frq = r :: rest → s.faultWaiters d = [] →
        let u := s.modDie d fun x => { x with frq := rest, out := if r.path = 6 ∨ r.path = 7 then x.out else x.out ++ [r] }
        let words := (List.range 16).map fun j => BitVec.ofNat 32 (r.encode / 2 ^ (32 * j))
        (CanIssue s i c f.guard (f.use .frqpop) → ∃ t, exec (.frqpop f) s = .next t
          ∧ MachineDone s u t i c f.guard (f.use .frqpop) fun _ y => y.setRegs f.d.toNat words)
        ∧ (CanIssue s i c f.guard (f.use .frqpopTry) → ∃ t, exec (.frqpopTry f) s = .next t
          ∧ MachineDone s u t i c f.guard (f.use .frqpopTry) fun _ y => (y.setRegs f.d.toNat words).setPred f.c.toNat true))
      ∧ ((s.die d).frq = [] →
        (CanIssue s i c f.guard (f.use .frqpop) → ∃ t y, exec (.frqpop f) s = .next t ∧ t.mem = s.mem ∧ t.dies = s.dies
          ∧ t.lane? (i.lane n) = some y ∧ y.status = .parked 0 0 ∧ y.pc = i.pc ∧ t.pair? (i.lane n) = none)
        ∧ (CanIssue s i c f.guard (f.use .frqpopTry) → ∃ t, exec (.frqpopTry f) s = .next t
          ∧ RegsDone s t i c f.guard (f.use .frqpopTry) fun _ y => y.setPred f.c.toNat false))
      ∧ (∀ r id, CanIssue s i c f.guard (f.use .mapdone) → ((s.die d).frq ++ (s.die d).out).find? (fun y => y.rid = l.reg f.a.toNat && !y.oneWay) = some r →
        bRaw .mapdone f l false = 0 → r.cause ≠ 4 → r.cause ≠ 6 → r.cause ≠ 7 → r.waiter = .lanes id → (s.core d r.core).sideLog = [] →
        ∃ t, exec (.mapdone f) s = .next t ∧ t.mem = s.mem
          ∧ (t.die d).out = (s.die d).out.filter (fun y => y.rid ≠ r.rid) ∧ (t.die d).frq = (s.die d).frq.filter (fun y => y.rid ≠ r.rid)
          ∧ t.holds = s.holds.map (fun h => if h.id = id then { h with resolved := true } else h)
          ∧ Issued s t i (fun _ y => y.after i c f.guard (f.use .mapdone) fun z => z) seq)
      ∧ (CanIssue s i c f.guard (f.use .slogrun) → l.arrival = none →
        let va := (l.regPair f.a.toNat).toNat
        let action := bRaw .slogrun f l false
        action / 2 % 2 ^ 7 = 0 → action / 2 ^ 16 % 2 ^ 16 = 0 →
        ((∀ k < 48, ∀ e ∈ (s.core d k).sideLog, e.holds va = false) →
          ∃ t, exec (.slogrun f) s = .next t
            ∧ MachineDone s { s with nextId := s.nextId + 1 } t i c f.guard (f.use .slogrun) fun _ y => y)
        ∧ ∀ k e, k < 48 → (s.core d k).sideLog = [e] → (∀ m < 48, m ≠ k → ∀ x ∈ (s.core d m).sideLog, x.holds va = false) →
          e.holds va = true → e.state = 1 → action % 2 = 1 → e.lanes ≠ [] →
          (∀ x ∈ e.lanes, s.fibreIs ⟨⟨d, k, e.slot⟩, x.lane⟩ x.fibre = true) →
          ∃ t, exec (.slogrun f) s = .next t ∧ (t.core d k).sideLog = [{ e with state := 3, cause := action / 2 ^ 8 % 2 ^ 8, word := none }]
            ∧ t.mem = s.mem ∧ t.writes = s.writes ∧ t.pair? (i.lane n) = seq n))
  ∧ ((∀ (s : State) (d : Nat) (r : FaultRec) (rest : List FaultRec), (s.die d).frWait = r :: rest → s.awake d = true →
      (s.die d).frq.length + (s.die d).out.length < 1024 →
      ∃ t x, exec (.faultRecordWrite d) s = .next t ∧ (t.die d).frWait = rest ∧ (t.die d).frq = (s.die d).frq ++ [x]
        ∧ (x.rid, x.cause, x.acc, x.path, x.va, x.mask, x.pc, x.tick, x.die) = ((s.die d).rid, r.cause, r.acc, r.path, r.va, r.mask, r.pc, s.tick, d)
        ∧ (t.die d).rid = (if (s.die d).rid = 0xFFFFFFFF then 1 else (s.die d).rid + 1)
        ∧ t.mem = s.mem ∧ t.cohorts = s.cohorts)
    ∧ (∀ (s : State) (d : Nat) (r : FaultRec), ((s.die d).frq ++ (s.die d).out).find? (fun x => x.rid = r.rid && !x.oneWay) = some r →
      s.awake d = true → 100000000 + ((s.die d).stopTicks - r.stops) ≤ s.tick - r.tick →
      ∃ t, exec (.faultTimeout d r.rid) s = .next t
        ∧ (t.die d).out = (s.die d).out.filter (fun x => x.rid ≠ r.rid) ∧ (t.die d).frq = (s.die d).frq.filter (fun x => x.rid ≠ r.rid)
        ∧ ∀ h k ks c, r.waiter = .lanes h.id → s.holds.find? (fun x => x.id = h.id) = some h → s.holdLanesOf h = k :: ks →
          s.cohort? k.coh = some c → c.priv = false → t.cohort? k.coh = none)
    ∧ (∀ (s : State) (h : Hold) (n : Nat) (l : Lane) (c : Cohort), (s.holds.filter fun x => x.id = h.id) = [h] → s.awake h.coh.die = true →
      h.resolved = true → h.noRecord = false → (∀ e ∈ (s.core h.coh.die h.coh.core).sideLog, e.state ≠ 2) →
      s.cohort? h.coh = some c → h.mask = 1#64 <<< n → n < 64 → s.lane? ⟨h.coh, n⟩ = some l → l.status = .held h.id →
      s.pair? ⟨h.coh, n⟩ = none →
      ∃ t y, exec (.heldLaneReplay h.id) s = .next t ∧ t.holds = s.holds.filter (fun x => x.id ≠ h.id) ∧ t.mem = s.mem
        ∧ t.lane? ⟨h.coh, n⟩ = some y ∧ y.status = .ready ∧ (y.v, y.p, y.k, y.sp) = (l.v, l.p, l.k, l.sp)
        ∧ t.pair? ⟨h.coh, n⟩ = some (h.prio, h.pc) ∧ ∀ k, k ≠ ⟨h.coh, n⟩ → t.lane? k = s.lane? k)
    ∧ (∀ (s : State) (d c : Nat) (e : SideEntry) (x : SideLane) (loc : Xlt), (s.core d c).sideLog = [e] → e.state = 2 → e.lanes = [x] →
      x.sent = false → x.data ≠ [] → s.awake d = true →
      s.translate d c (BitVec.ofNat 64 x.va) (if e.acc = 4 then .reduction else .store) = (.ok loc, s) →
      ∃ t w, exec (.sideLogReplay d c e.page) s = .next t ∧ t.writes = s.writes ++ [w] ∧ t.mem = s.mem ∧ t.cohorts = s.cohorts
        ∧ (w.src, w.fibre, w.va) = (⟨⟨d, c, e.slot⟩, x.lane⟩, x.fibre, x.va)
        ∧ (w.pa, w.data, w.path, w.wic, w.side) = (loc.pa, x.data, Path.lsu, x.wic, some e.id)
        ∧ w.red = (if e.acc = 4 then some (e.op, e.size) else none) ∧ (t.core d c).sideLog = [{ e with lanes := [{ x with sent := true }] }])
    ∧ ∀ (s : State) (h : Hold) (w : Nat) (loc : Xlt), (s.holds.filter fun x => x.id = h.id) = [h] → h.word = some w → w % 8 = 0 →
      s.awake h.coh.die = true → s.translate h.coh.die noCore (BitVec.ofNat 64 w) .load = (.ok loc, s) →
      s.homeAwake loc.pa ⟨h.coh.die, 0, 0⟩ none true = true → s.badAt loc.pa 8 = false →
      (s.homeNat loc.pa 8 = 0 → exec (.completionWordWatch h.id) s = .next s)
      ∧ (s.homeNat loc.pa 8 = 1 → ∃ t, exec (.completionWordWatch h.id) s = .next t ∧ t.cohorts = s.cohorts ∧ t.mem = s.mem
          ∧ t.holds = s.holds.map fun x => if x.id = h.id then { h with resolved := true, word := none } else x))

/-- BINDW, HALTC, HALTC.GO, CIMGS and CIMGL (17 R372 to R376; 18 R380, R381) by one executing lane: a chain of one admitted record
without fibres binds its slot; a cohort with nothing under way halts, and goes on where it stood; the image of a halted cohort is stored
and its slot is given up; an image that fits an empty slot is restored into it.
It rests on choices of the model, which no rule states: log 77, 78, 81, 82, 84, 128. -/
def Obligations.CohortInstructions : Prop :=
  ∀ (s : State) (i : Issue) (c : Cohort) (f : Form) (n : Nat) (l : Lane), s.executing i f.guard = [n] → s.lane? (i.lane n) = some l →
    let d := i.key.die
    let a := (l.regPair f.a.toNat).toNat
    let seq : Option (BitVec 8 × Nat) := some (i.prio, i.nextPc c.priv)
    let answers (t : State) : Prop := ∃ y, t.lane? (i.lane n) = some y ∧ y.pred f.d.toNat = true ∧ t.pair? (i.lane n) = seq
    let still (k : CohKey) (x : Cohort) : Prop := s.cohort? k = some x ∧ k ≠ i.key ∧ x.priv = false ∧ x.stall = none
      ∧ (∀ p ∈ x.lanes, ∀ q e, p.2.status ≠ .capturing q e) ∧ (x.lanes.map fun p => p.1).Pairwise (· < ·)
      ∧ (∀ y ∈ s.loads, y.src.coh ≠ k) ∧ (∀ y ∈ s.atomics, y.src.coh ≠ k) ∧ (∀ y ∈ s.qwaits, y.key.coh ≠ k)
      ∧ (∀ y ∈ (s.core k.die k.core).sfu, y.key.coh ≠ k) ∧ ∀ y ∈ s.matOps, y.key ≠ k
    (∀ r, CanIssue s i c f.guard (f.use .bindw) → f.d.toNat < 8 → a % 64 = 0 → s.readChain d chainLimit a = [r] → r.start = .empty →
      r.first = false → superSlot r.key = false → s.bindOk (s.pid d) [r] r = true → s.admits (s.pid d) [] [r] r = true →
      s.ckState (s.pid d) = 0 →
      ∃ t y, exec (.bindw f) s = .next t ∧ answers t ∧ t.cohort? r.key = some y ∧ t.mem = s.mem
        ∧ (y.gang, y.role, y.member, y.minR, y.peak, y.lanes, y.priv) = (r.gang, r.role, r.member, r.minR, r.peak, [], false))
    ∧ (∀ k x, l.reg f.a.toNat = BitVec.ofNat 32 (k.slot + 16 * k.core + 1024 * k.die) → k.slot < 16 → k.core < 48 → k.die < 16 →
      superSlot k = false → still k x →
      (CanIssue s i c f.guard (f.use .haltc) → x.halted = false →
        ∃ t, exec (.haltc f) s = .next t ∧ t.mem = s.mem
          ∧ t.cohort? k = some { x with halted := true, halting := false, active := false, activeCycles := 0 }
          ∧ t.lane? (i.lane n) = some (l.after i c f.guard (f.use .haltc) fun y => y) ∧ t.pair? (i.lane n) = seq)
      ∧ (CanIssue s i c f.guard (f.use .haltcGo) → x.halted = true →
        (∀ p ∈ x.lanes, p.2.preemptDue = false ∧ p.2.limitDue = false ∧ ∀ y ∈ p.2.tickets, y.kind ≠ 4) →
        ∃ t, exec (.haltcGo f) s = .next t ∧ t.mem = s.mem
          ∧ t.cohort? k = some { x with halted := false, halting := false, readyAt := s.readied }
          ∧ t.lane? (i.lane n) = some (l.after i c f.guard (f.use .haltcGo) fun y => y) ∧ t.pair? (i.lane n) = seq))
    ∧ (∀ k x, bRaw .cimgs f l false = k.slot + 16 * k.core + 1024 * k.die → k.slot < 16 → k.core < 48 → k.die < 16 →
      superSlot k = false → still k x → CanIssue s i c f.guard (f.use .cimgs) → f.d.toNat < 8 → a % 64 = 0 → x.halted = true → x.halting = false →
      (∀ p ∈ x.lanes, p.2.arrival = none ∧ p.2.want = [] ∧ p.2.lastReads = [] ∧ p.2.tickets = [] ∧ p.2.obs = []) →
      (∀ w ∈ s.writes, w.src.coh ≠ k) → s.physOk d a = true → s.physOk d (a + x.imageBytes.length - 1) = true →
      ∃ t, exec (.cimgs f) s = .next t ∧ answers t ∧ t.cohort? k = none
        ∧ ∀ p ∈ piecesOf a x.imageBytes.length, ∃ w ∈ t.writes, w.pa = p.1 ∧ w.data = (x.imageBytes.drop (p.1 - a)).take p.2)
    ∧ ∀ k x bs seen, bRaw .cimgl f l false = k.slot + 16 * k.core + 1024 * k.die → k.slot < 16 → k.core < 48 → k.die < 16 →
      superSlot k = false → k ≠ i.key → CanIssue s i c f.guard (f.use .cimgl) → f.d.toNat < 8 → a % 64 = 0 → s.ownQuiet (i.lane n) = true →
      s.readSaved (i.lane n) a = (.bytes bs seen, s) → s.cohort? k = some x → x.preempting = false → s.mayGrow k 0 (parseImage bs).nreg = true →
      (parseImage bs).ok = true → (parseImage bs).fits x = true → (∀ p ∈ (parseImage bs).lanes, ∀ y ∈ p.2.lane.tickets, y.kind ≠ 4) →
      ∃ t, exec (.cimgl f) s = .next t ∧ answers t ∧ t.mem = s.mem
        ∧ ∀ m p, lookup (parseImage bs).lanes m = some p → ∃ y, t.lane? ⟨k, m⟩ = some y
          ∧ (y.v, y.p, y.k, y.sp, y.chain, y.wic) = ((parseImage bs).values m, p.lane.p, p.lane.k, p.lane.sp, p.lane.chain, p.lane.wic)
          ∧ (y.fflags, y.frm, y.fenable, y.tickets, y.status) = (p.lane.fflags, p.lane.frm, p.lane.fenable, p.lane.tickets, .ready)

/-! Engines and the host. -/

/-- Interrupts and hotness (21 R420; 19 R403, R406): a write to the interrupt page sets the pending bit, which becomes a PATH 6 record; a
granule that has reached the threshold is proposed, and its counts start again; every period the counts are halved.

Host accesses (21 R417 to R419; 07 R152; 25 R483): a write to a good granule of an owned region is applied when no write of its pair
waits, and one to a frozen granule is rejected; a read returns what the home holds, and 0 in the device's own regions; a read of BAR0
returns a register that it shows, and else 0; a snoop puts a line's due writes into the host's view; a link that goes down carries nothing.

Flits (21 R421 to R425) on a link that is up: a flit with a bad CRC is answered with a NAK; a good message in sequence order is taken and
acknowledged, goes on toward its die or by the port of its plane, and as a write of another package is applied at its home and counted (19
R406); one out of order is not taken; an ACK removes what it covers; a NAK or 2 µs without progress sends every unacknowledged flit again;
a retrain sends them once more, or takes the link down.
It rests on choices of the model, which no rule states: log 10, 17, 101, 102, 103, 104, 140, 161. -/
def Obligations.HostAndLinks : Prop :=
  (∀ (s : State) (d : Nat), d < 16 →
      (∀ data : W32, s.sec.powered = true → 1 ≤ data.toNat → data.toNat ≤ 2047 →
        ∃ t, exec (.msiWrite d 0 data) s = .next t ∧ (∀ n, n ∈ (t.die d).irq ↔ n ∈ (s.die d).irq ∨ n = data.toNat)
          ∧ t.mem = s.mem ∧ t.cohorts = s.cohorts)
      ∧ (∀ n rest, (s.die d).irq = n :: rest → s.awake d = true → (s.die d).frq.length + (s.die d).out.length < 1024 →
        ∃ t x, exec (.hostRequestRecord d) s = .next t ∧ (t.die d).irq = rest ∧ (t.die d).frq = (s.die d).frq ++ [x]
          ∧ (x.path, x.cause, x.va, x.pc, x.rid) = (6, 0, 0, n, (s.die d).rid) ∧ t.mem = s.mem ∧ t.cohorts = s.cohorts)
      ∧ (∀ h : Hot, (s.die d).hot.find? (fun x => x.granule = h.granule && x.pkg = h.pkg) = some h → s.awake d = true →
        let thr := s.dcrBits d offHOT 47 32
        thr ≠ 0 → thr ≤ h.reads + h.writes →
        ∃ t, exec (.hotnessProposal d h.granule h.pkg) s = .next t ∧ t.mem = s.mem ∧ t.cohorts = s.cohorts
          ∧ (∀ x ∈ (t.die d).hot, ¬ (x.granule = h.granule ∧ x.pkg = h.pkg))
          ∧ (768 < (s.die d).frq.length + (s.die d).out.length → (t.die d).frq = (s.die d).frq)
          ∧ ((s.die d).frq.length + (s.die d).out.length ≤ 768 → ∃ x, (t.die d).frq = (s.die d).frq ++ [x]
              ∧ (x.path, x.cause, x.pc) = (7, (if h.writes = 0 then 17 else 16), h.pkg) ∧ x.va = BitVec.ofNat 64 (65536 * h.granule)))
      ∧ (s.awake d = true → 1000 * s.dcrBits d offHOT 15 0 ≤ s.tick - (s.die d).hotTick →
        ∃ t, exec (.hotnessDecay d) s = .next t ∧ t = s.modDie d fun x => { x with
          hotTick := s.tick, hot := x.hot.map fun h => { h with reads := h.reads / 2, writes := h.writes / 2 } }))
  ∧ (∀ s : State, s.memOk → s.sec.powered = true →
      (∀ link hpa pa data, s.hostLinkUp link = true → isDevicePa pa = true → isHostPa pa = false → data ≠ [] → pa % 64 + data.length ≤ 64 →
        s.noOutside → s.dirtyGood → s.collecting pa = false → s.homeAwake pa hostKey none false = true → s.ckState (s.regionOwner pa) = 0 →
        (s.hostPair (s.streamOf link hpa) (homeDie pa)).give = (s.hostPair (s.streamOf link hpa) (homeDie pa)).apply →
        let out (t : State) (a : Nat) : Prop := Memory.read t.mem a = Memory.read s.mem a
        s.regionOwner pa ≠ 0 → s.regionOwner pa ≠ 0xFFF →
        ∃ t, exec (.hostWrite link hpa pa data) s = .next t ∧ t.cohorts = s.cohorts ∧ t.hostHeld = []
          ∧ (s.frzCount pa = 0 → (∀ j < data.length, Memory.read t.mem (pa + j) = data.getD j 0)
              ∧ ∀ a, (a < pa ∨ pa + data.length ≤ a) → out t a)
          ∧ (s.frzCount pa ≠ 0 → ∀ a, out t a))
      ∧ (∀ pa len, isDevicePa pa = true → pa % 64 + len ≤ 64 → s.homeAwake pa hostKey none true = true → (∃ l < 4, s.hostLinkUp l = true) →
        ∃ t, exec (.hostRead pa len) s = .next t ∧ t = { s with
          hostOut := (List.range len).map fun j => if s.regionOwner (pa + j) = 0xFFF then 0 else Memory.read s.mem (pa + j) })
      ∧ (∀ d off, d < 16 → off < 2 ^ 24 → off % 8 = 0 → s.dcrAwake d off = true → (∃ l < 4, s.hostLinkUp l = true) →
        ∃ t, exec (.hostRead (bar0Base + 2 ^ 24 * d + off) 8) s = .next t ∧ t = { s with
          hostOut := if barRegister off then toBytes (s.readDcr d off).1.toNat 8 else List.replicate 8 0 })
      ∧ (∀ line w, s.writes = [w] → w.home = true → w.left = [Config.hostObserver] → isDevicePa w.pa = true → 0 < w.size →
        64 * line ≤ w.pa → w.pa + w.size ≤ 64 * line + 64 → s.observerDue w Config.hostObserver = true →
        ∃ t, exec (.hostSnoop line) s = .next t ∧ t.mem = s.mem ∧ t.cohorts = s.cohorts ∧ t.writes = []
          ∧ ∀ a, t.view Config.hostObserver a = Memory.read s.mem a)
      ∧ ∀ link < 4, ∃ t, exec (.hostLinkDown link) s = .next t ∧ t.hostLinkUp link = false
          ∧ (∀ m, m ≠ link → t.hostLinkUp m = s.hostLinkUp m) ∧ t.mem = s.mem ∧ t.cohorts = s.cohorts)
  ∧ (∀ (s : State) (k : LinkId) (f : Flit), s.sec.powered = true → (s.links.map fun x => x.1).Nodup →
      let l := s.link k
      let d := linkDie k
      l.up = true → l.queue = [] →
      let same (t : State) : Prop := t.mem = s.mem ∧ t.cohorts = s.cohorts ∧ ∀ m, m ≠ k → t.link m = s.link m
      let resent (t : State) : Prop := same t
        ∧ (t.link k).unacked = l.unacked.map (fun x => (l.stamp x.1 x.1.seq, x.2 + 1)) ∧ (t.link k).since = s.tick
        ∧ ((t.link k).retrain = true ↔ ∃ x ∈ l.unacked, 7 ≤ x.2) ∧ (∀ x ∈ l.unacked, (k, l.stamp x.1 x.1.seq) ∈ t.wire)
      let takes (t : State) : Prop := (t.link k).expect = l.expect + 1 ∧ (t.link k).unacked = l.unacked
        ∧ (k, { l with expect := l.expect + 1 }.stamp (bareFlit 0) 0) ∈ t.wire
      let leavesBy (t : State) (q : LinkId) : Prop :=
        let g := (s.link q).stamp f (s.link q).next
        (q, g) ∈ t.wire ∧ (t.link q).unacked = (s.link q).unacked ++ [(g, 0)] ∧ (t.link q).next = (s.link q).next + 1
      let free (q : LinkId) : Prop := q ≠ k ∧ (s.link q).up = true ∧ (s.link q).retrain = false ∧ (s.link q).queue = []
        ∧ (s.link q).unacked.length < 2047
      (l.retrain = false →
        (flitOk f = false → ∃ t, exec (.flitReceive k f) s = .next t ∧ same t ∧ (t.link k).expect = l.expect ∧ (t.link k).nak = false
          ∧ (k, l.stamp (bareFlit 1) 0) ∈ t.wire)
        ∧ (flitOk f = true → f.type ≠ 0 → f.type ≠ 1 → (∀ x ∈ l.unacked, x.1.seq ≠ f.ack) →
          (f.seq ≠ l.expect → ∃ t, exec (.flitReceive k f) s = .next t ∧ same t ∧ (t.link k).expect = l.expect ∧ (t.link k).unacked = l.unacked)
          ∧ (f.seq = l.expect →
            (f.dstPkg.toNat = s.package d → f.dstDie.toNat = d → f.vc ≠ 5 → ∃ t, exec (.flitReceive k f) s = .next t ∧ same t ∧ takes t)
            ∧ (let q := LinkId.bridge d (nextHop d f.dstDie.toNat)
              f.dstPkg.toNat = s.package d → f.dstDie.toNat ≠ d → free q →
              ∃ t, exec (.flitReceive k f) s = .next t ∧ t.mem = s.mem ∧ takes t ∧ leavesBy t q)
            ∧ (let h := Config.planeHash f.dstPkg.toNat (flitLine f) % 48
              f.dstPkg.toNat ≠ s.package d → s.sec.ports.getLsbD h = true → h / 3 = d → free (.port h) →
              ∃ t, exec (.flitReceive k f) s = .next t ∧ t.mem = s.mem ∧ takes t ∧ leavesBy t (.port h))
            ∧ (let pa := Config.remoteAddr f.payload
              let data := Config.remoteData f.payload
              f.dstPkg.toNat = s.package d → f.dstDie.toNat = d → f.vc = 5 → Config.remoteKind f.payload = 1 → s.noOutside → s.dirtyGood →
              s.memOk → homeDie pa = d → pa % 1024 + data.length ≤ 1024 → f.part.toNat ≠ 0 → s.regionOwner pa = f.part.toNat →
              s.frzCount pa = 0 → s.collecting pa = false → s.awake d = true → s.homeAwake pa hostKey none false = true →
              ∃ t, exec (.flitReceive k f) s = .next t ∧ t.cohorts = s.cohorts
                ∧ (∀ j < data.length, Memory.read t.mem (pa + j) = data.getD j 0)
                ∧ (∀ a, (a < pa ∨ pa + data.length ≤ a) → Memory.read t.mem a = Memory.read s.mem a)
                ∧ ∃ h ∈ (t.die d).hot, (h.granule, h.pkg) = (pa / 65536, f.srcPkg.toNat) ∧ 0 < h.writes)))
        ∧ (∀ x n rest, flitOk f = true → f.type = 0 → l.nak = false → l.unacked = (x, n) :: rest → x.seq = f.ack →
          ∃ t, exec (.flitReceive k f) s = .next t ∧ same t ∧ t.link k = { l with unacked := rest, since := s.tick })
        ∧ (l.unacked ≠ [] → ∃ t, exec (.nakReceive k) s = .next t ∧ resent t)
        ∧ (l.unacked ≠ [] → 2000 ≤ s.tick - l.since → ∃ t, exec (.linkReplayTimeout k) s = .next t ∧ resent t))
      ∧ (l.retrain = true →
        (∃ t, exec (.linkRetrain k true) s = .next t ∧ same t ∧ (t.link k).retrain = false ∧ (t.link k).since = s.tick
          ∧ (t.link k).unacked = l.unacked.map (fun x => (l.stamp x.1 x.1.seq, 1)) ∧ ∀ x ∈ l.unacked, (k, l.stamp x.1 x.1.seq) ∈ t.wire)
        ∧ ∃ t, exec (.linkRetrain k false) s = .next t ∧ (t.link k).up = false ∧ t.mem = s.mem ∧ t.cohorts = s.cohorts))

/-! Boundaries, parked lanes, the active set. -/

/-- Effects before an issue (03 R58, R61; 23 R455, R456): a late effect of a supervisor fibre, and a breakpoint with ACT 0 that it meets,
trap before the instruction; a breakpoint with ACT 1 parks a user group where it stands; an entry that has aged changes nothing else.
It rests on choices of the model, which no rule states: log 47, 134. -/
def Obligations.BoundaryEffects : Prop :=
  ∀ (s : State) (i : Issue) (c : Cohort), s.issue = some i → s.cohort? i.key = some c →
    (∀ x prio pc, exec (.entryAged x prio pc) s = .next s)
    ∧ (∀ m k, c.priv = false → (∀ n ∈ i.lanes, (s.laneAt i n).preemptDue = false ∧ (s.laneAt i n).limitDue = false) →
      s.breakAt i c = some (m, 1) → s.parkFree i.key.die = some k → (s.die i.key.die).parks.length = 4 →
      ∃ t p, exec .boundaryEffect s = .next t ∧ t.cohorts = s.cohorts ∧ t.mem = s.mem ∧ t.issue = none
        ∧ (t.die i.key.die).parks.getD k none = some p
        ∧ (p.bp, p.gang, p.core, p.role, p.member, p.slot) = (m, c.gang, i.key.core, c.role, c.member, i.key.slot)
        ∧ (p.prio, p.pc, p.mask) = (i.prio, i.pc, i.mask))
    ∧ ∀ n l, c.priv = true → c.halted = false → i.lanes = [n] → s.lane? (i.lane n) = some l → l.arrival = none → l.status = .ready →
      l.trap.tstat.getLsbD 0 = false → (∀ x ∈ l.late.drop 1, x.cls ≠ .own) → (∀ x ∈ s.loads, x.src ≠ i.lane n) → (∀ x ∈ s.atomics, x.src ≠ i.lane n) → (∀ x ∈ s.qwaits, x.key ≠ i.lane n) →
      (∀ x ∈ (s.core i.key.die i.key.core).sfu, x.key ≠ i.lane n) →
      let traps (x : Instr) (late : List Effect) (t : Trap) : Prop :=
        ∃ u y, exec x s = .next u ∧ u.mem = s.mem ∧ u.lane? (i.lane n) = some y ∧ y.trap = t ∧ y.late = late
          ∧ u.pair? (i.lane n) = some (i.prio, l.trap.tvec.toNat) ∧ ∀ k, ¬ i.has k → u.lane? k = s.lane? k ∧ u.pair? k = s.pair? k
      (∀ e more, l.late = e :: more → traps .lateEffect more { l.trap with
        tpc := BitVec.ofNat 64 (e.cpc.getD i.pc), tcause := trapCause e, tval := e.k2, tscr := BitVec.ofNat 64 e.xpc
        tstat := l.trap.tstat ||| 1 })
      ∧ (∀ m, l.preemptDue = false → l.limitDue = false → (∀ x ∈ l.late, x.cls ≠ .own) → s.breakAt i c = some (m, 0) → traps .boundaryEffect l.late { l.trap with
        tpc := BitVec.ofNat 64 i.pc, tcause := BitVec.ofNat 32 (0x8000000C + 256 * m), tval := 0, tscr := BitVec.ofNat 64 i.pc
        tstat := l.trap.tstat ||| 1 })

/-- Wakes (02 R38, R39; 11 R267, R301; 17 R369; 13 R325) and AWAIT (02 R40): a parked lane whose condition is met goes on, at its
instruction or after it, and at MWAIT with every lane of its cohort that waits there for no operation any more; a user fibre that stays
parked for 258 cycles is captured at its instruction.

ACTIVE_SET_DISPLACE (02 R43): the one waiting cohort of a core enters the active set, in a free place or in that of the one cohort that
may leave.
It rests on choices of the model, which no rule states: log 2, 130, 131, 150, 151, 156. -/
def Obligations.WakesAndActiveSet : Prop :=
  (∀ (s : State) (k : LaneKey) (c : Cohort) (l : Lane), s.cohort? k.coh = some c → s.lane? k = some l → s.awake k.coh.die = true →
      s.pair? k = none → l.lastReads = [] →
      let past (a : Arrival) : Nat := if c.priv then (l.pc + a.bytes) % 2 ^ 64 else (l.pc + a.bytes) % 2 ^ 57
      let wakes (pc : Nat) (same : Lane → Prop) : Prop :=
        ∃ t y, exec (.wake k) s = .next t ∧ t.mem = s.mem ∧ t.lane? k = some y ∧ y.status = .ready ∧ same y ∧ t.pair? k = some (l.prio, pc)
          ∧ ∀ x, x ≠ k → t.lane? x = s.lane? x
      let regs (y : Lane) : Prop := (y.v, y.p, y.k) = (l.v, l.p, l.k)
      (∀ r rest k2 a id, l.status = .parked 0 k2 → l.arrival = some a → a.pend = some id → s.faultWaiters k.coh.die = [(id, k)] →
        (s.die k.coh.die).frq = r :: rest → wakes (past a) fun y => y.v = (l.land id (wordsOf r.encode 16)).v)
      ∧ (∀ k2 a, l.status = .parked 2 k2 → l.arrival = some a →
        (s.tokenBarrier k.coh a.a.toNat).complete (bits a.a.toNat 22 0) = true →
        wakes (past a) fun y => y.v = (if a.op = .bar then l.setReg a.form.d.toNat 0 else l).v)
      ∧ (∀ va a, l.status = .parked 3 va ∨ l.status = .parked 4 va → l.arrival = some a → s.wordReady k va a.a.toNat = true → wakes l.pc regs)
      ∧ (∀ k2 a, l.status = .parked 5 k2 → l.arrival = some a → s.opsOf k = [] →
        ∃ t y, exec (.wake k) s = .next t ∧ t.mem = s.mem ∧ t.lane? k = some y ∧ y.status = .ready ∧ regs y ∧ t.pair? k = some (l.prio, past a)
          ∧ ∀ x, (x ∈ s.matrixWaiters k l → ∃ z, t.lane? x = some z ∧ z.status = .ready) ∧ (x ∉ s.matrixWaiters k l → t.lane? x = s.lane? x))
      ∧ ∀ s1 block k2 m handle, l.status = .parked block k2 → c.priv = false → c.halted = false → s.groupParked k.coh c = false →
        l.preemptDue = false → 258 ≤ l.parkedCycles → s.wakeDue k l = false → l.tickets = [] → (∀ x ∈ l.late, x.cls ≠ .own) → s.heapReady k = true →
        (∀ x ∈ s.matOps, x.key = k.coh → x.octet ≠ k.lane / 8 ∧ x.owner ≠ k.lane) → (∀ x ∈ s.qreqs, x.key ≠ k) →
        (∀ a, l.arrival = some a → a.pend = none) → (∀ x ∈ s.loads, x.src ≠ k) → (∀ x ∈ s.atomics, x.src ≠ k) →
        (∀ x ∈ s.qwaits, x.key ≠ k) → (∀ x ∈ (s.core k.coh.die k.coh.core).sfu, x.key ≠ k) →
        captureFibre (s.heapCtx k) { l with arrival := none, want := [] }
          { tag := 1, k2 := k2, k3 := hwDetail block, cpc := some l.pc, xpc := l.pc } l.pc s = .ok (some (m, handle), s1) →
        ∃ t y, exec (.await k) s = .next t ∧ t.mem = s1.mem ∧ t.lane? k = some y ∧ y.status = .ready ∧ (y.pc, y.sp) = (m.pc, m.sp)
          ∧ y.k.take 5 = [handle, 1, k2, hwDetail block, BitVec.ofNat 64 l.pc] ∧ t.pair? k = some (m.prio, m.pc)
          ∧ ∀ x, x ≠ k → t.lane? x = s.lane? x)
  ∧ (∀ (s : State) (d n : Nat) (k : CohKey) (c : Cohort), s.awake d = true → s.waiting d n = [(k, c)] → s.cohort? k = some c →
      let now := (s.coreCohorts d n).filter fun x => x.2.active
      (now.length < 4 → ∃ t, exec (.activeSetDisplace d n) s = .next t ∧ t.cohort? k = some { c with active := true, activeCycles := 0 }
        ∧ (∀ x, x ≠ k → t.cohort? x = s.cohort? x) ∧ t.mem = s.mem)
      ∧ ∀ j b, 4 ≤ now.length → now.filter (fun x => x.2.displaceable) = [(j, b)] → s.cohort? j = some b →
        ∃ t, exec (.activeSetDisplace d n) s = .next t ∧ t.cohort? k = some { c with active := true, activeCycles := 0 }
          ∧ t.cohort? j = some { b with active := false, activeCycles := 0, readyAt := s.readied }
          ∧ (∀ x, x ≠ k → x ≠ j → t.cohort? x = s.cohort? x) ∧ t.mem = s.mem)

/-! The Calends. -/

/-- CAL_BIND, CAL_PREEMPT, its deadline, and the time limit of a gang (18 R380, R381, R384, R385; 02 R42): an admitted chain of one record
without fibres binds its slot; a request marks the slot and PREEMPT falls due to its fibres; at the deadline a halted cohort with
nothing under way is stored and its slot released; LIMIT falls due to every fibre of a gang whose budget has run out.

Launch queues and passes (18 R378, R379, R387; 13 R321; 18 R382): a tail write within the capacity stands; the next record of the device
queue is taken, with STATE 1; a pass commits the chain planned for the record at the head; a task record of a gang that has ended is
dropped, and those that are bound leave their queue.
It rests on choices of the model, which no rule states: log 77, 78, 84, 85, 86, 87, 90, 95, 99, 132. -/
def Obligations.CalendsWork : Prop :=
  (∀ (s : State) (d : Nat), d < 16 → s.calendsAwake d = true →
      (∀ v r, let a := 64 * bits v.toNat 56 6
        s.readChain d chainLimit a = [r] → r.start = .empty → r.first = false → s.bindOk (s.pid d) [r] r = true →
        s.admits (s.pid d) [] [r] r = true → s.ckState (s.pid d) = 0 →
        ∃ t y, exec (.calBind d v) s = .next t ∧ t.cohort? r.key = some y ∧ t.mem = s.mem ∧ t.dcrBits d offBINDST 1 0 = 1
          ∧ (y.gang, y.role, y.member, y.minR, y.peak, y.lanes, y.priv) = (r.gang, r.role, r.member, r.minR, r.peak, [], false)
          ∧ ∀ k, k ≠ r.key → t.cohort? k = s.cohort? k)
      ∧ (∀ v c, let k : CohKey := ⟨d, bits v.toNat 9 4, bits v.toNat 3 0⟩
        v.getLsbD 63 = false → s.cohort? k = some c → c.priv = false → (s.die d).preempt = none →
        (∀ p ∈ c.lanes, ∀ b x, p.2.status ≠ .parked b x) → (∀ y ∈ s.matOps, y.key ≠ k) →
        ∃ t p, exec (.calPreempt d v) s = .next t ∧ t.mem = s.mem ∧ (t.die d).preempt = some p ∧ t.dcr d offPRST = 1
          ∧ (p.target, p.left, p.open_, p.forced) = (v, 50000, [k], 0)
          ∧ t.cohort? k = some { c with preempting := true, lanes := c.lanes.map fun x => (x.1, { x.2 with preemptDue := true }) }
          ∧ ∀ j, j ≠ k → t.cohort? j = s.cohort? j)
      ∧ (∀ p k c, s.memOk → (s.die d).preempt = some p → p.left = 0 → p.open_ = [k] → p.forced = 0 → k.die = d → s.cohort? k = some c →
        c.preempting = true → c.halted = true → c.halting = false → (c.lanes.map fun x => x.1).Pairwise (· < ·) →
        (∀ x ∈ c.lanes, x.2.arrival = none ∧ x.2.want = [] ∧ x.2.lastReads = [] ∧ x.2.tickets = [] ∧ x.2.obs = []) →
        (∀ w ∈ s.writes, w.src.coh ≠ k) →
        let at_ := 2 ^ 17 * s.dcrBits d offIMGBASE 56 17 + 0x20000 * (16 * k.core + k.slot)
        s.homeAwake at_ k none false = true → s.frzCount at_ = 0 → s.frzCount (at_ + 65536) = 0 →
        (s.frzByte (at_ + 65536) < at_ ∨ at_ + 65536 ≤ s.frzByte (at_ + 65536)) →
        ∃ t, exec (.preemptDeadline d) s = .next t ∧ t.cohort? k = none ∧ (t.die d).preempt = none
          ∧ (∀ j < c.imageBytes.length, Memory.read t.mem (at_ + j) = c.imageBytes.getD j 0)
          ∧ (∀ a, (a < at_ ∨ at_ + c.imageBytes.length ≤ a) → Memory.read t.mem a = Memory.read s.mem a)
          ∧ ∀ j, j ≠ k → t.cohort? j = s.cohort? j)
      ∧ ∀ g, g ∈ s.gangs → (∀ x ∈ s.gangs, x.id = g.id → x = g) → g.tlimit ≠ 0 → g.limitFired = false → 1000 * g.tlimit ≤ g.used →
        (∀ y ∈ s.cohorts, y.2.priv = false → y.2.gang = g.id → s.pid y.1.die = g.pid → s.awake y.1.die = true) →
        (∀ y ∈ s.cohorts, ∀ p ∈ y.2.lanes, ∀ b x, p.2.status ≠ .parked b x) →
        ∃ t, exec (.gangTimeLimit g.id) s = .next t ∧ t.mem = s.mem
          ∧ (∀ x ∈ t.gangs, x.id = g.id → x.pid = g.pid → x.limitFired = true)
          ∧ ∀ k c, s.cohort? k = some c → c.priv = false → c.gang = g.id → s.pid k.die = g.pid →
            t.cohort? k = some { c with lanes := c.lanes.map fun x => (x.1, { x.2 with limitDue := true }) })
  ∧ (∀ (s : State) (d : Nat), d < 16 → s.calendsAwake d = true →
      (∀ v, let tail := v.toNat % 2 ^ 32
        (tail + 2 ^ 32 - s.dcrBits d offHLQHEAD 31 0) % 2 ^ 32 ≤ 2 ^ s.dcrBits d offHLQBASE 4 0 →
        ∃ t, exec (.calHlqtail d v) s = .next t ∧ t = s.setDcr d offHLQTAIL (BitVec.ofNat 64 tail))
      ∧ (∀ va rest x y roles, s.memOk → (s.die d).headOf true = none → (s.die d).dlq = va :: rest →
        s.translate d noCore (va57 va) .load = (.ok x, s) → s.badAt x.pa 64 = false →
        s.translate d noCore (va57 (va + 56)) .store = (.ok y, s) → s.frzCount y.pa = 0 →
        let n := s.homeNat x.pa 64
        s.readRoles d (64 * bits n 56 6) (n % 4 + 1) = (some roles, s) →
        ∃ t, exec (.calDlqpop d) s = .next t ∧ (t.die d).dlq = rest ∧ t.cohorts = s.cohorts ∧ t.homeNat y.pa 8 = 1
          ∧ (t.die d).headOf true = some { va := va, device := true, record := BitVec.ofNat 512 n, roles := roles, waited := 0, retry := 0 }
          ∧ (t.die d).headOf false = (s.die d).headOf false
          ∧ ∀ a, (a < y.pa ∨ y.pa + 8 ≤ a) → Memory.read t.mem a = Memory.read s.mem a)
      ∧ (∀ h n q more rs i c s3 device, s.pid d ≠ 0 → s.ckState (s.pid d) = 0 → (∀ k < 12, (s.die d).posted k = []) →
        (s.die d).requeue = [] → s.serveQueueOf d = some device → (s.die d).headOf device = some h → s.launchAwake d device = true →
        h.retry = 0 → s.choices = n :: q :: more →
        let u : State := { s.modDie d fun x => { x with serveDevice := !device } with choices := more, drawn := s.drawn + 2 }
        let gang := u.freshGang (u.pid d) (n % (2 ^ 32 - 1) + 1) u.gangTries
        u.planLaunch d gang (q % 12) h = .chain rs → u.commit d rs = (⟨1, i, c⟩, s3) →
        ∃ t, exec (.calendsPass d) s = .next t ∧ (t.die d).headOf device = none ∧ t.cohorts = s3.cohorts ∧ t.dcrBits d offBINDST 1 0 = 1
          ∧ ∀ g ∈ t.gangs, g.id = gang → g.pid = s3.pid d → g.launch = some h.va)
      ∧ ∀ quad, quad < 12 → s.ckState (s.pid d) = 0 → numGet (s.die d).postWait quad = none → ∀ r rest, (s.die d).posted quad = r :: rest →
        let gang := bits r.toNat 511 480
        (s.gang? (s.pid d) gang = none → ∃ t, exec (.taskStart d quad) s = .next t ∧ (t.die d).posted quad = rest ∧ t.cohorts = s.cohorts
          ∧ t.mem = s.mem)
        ∧ ∀ g b i c s1, s.gang? (s.pid d) gang = some g → s.taskBind d quad g (frontTasks gang (r :: rest) 64) = some b →
          s.commit d [b] = (⟨1, i, c⟩, s1) →
          ∃ t, exec (.taskStart d quad) s = .next t ∧ t.cohorts = s1.cohorts ∧ t.mem = s1.mem ∧ t.dcrBits d offBINDST 1 0 = 1
            ∧ (t.die d).posted quad = ((s1.die d).posted quad).drop (frontTasks gang (r :: rest) 64).length)

/-! Clocks, power and boot. -/

/-- Steps and power (01 R18; 25 R477 to R481). A pass of the arbiter grants each die its share, and a die that may change its step is
ordered to the highest that its share carries; the end of a relock sets the step; a limit of the current is counted; a hot die is sent to
the lowest step, and let go below 100 degrees.
It rests on choices of the model, which no rule states: log 4, 14, 105, 155. -/
def Obligations.ClocksAndPower : Prop :=
  ∀ (s : State) (d : Nat), d < 16 →
    (∀ avail power, s.clocked 0 = true → 7 ≤ s.sec.stage → s.sec.stage < 15 → 10000 ≤ s.arbiter →
      let watts (d n : Nat) : Nat := (power.getD d []).getD n 0
      let demand (d : Nat) : Nat := watts d (s.maxStep d)
      let grant := min avail (s.dcrBits 0 offENVELOPE 15 0) * demand d / ((List.range 16).map demand).sum
      ∃ t, exec (.arbiterPass avail power) s = .next t ∧ t.arbiter = 0 ∧ t.mem = s.mem ∧ t.cohorts = s.cohorts
        ∧ t.dcr d offGRANT = BitVec.ofNat 64 (grant % 2 ^ 16)
        ∧ ((s.die d).relock = none → (s.die d).hotClamp = false → s.clocked d = true →
          ∃ n, s.minStep d ≤ n ∧ (n = s.minStep d ∨ watts d n ≤ grant) ∧ (∀ m, n < m → m ≤ s.maxStep d → grant < watts d m)
            ∧ (t.die d).relock.map (fun r => r.next) = if n = (s.die d).step then none else some n))
    ∧ (∀ r, (s.die d).relock = some r → r.left = 0 → s.clocked d = true → (s.die d).order = none → s.noOutside →
      ∃ t, exec (.relockEnd d) s = .next t ∧ (t.die d).step = r.next ∧ (t.die d).relock = none ∧ t.mem = s.mem ∧ t.cohorts = s.cohorts)
    ∧ (s.awake d = true → (s.die d).limited = false → ∃ t, exec (.currentLimit d) s = .next t ∧ (t.die d).limited = true
        ∧ t.dcrBits d offTHROTTLE 31 0 = min (2 ^ 32 - 1) (s.dcrBits d offTHROTTLE 31 0 + 1) ∧ t.mem = s.mem ∧ t.cohorts = s.cohorts)
    ∧ ∀ degC, s.sec.powered = true → ∃ t, exec (.thermalThrottle d degC) s = .next t ∧ t.dcr d offTEMP = BitVec.ofNat 64 (min degC 255)
        ∧ t.mem = s.mem ∧ t.cohorts = s.cohorts
        ∧ (110 ≤ degC → (t.die d).hotClamp = true
            ∧ ((s.die d).relock = none → (s.die d).step ≠ 0 → (t.die d).relock.map (fun r => r.next) = some 0)
            ∧ ∀ r, (s.die d).relock = some r → (t.die d).relock = some r ∧ (t.die d).order = if r.next = 0 then none else some 0)
        ∧ (100 ≤ degC → degC < 110 → (t.die d).hotClamp = (s.die d).hotClamp) ∧ (degC < 100 → (t.die d).hotClamp = false)

/-- Power and boot (25 R471 to R473, R479; 22 R445): without power only the host's memory and the non-volatile counters are left; power
starts the boot at stage 0; stages follow each other, and a unit that fails, or a stack that has not trained, ends the boot.

IMGLOAD before stage 6 stages bytes of an image, and RESET clears the part (25 R472, R474; 22 R445): device memory and the vault
outlast a warm reset only, the non-volatile counters both.
It rests on choices of the model, which no rule states: log 14, 18, 24, 41, 106, 107, 108, 140. -/
def Obligations.PowerBootAndReset : Prop :=
  (∀ s : State,
      let kept (t : State) : Prop := t.cohorts = [] ∧ t.capsuleSeq = s.capsuleSeq ∧ t.xmssLeaf = s.xmssLeaf ∧ t.sec.rollback = s.sec.rollback
        ∧ t.mem = s.mem.filter fun c => isHostPa c.1
      (∃ t, exec .powerLoss s = .next t ∧ t.sec.powered = false ∧ kept t)
      ∧ (∀ d < 16, ∃ t, exec (.thermalTrip d) s = .next t ∧ t.sec.powered = false ∧ kept t)
      ∧ (s.sec.powered = false → ∃ t, exec .powerOn s = .next t ∧ t.sec.powered = true ∧ t.sec.stage = 0 ∧ t.tick = 0 ∧ kept t)
      ∧ (s.sec.powered = true → s.sec.stage < 9 → stageTick (s.sec.stage + 1) ≤ s.tick →
        (∀ unit, s.sec.stage ∈ [2, 3, 4] → ∃ t, exec (.bootStage (.fail unit)) s = .next t ∧ (t.sec.stage, t.sec.fail) = (15, unit) ∧ t.mem = s.mem ∧ t.cohorts = s.cohorts)
        ∧ (s.sec.stage ∈ [0, 1, 7] → ∃ t, exec (.bootStage .done) s = .next t
            ∧ t = { s with sec := { s.sec with stage := s.sec.stage + 1 } })
        ∧ (∀ up, s.sec.stage = 2 → ∃ t, exec (.bootStage (.hbm up)) s = .next t ∧ t.sec.hbm = up ∧ t.mem = s.mem
            ∧ t.sec.stage = if up = BitVec.allOnes 32 then 3 else 15)
        ∧ (∀ up : BitVec 48, s.sec.stage = 8 → ∃ t, exec (.bootStage (.ports up)) s = .next t ∧ (t.sec.stage, t.sec.ports) = (9, up)
            ∧ ∀ p < 48, up.getLsbD p = true → (t.link (.port p)).up = true)))
  ∧ (∀ (s : State) (tag : W32), s.sec.powered = true →
      (∀ ty off body, 1 ≤ s.sec.stage → s.sec.stage ≤ 5 → ty = 1 ∨ ty = 2 → body.length ≤ 4096 →
        ∃ t, exec (.imgload tag ty off body) s = .next t ∧ t.sec.status = 0 ∧ t.mem = s.mem ∧ t.dies = s.dies
          ∧ (∀ j < body.length, lookup ((lookup t.sec.staged ty).getD []) (off + j) = body[j]?)
          ∧ ∀ j, (j < off ∨ off + body.length ≤ j) →
            lookup ((lookup t.sec.staged ty).getD []) j = lookup ((lookup s.sec.staged ty).getD []) j)
      ∧ (s.cuts = [] → ∃ t, exec (.reset tag 0) s = .next t ∧ t.cohorts = [] ∧ t.sec.stage = 0 ∧ t.tick = 0
          ∧ t.mem = s.mem.filter (fun c => c.1 < 2 ^ 56) ∧ t.vault = s.vault
          ∧ (t.capsuleSeq, t.xmssLeaf, t.sec.rollback) = (s.capsuleSeq, s.xmssLeaf, s.sec.rollback))
      ∧ ∃ t, exec (.reset tag 1) s = .next t ∧ t.cohorts = [] ∧ t.sec.stage = 0 ∧ t.tick = 0
          ∧ t.mem = s.mem.filter (fun c => isHostPa c.1) ∧ t.vault = State.reset.vault
          ∧ (t.capsuleSeq, t.xmssLeaf, t.sec.rollback) = (s.capsuleSeq, s.xmssLeaf, s.sec.rollback))

/-! The management window and the Lenmus port. -/

/-- Management requests after boot (25 R474 to R477; 22 R441, R446; 19 R407): what each answers with status 0, and what it changes.

Lenmus (23 R452): what each instruction captures and shifts out, and what it updates.
It rests on choices of the model, which no rule states: log 15, 16, 116, 117, 118, 119, 120, 121, 122. -/
def Obligations.ManagementAndLenmus : Prop :=
  (∀ (s : State) (tag : W32), s.sec.powered = true → s.sec.stage = 9 →
      let answered (u t : State) (op : Nat) (body : List Byte) : Prop :=
        t = { u with sec := { u.sec with answerOp := BitVec.ofNat 16 (0x8000 + op), answerTag := tag, status := 0, answer := body } }
      let yields (x : Instr) (u : State) (op : Nat) (body : List Byte) : Prop := ∃ t, exec x s = .next t ∧ answered u t op body
      yields (.ident tag) s 0x01 (Config.xmssPublicKey ++ Config.certificate)
      ∧ yields (.bootst tag) s 0x02 (toBytes (9 + 2 ^ 32 * s.sec.fail.toNat) 8)
      ∧ (∀ nonce a b, s.xmssLeaf < xmssLeaves → lookup s.sec.images 1 = some a → lookup s.sec.images 2 = some b →
          let body := toBytes (s.dcr 0 offIDENT).toNat 4 ++ toBytes (s.dcrBits 0 offPKGID 14 0) 2 ++ toBytes 9 1 ++ toBytes s.sec.refused 1
            ++ toBytes nonce.toNat 32 ++ (toBytes a.digest.toNat 32 ++ toBytes a.version.toNat 4)
            ++ (toBytes b.digest.toNat 32 ++ toBytes b.version.toNat 4) ++ toBytes s.linkBits 8 ++ toBytes s.sec.ports.toNat 8
            ++ toBytes s.sec.hbm.toNat 4 ++ toBytes s.xmssLeaf 4
          ∃ sig, yields (.attest tag nonce) { s with xmssLeaf := s.xmssLeaf + 1 } 0x03 (body ++ sig))
      ∧ (∀ die pid, die < 16 → pid < 4095 → s.residentOn die = false →
          yields (.setpart tag die pid) (s.setDcr die offPART (BitVec.ofNat 64 pid)) 0x10 [])
      ∧ (∀ die pid, die < 16 → pid < 4095 → s.residentOn die = true →
          ∃ t, exec (.setpart tag die pid) s = .next t ∧ t.sec.status = 3 ∧ t.dies = s.dies)
      ∧ (∀ pid pol, 1 ≤ pid → pid < 4095 → pol.pMode ≠ 3 → pol.csize.toNat < 2 ^ 55 → ∃ t, exec (.setpolicy tag pid pol) s = .next t
          ∧ lookup t.sec.policies pid = some pol ∧ (∀ k, k ≠ pid → lookup t.sec.policies k = lookup s.sec.policies k)
          ∧ t.sec.status = 0 ∧ t.mem = s.mem)
      ∧ (∀ addr : BitVec 31, ∀ data, addr.toNat / 2 ^ 28 = 0 → bits addr.toNat 23 0 = offIDENT →
          s.dcrAwake (bits addr.toNat 27 24) offIDENT = true →
          yields (.mgmtDcracc tag false addr data) s 0x12 (toBytes (s.readDcr (bits addr.toNat 27 24) offIDENT).1.toNat 8))
      ∧ (∀ watts, 1000 ≤ watts → watts ≤ 14000 → yields (.pwrset tag watts) (s.setDcr 0 offENVELOPE (BitVec.ofNat 64 watts)) 0x30 [])
      ∧ yields (.vlist tag) s 0x20
          (s.vault.flatMap fun v => toBytes v.state 1 ++ toBytes v.seq 8 ++ toBytes v.size 8 ++ toBytes v.subj 2)
      ∧ (∀ n v off len, n < 4 → s.vault.getD n {} = v → v.state = 2 → v.lost = false → 1 ≤ len → len ≤ 4096 → off + len ≤ v.size →
          yields (.vread tag n off len) { s with vault := s.vault.set n { v with read := true } } 0x21 (s.home (vaultAt n + off) len))
      ∧ ∀ n v, n < 4 → s.vault.getD n {} = v → v.state = 2 → yields (.vrelease tag n v.seq) { s with vault := s.vault.set n {} } 0x22 [])
  ∧ (∀ s : State, s.sec.powered = true →
      let x := s.lenmus
      let shifts (i : Instr) (y : Lenmus) : Prop := ∃ t, exec i s = .next t ∧ t = { s with lenmus := y }
      (∀ pins, ∃ out, shifts (.extest pins) { x with ir := 0x00, out := out, cells := pins, pins := pins })
      ∧ shifts .idcode { x with ir := 0x01, out := [0x01, 0x00, 0x16, 0x2F] }
      ∧ (∀ pins, ∃ out, shifts (.samplePreload pins) { x with ir := 0x02, out := out, cells := pins })
      ∧ (∀ addr : BitVec 31, ∀ data, addr.toNat / 2 ^ 28 = 0 → bits addr.toNat 23 0 = offIDENT →
          s.dcrAwake (bits addr.toNat 27 24) offIDENT = true →
          ∃ (t : State) (upper : W64), exec (.lenmusDcracc false addr data) s = .next t ∧ t = { s with
            drawnValues := s.drawnValues + 1
            lenmus := { x with ir := 0x10, out := toBytes x.data.toNat 8 ++ toBytes upper.toNat 4
                               data := (s.readDcr (bits addr.toNat 27 24) offIDENT).1 } })
      ∧ (∀ v, shifts (.snapsel v) { x with ir := 0x11, out := toBytes x.sel.toNat 4, sel := v &&& 0xFFF00000 })
      ∧ shifts .snaprd { x with ir := 0x12, out := s.chainBytes (bits x.sel.toNat 31 28) (bits x.sel.toNat 27 20) }
      ∧ ∀ b, ∃ ir, ir ∉ [0x00, 0x01, 0x02, 0x10, 0x11, 0x12] ∧ ∃ t, exec (.bypass b) s = .next t ∧ t = { s with
          drawnValues := s.drawnValues + 1, lenmus := { x with ir := ir, out := [0], bypass := b } })

/-! Solstice. -/

/-- Stops and resumes (23 R449 to R451), the release of a parked group (R457), and the record of a sample (R461).
It rests on choices of the model, which no rule states: log 46, 50, 100. -/
def Obligations.StopsAndSamples : Prop :=
  ∀ (s : State) (d : Nat), d < 16 →
    let least (x : W64) : W64 := if x.toNat < s.tick + 256 then BitVec.ofNat 64 (s.tick + 256) else x
    let plain (t : State) : Prop := t.mem = s.mem ∧ t.cohorts = s.cohorts
    (∀ v : W64, s.sec.powered = true → s.sol.stopped = false → s.sol.arm = false → v.getLsbD 63 = true →
      ∃ t, exec (.solStopArm d v) s = .next t ∧ plain t
        ∧ (t.sol.arm, t.sol.stopped, t.sol.dies, t.sol.stopAt) = (true, false, v.setWidth 16, least s.sol.stopAt))
    ∧ (s.sec.powered = true → s.sol.arm = true → (s.die d).stopped = false → (s.sol.dies = 0 ∨ s.sol.dies.getLsbD d = true) →
      s.sol.stopAt.toNat ≤ s.tick →
      ∃ t, exec (.solsticeStop d) s = .next t ∧ plain t ∧ (t.die d).stopped = true ∧ t.sol.stopped = true
        ∧ t.sol.tick = (if s.sol.stopped then s.sol.tick else s.tick) ∧ ∀ e, e ≠ d → t.die e = s.die e)
    ∧ (∀ v, s.sec.powered = true → s.sol.stopped = true → ∃ t, exec (.solResume d v) s = .next t ∧ plain t ∧ t.dies = s.dies
        ∧ (t.sol.resuming, t.sol.stopped, t.sol.resumeAt) = (true, true, least s.sol.resumeAt))
    ∧ (s.sol.stopped = true → s.sol.resuming = true → s.sol.resumeAt.toNat ≤ s.tick → s.noOutside →
      ∃ t, exec .solsticeResume s = .next t ∧ plain t ∧ (t.sol.arm, t.sol.stopped, t.sol.resuming) = (false, false, false)
        ∧ ∀ e, (t.die e).stopped = false)
    ∧ (∀ n p c e, s.calendsAwake d = true → (s.die d).parks.getD n none = some p → s.cohort? ⟨d, p.core, p.slot⟩ = some c →
      p.holds ⟨d, p.core, p.slot⟩ c = true → c.frontier.find? (fun y => y.prio = p.prio && y.pc = p.pc) = some e →
      ∃ t, exec (.parkGo d n) s = .next t ∧ t.mem = s.mem ∧ (t.die d).parks.getD n none = none
        ∧ t.cohort? ⟨d, p.core, p.slot⟩ = some { c with
            lanes := c.lanes.map fun y => if e.mask.getLsbD y.1 then (y.1, { y.2 with skip := some p.bp }) else y })
    ∧ ∀ n x, s.memOk → (s.core d n).sample = some x → s.awake d = true → s.sampleDone d n x = true →
      let size := 4096 * s.dcrBits d offSMPSIZE 31 12
      let at_ := 4096 * s.dcrBits d offSMPBASE 56 12 + 64 * (s.die d).sampled % size
      size ≠ 0 → s.homeAwake at_ ⟨d, n, 0⟩ none false = true → s.frzCount at_ = 0 → x.out < 4 → n < 64 → x.slot < 16 → x.level < 256 →
      ∃ t, exec (.sampleRecord d n) s = .next t ∧ t.cohorts = s.cohorts ∧ (t.core d n).sample = none
        ∧ (let y := t.homeNat at_ 64
          bits y 511 448 = x.tick % 2 ^ 64 ∧ bits y 447 391 = x.pc % 2 ^ 57 ∧ bits y 383 320 = x.mask.toNat ∧ bits y 239 232 = x.level
          ∧ (bits y 223 220, bits y 219 214, bits y 213 210, bits y 209 208) = (x.slot, n, d, x.out) ∧ bits y 191 160 = x.gang % 2 ^ 32)
        ∧ ∀ a, (a < at_ ∨ at_ + 64 ≤ a) → Memory.read t.mem a = Memory.read s.mem a

/-! The Almanac and capsules. -/

/-- Cuts (22 R433 to R439, R443, R444): a request opens a cut in an empty vault slot; it reaches a die; the die's Almanacs freeze; each is
copied, oldest record first, and resumes; the capsule is sealed with the next sequence number and signed with the next leaf.
It rests on choices of the model, which no rule states: log 15, 35, 96, 97, 149. -/
def Obligations.CutsAndCapsules : Prop :=
  ∀ s : State,
    (∀ d v, d < 16 → s.calendsAwake d = true → v.getLsbD 63 = true → s.cuts = [] → s.vault.length = 4 → (s.vault.getD 0 {}).state = 0 →
      ∃ t c, exec (.almCutreq d v) s = .next t ∧ t.cuts = [c] ∧ t.cohorts = s.cohorts ∧ t.mem = s.mem ∧ (t.vault.getD 0 {}).state = 1
        ∧ (c.subj, c.t0, c.started, c.slot, c.notified) = (bits v.toNat 11 0, s.tick, true, 0, [d]) ∧ c.causes.length = 1
        ∧ ∀ e, e ∈ c.dies ↔ e < 16 ∧ (c.subj = 0 ∨ s.pid e = c.subj))
    ∧ ∀ c, (s.cuts.filter fun x => x.id = c.id) = [c] → c.started = true → c.isSealed = false →
      (∀ d, d < 16 → c.notified.contains d = false → s.awake d = true → ∃ t, exec (.cut c.id d) s = .next t
        ∧ t.cuts = (s.cuts.map fun x => if x.id = c.id then { c with notified := d :: c.notified } else x).filter
            (fun x => !(x.isSealed && decide (16 ≤ x.notified.length)))
        ∧ t.dcr d offALMT0 = BitVec.ofNat 64 c.t0 ∧ t.cohorts = s.cohorts ∧ t.mem = s.mem)
      ∧ (∀ d, c.dies.contains d = true → c.notified.contains d = true → c.frozen.contains d = false → c.t0 + 256 ≤ s.tick → s.awake d = true →
        ∃ t, exec (.almanacFreeze c.id d) s = .next t ∧ t.cohorts = s.cohorts ∧ t.mem = s.mem
          ∧ t.cuts = s.cuts.map (fun x => if x.id = c.id then { c with frozen := d :: c.frozen } else x)
          ∧ (∀ k < 48, (t.core d k).alm = { (s.core d k).alm with frozen := some s.tick })
          ∧ (t.die d).schedAlm = { (s.die d).schedAlm with frozen := some s.tick })
      ∧ (∀ d k, k < 48 → c.frozen.contains d = true → c.copied.contains (d, k) = false → (∀ j < k, c.copied.contains (d, j) = true) →
        s.awake d = true →
        ∃ t x, exec (.almanacCopyDone c.id d (.core k)) s = .next t ∧ t.cohorts = s.cohorts ∧ t.mem = s.mem
          ∧ t.cuts = s.cuts.map (fun y => if y.id = c.id then { c with copied := (d, k) :: c.copied, sections := c.sections ++ [x] } else y)
          ∧ (x.kind, x.die, x.core, x.owner, x.recs) = (1, d, k, s.pid d, (s.core d k).alm.recs.reverse) ∧ (t.core d k).alm.frozen = none)
      ∧ (s.memOk → (∀ d ∈ c.dies, c.copied.contains (d, 48) = true) → s.sec.powered = true → s.xmssLeaf < xmssLeaves → c.slot < s.vault.length →
        c.causes.length ≤ 8 →
        ∃ t, exec (.capsuleSeal c.id) s = .next t ∧ t.cohorts = s.cohorts
          ∧ (t.capsuleSeq, t.xmssLeaf) = (s.capsuleSeq + 1, s.xmssLeaf + 1) ∧ t.homeNat (vaultAt c.slot) 4 = 0x5041435A
          ∧ t.vault.getD c.slot {} = { state := 2, seq := s.capsuleSeq + 1, size := capsuleSize c, subj := c.subj
                                       lost := (s.vault.getD c.slot {}).lost }
          ∧ ∀ a, (a < vaultAt c.slot ∨ vaultAt c.slot + 2 ^ 27 ≤ a) → capsuleSize c ≤ 2 ^ 27 → (∀ x ∈ c.sections, x.recs.length ≤ 8192
              ∧ x.die < 16 ∧ x.core < 48) → Memory.read t.mem a = Memory.read s.mem a)

/-! Checkpoints. -/

/-- The checkpoint engine (24 R463 to R469): a capture starts and pre-empts the partition; with nothing in flight the set is written; the
buddy's time runs out; a release lets the gangs go on; a restore finds no manifest, or puts the chunks back.
It rests on choices of the model, which no rule states: log 109, 110, 111, 112, 113, 114. -/
def Obligations.CheckpointSteps : Prop :=
  ∀ (s : State) (d : Nat), s.ckAwake d = true → s.isCkDie d = true →
    let pid := s.pid d
    let x := s.ck pid
    let becomes (t : State) (state result : Nat) (epoch : W32) : Prop :=
      ((t.ck pid).state, (t.ck pid).result, (t.ck pid).epoch) = (state, result, epoch)
    (x.state = 0 → s.matOps = [] → (∀ e < 16, (s.die e).preempt = none) →
      (∀ y ∈ s.cohorts, y.2.preempting = false ∧ ∀ p ∈ y.2.lanes, ∀ b k2, p.2.status ≠ .parked b k2) →
      ∃ t, exec (.ckCapture d) s = .next t ∧ becomes t 1 0 (x.epoch + 1) ∧ t.mem = s.mem
        ∧ ∀ k c, s.cohort? k = some c → c.priv = false → k.die < 16 → s.pid k.die = pid →
          t.cohort? k = some { c with preempting := true, lanes := c.lanes.map fun y => (y.1, { y.2 with preemptDue := true }) })
    ∧ (x.state = 1 → s.ckQuiet pid = true → ∀ ok s1, (s.ckFlush pid).ckWrite d = (ok, s1) →
      (ok = false → ∃ t, exec (.ckQuiesceDone d) s = .next t ∧ becomes t 4 2 x.epoch ∧ t.mem = s1.mem)
      ∧ (ok = true → s.ckSelf d = true →
        ∃ t, exec (.ckQuiesceDone d) s = .next t ∧ becomes t 4 1 x.epoch ∧ t.mem = s1.mem))
    ∧ (x.state = 3 → 1000000000 ≤ x.waited → ∃ t, exec (.ckBuddyTimeout d) s = .next t ∧ becomes t 4 3 x.epoch ∧ t.mem = s.mem
        ∧ t.cohorts = s.cohorts)
    ∧ (x.state = 4 → s.noOutside → (s.dies.map fun y => y.1).Nodup → ∃ t, exec (.ckRelease d) s = .next t ∧ becomes t 0 x.result x.epoch
        ∧ t.mem = s.mem ∧ t.cohorts = s.cohorts
        ∧ ∀ g ∈ s.gangs, g.pid = pid → g.images ≠ [] → ∃ e w, s.pid e = pid ∧ (g.id, w) ∈ (t.die e).requeue)
    ∧ (x.state = 0 ∨ x.state = 4 → (∀ g ∈ s.gangs, g.pid ≠ pid) →
      ∀ i half pkg, (i, half, pkg) ∈ [(Instr.ckRestoreOwn d, s.ckHalf d false, some (s.dcrBits d offPKGID 11 0)),
        (Instr.ckRestoreSrc d, s.ckHalf d true, none)] →
      s.dcrBits d offCKSRC 63 52 = s.dcrBits d offPKGID 11 0 →
      (s.ckManifest d pkg half = none → ∃ t, exec i s = .next t ∧ becomes t 0 4 x.epoch ∧ t.mem = s.mem)
      ∧ ∀ m, s.memOk → s.ckManifest d pkg half = some m → m.sound = true → m.table.length = 64 → x.blob = none →
        let e := ofBytes m.table
        bit e 0 = false →
        ∃ t, exec i s = .next t ∧ becomes t 4 1 m.epoch ∧ t.cohorts = s.cohorts
          ∧ ∀ j < chunkBytes, Memory.read t.mem (chunkBytes * bits e 56 20 + j) = Memory.read s.mem ((s.ckArea d).1 + bits e 255 192 + j))

/-! The machine as a whole. -/

/-- Decoding and encoding agree (08 R164 to R180): every well-formed instruction is what its encoding decodes to, whatever follows it;
and bytes that decode are the encoding of what they decode to.
It rests on choices of the model, which no rule states: log 37, 38. -/
def Obligations.DecodeAndEncodeAgree : Prop :=
  (∀ i : Instr, i.op.isSome = true → i.wf = true → ∀ rest, decode (encode i ++ rest) = .ok (i, rest))
  ∧ ∀ bs i rest, decode bs = .ok (i, rest) → encode i ++ rest = bs

/-- Words that the specification writes out decode to the instructions they stand for (08 R164 to R178; 09 R188, R201, R203, R215;
10 R218, R232, R235). -/
def Obligations.WorkedWordsDecode : Prop :=
  let ext (ws : List Nat) : Option Instr := decodeTableWord 96 (ws.zipIdx.map fun x => x.1 * 2 ^ (32 * x.2)).sum
  ext [0x00080802, 0x06000012, 0] = some (.iadd { a := 2, d := 1, ext := true, b := 3, ty := 4, xm := true })
  ∧ ext [0x00182342, 0x102AAC24, 0] = some (.ffma { a := 6, d := 4, ext := true, b := 8, c := 10, gv := true, gp := 2, gs := true, rs := 3
                                                    lrc := true, ty := 1 })
  ∧ ext [0xFF0000F6, 0x00108300, 0x20408080] = some (.pair { immY := 0xFF, immX := 0, x := { op := 0, d := 1, a := 2, b := 3 }
                                                             y := { op := 8, d := 4, a := 2, bi := true } })
  ∧ ext [0x00085282, 0x00024000, 6] = some (.xred { a := 2, d := 10, ext := true, gv := true, gp := 1, w2 := 6 })
  ∧ decodeTableWord 32 0x0E182800 = some (.iadd { top := 7, a := 6, d := 5 })
  ∧ decodeTableWord 32 0x12048818 = some (.icmp { top := 9, a := 1, d := 0x11 })
  ∧ decodeTableWord 32 0x0A101840 = some (.fadd { top := 5, a := 4, d := 3, rs := 5 })
  ∧ decodeTableWord 32 0x20183870 = some (.rcp { top := 0x10, a := 6, d := 7 })
  ∧ decodeTableWord 32 0x000007F0 = some (.nop {})

/-- A step runs the decoded instruction (02 R34; 08 R164, R180; 17 R355). The entry that an active cohort selects, when no cohort that
issued less recently goes first and nothing is due before it, runs the instruction that the words at its PC decode to, and then the issue is traced and sampled; one that a check of R180
refuses raises ILLEGAL. In a supervisor cohort the words are those of physical memory as its core sees it. A step of an engine or
outside party runs in its own turn, a unit of memory becomes uncorrectable in one, and time passes in turns of time.
It rests on choices of the model, which no rule states: log 1, 45, 46, 139, 160. -/
def Obligations.StepRunsInstruction : Prop :=
  ∀ (s : State) (rest : List Turn),
    let u : State := { s with agenda := rest }
    let runs (ins : Instr) (v : State) : Prop := step s = match exec ins v with
      | .next x => .next (x.issued v)
      | r => r
    (∀ k c e, s.agenda = .issue k :: rest → u.cohort? k = some c → u.awake k.die = true → c.halted = false → c.active = true →
      c.stall = none → (c.priv = false → u.ckState (u.pid k.die) < 4) → u.groupParked k c = false → c.frontier ≠ [] → c.select = some e →
      u.ahead k = [] →
      let i : Issue := { key := k, prio := e.prio, pc := e.pc, mask := e.mask, age := e.age, bytes := 4, word := 0 }
      let v := u.takeAtomics k e.mask
      v.lateFx i = [] → v.boundaryFx i = .none → v.heldAlone k e.mask = false → v.owesPred k e.mask = false →
      (∀ w more t t1 ins left, v.fetchWords k c.priv i.lanes e.pc e.pc 1 = (.ok [w], t) →
        t.fetchWords k c.priv i.lanes e.pc (e.pc + 4) ((wordLength w - 4) / 4) = (.ok more, t1) →
        decode ((w :: more).flatMap wordBytes) = .ok (ins, left) →
        let j : Issue := { i with bytes := wordLength w, word := w }
        (ins.illegalCause c.peak c.priv = none → runs ins { t1 with issue := some j })
        ∧ ∀ n, ins.illegalCause c.peak c.priv = some n → step s = .next (t1.raiseAll j (illegal j n)))
      ∧ ∀ ins, c.priv = true → ins.op.isSome = true → ins.wf = true → ins.illegalCause c.peak true = none →
        let bs := encode ins
        v.viewN (observerOf k) e.pc bs.length = bs →
        (∀ j, 4 * j < bs.length → v.physOk k.die (e.pc + 4 * j) = true ∧ v.badAt (e.pc + 4 * j) 4 = false) →
        runs ins { v with issue := some { i with bytes := bs.length, word := BitVec.ofNat 32 (ofBytes (bs.take 4)) } })
    ∧ (∀ x, s.agenda = .event x :: rest → x.op = none → step s = exec x u)
    ∧ (∀ n, s.agenda = .spoil n :: rest → step s = .next (u.spoil n))
    ∧ ∀ n, s.agenda = .elapse n :: rest → step s = .next (u.elapse n)

/-- No step stops, from any state: an instruction or step of the table has an effect or waits, and nothing is undefined as an
instruction.
It rests on choices of the model, which no rule states: log 1. -/
def Obligations.NoStepStops : Prop := ∀ s : State, ∃ t, step s = .next t

/-- Memory keeps its canonical form in every step: addresses rise, and no byte is listed that an unlisted address reads as.
It rests on choices of the model, which no rule states: log 3. -/
def Obligations.MemoryStaysCanonical : Prop := ∀ s t : State, s.memOk → step s = .next t → t.memOk

/-- What reset leaves (17 R361, R362; 19 R406; 22 R433, R444; 23 R449, R461; 25 R471, R473, R477): the device control registers of
every die at the values of their tables, nothing bound, resident or in flight, empty vault, no link trained, and canonical memory.
It rests on choices of the model, which no rule states: log 3, 7, 23, 24, 140. -/
def Obligations.ResetState : Prop :=
  let s := State.reset
  s.memOk ∧ s.mem = [] ∧ s.cohorts = [] ∧ s.gangs = [] ∧ s.writes = [] ∧ s.loads = [] ∧ s.atomics = [] ∧ s.jobs = [] ∧ s.matOps = []
  ∧ (∀ d, s.dcr d 0x600000 = 0x0F162100 ∧ s.dcr d 0x100070 = 0x64 ∧ s.dcr d 0x200000 = 0x120 ∧ s.dcr d 0x300440 = 0x1000
      ∧ s.dcr d 0x500008 = 0x80
      ∧ ∀ off, off ∉ [0x600000, 0x100070, 0x200000, 0x300440, 0x500000, 0x500008] → s.dcr d off = 0)
  ∧ s.dcr 0 0x500000 = 0x36B0
  ∧ (∀ d, (s.die d).frq = [] ∧ (s.die d).tlb = [] ∧ (s.die d).walks = [] ∧ (s.die d).frzTable = [] ∧ (s.die d).hot = [] ∧ (s.die d).irq = [])
  ∧ (∀ d n, (s.core d n).tlb = [] ∧ (s.core d n).pages = [] ∧ (s.core d n).sideLog = []) ∧ s.noOutside
  ∧ s.vault.map (fun v => v.state) = [0, 0, 0, 0] ∧ (∀ l, s.hostLinkUp l = false) ∧ s.sol.stopped = false ∧ s.sol.arm = false
  ∧ s.tick = 0
end

