-- ==== Sys2Proof/Laws/Maps.lean ====
section
/-! SUPPORT. Association lists read back what was put into them, and every operation on memory keeps its canonical form. -/

namespace Sys2Proof.Machine

/-! Lists of keys and values. -/

section
variable {κ α β : Type} [DecidableEq κ]

theorem lookup_insertKey (m : List (κ × α)) (x y : κ) (a : α) :
    lookup (insertKey m x a) y = if x = y then some a else lookup m y := by
  induction m with
  | nil => simp [insertKey, lookup]
  | cons p m ih =>
    obtain ⟨k, v⟩ := p
    by_cases h : k = x
    · subst h; simp only [insertKey, lookup, if_true]; split <;> simp_all
    · by_cases h' : k = y
      · subst h'; simp [insertKey, lookup, h, Ne.symm h]
      · simp [insertKey, lookup, h, h', ih]

@[simp] theorem lookup_insertKey_same (m : List (κ × α)) (x : κ) (a : α) : lookup (insertKey m x a) x = some a := by
  simp [lookup_insertKey]

theorem lookup_insertKey_other (m : List (κ × α)) {x y : κ} (a : α) (h : x ≠ y) :
    lookup (insertKey m x a) y = lookup m y := by simp [lookup_insertKey, h]

theorem insertKey_insertKey (m : List (κ × α)) (x : κ) (a b : α) : insertKey (insertKey m x a) x b = insertKey m x b := by
  induction m with
  | nil => simp [insertKey]
  | cons p m ih =>
    obtain ⟨k, v⟩ := p
    unfold insertKey
    by_cases h : k = x
    · simp [h, insertKey]
    · simp [h, insertKey, ih]

theorem lookup_removeKey (m : List (κ × α)) (x y : κ) :
    lookup (removeKey m x) y = if x = y then none else lookup m y := by
  induction m with
  | nil => simp [removeKey, lookup]
  | cons p m ih =>
    obtain ⟨k, v⟩ := p
    by_cases h : k = x
    · subst h; by_cases h' : k = y <;> simp_all [removeKey, lookup]
    · by_cases h' : k = y
      · subst h'; simp [removeKey, lookup, h, Ne.symm h]
      · simp [removeKey, lookup, h, h', ih]

/-- Looking up in a list whose values were changed, key by key. -/
theorem lookup_map (m : List (κ × α)) (f : κ → α → β) (x : κ) :
    lookup (m.map fun p => (p.1, f p.1 p.2)) x = (lookup m x).map (f x) := by
  induction m with
  | nil => rfl
  | cons p m ih =>
    obtain ⟨k, v⟩ := p
    by_cases h : k = x
    · subst h; simp [lookup]
    · simp [lookup, h, ih]

end

section
variable {α β : Type}

theorem numGet_numSet (m : List (Nat × α)) (x y : Nat) (a : α) :
    numGet (numSet m x a) y = if x = y then some a else numGet m y := by
  induction m with
  | nil => by_cases h : x = y <;> simp [numSet, numGet, h]
  | cons p m ih =>
    obtain ⟨k, v⟩ := p
    simp only [numSet]
    split
    · next h => subst h; by_cases h' : k = y <;> simp [numGet, h']
    · split
      · next h h1 =>
        by_cases h' : x = y
        · subst h'; simp [numGet]
        · simp only [numGet, h', if_false]
          by_cases hy : y < x
          · have : ¬ k = y := by omega
            have h2 : y < k := by omega
            simp [hy, this, h2]
          · simp [hy]
      · next h h1 =>
        by_cases h' : k = y
        · subst h'; simp [numGet, Ne.symm h]
        · simp only [numGet, h', if_false, ih]
          by_cases hx : x = y
          · subst hx; simp [h1]
          · simp [hx]

@[simp] theorem numGet_numSet_same (m : List (Nat × α)) (x : Nat) (a : α) : numGet (numSet m x a) x = some a := by
  simp [numGet_numSet]

theorem numGet_numSet_other (m : List (Nat × α)) {x y : Nat} (a : α) (h : x ≠ y) : numGet (numSet m x a) y = numGet m y := by
  simp [numGet_numSet, h]

/-- Looking up in a numbered list whose values were changed, number by number. -/
theorem numGet_map (m : List (Nat × α)) (f : Nat → α → β) (x : Nat) :
    numGet (m.map fun p => (p.1, f p.1 p.2)) x = (numGet m x).map (f x) := by
  induction m with
  | nil => rfl
  | cons p m ih =>
    obtain ⟨k, v⟩ := p
    by_cases h : k = x
    · subst h; simp [numGet]
    · by_cases h' : x < k <;> simp [numGet, h, h', ih]

/-- Numbers strictly rising. -/
abbrev Rising (m : List (Nat × α)) : Prop := m.Pairwise fun p q => p.1 < q.1

theorem numGet_none_of_lt {m : List (Nat × α)} {x : Nat} (h : ∀ p ∈ m, x < p.1) : numGet m x = none := by
  cases m with
  | nil => rfl
  | cons p m =>
    have := h p (by simp)
    have h' : ¬ p.1 = x := by omega
    simp [numGet, h', this]

theorem numGet_numErase {m : List (Nat × α)} (hm : Rising m) (x y : Nat) :
    numGet (numErase m x) y = if x = y then none else numGet m y := by
  induction m with
  | nil => simp [numErase, numGet]
  | cons p m ih =>
    obtain ⟨k, v⟩ := p
    rw [Rising, List.pairwise_cons] at hm
    simp only [numErase]
    split
    · next h =>
      subst h
      by_cases h' : k = y
      · subst h'; simp only [if_true]; exact numGet_none_of_lt fun p hp => hm.1 p hp
      · simp only [h', if_false, numGet]
        by_cases hy : y < k
        · simp only [hy, if_true]; exact numGet_none_of_lt fun p hp => lt_trans hy (hm.1 p hp)
        · simp [hy]
    · split
      · next h h1 =>
        by_cases h' : x = y
        · subst h'; simp [numGet, h, h1]
        · simp [h']
      · next h h1 =>
        by_cases h' : k = y
        · subst h'; simp [numGet, Ne.symm h]
        · simp only [numGet, h', if_false, ih hm.2]
          by_cases hx : x = y
          · subst hx; simp
          · simp [hx]

theorem mem_numSet {m : List (Nat × α)} {x : Nat} {a : α} {p : Nat × α} (h : p ∈ numSet m x a) : p = (x, a) ∨ p ∈ m := by
  induction m with
  | nil => simpa [numSet] using h
  | cons q m ih =>
    obtain ⟨k, v⟩ := q
    simp only [numSet] at h
    split at h
    · next hk =>
      subst hk
      rcases List.mem_cons.mp h with h | h
      · exact .inl h
      · exact .inr (List.mem_cons_of_mem _ h)
    · split at h
      · rcases List.mem_cons.mp h with h | h
        · exact .inl h
        · exact .inr h
      · rcases List.mem_cons.mp h with h | h
        · exact .inr (by simp [h])
        · exact (ih h).imp id (List.mem_cons_of_mem _)

theorem Rising.numSet {m : List (Nat × α)} (hm : Rising m) (x : Nat) (a : α) : Rising (numSet m x a) := by
  induction m with
  | nil => simp [Machine.numSet]
  | cons q m ih =>
    obtain ⟨k, v⟩ := q
    rw [Rising, List.pairwise_cons] at hm
    simp only [Machine.numSet]
    split
    · next hk => subst hk; exact List.pairwise_cons.mpr hm
    · split
      · next hk hx =>
        refine List.pairwise_cons.mpr ⟨fun p hp => ?_, List.pairwise_cons.mpr hm⟩
        rcases List.mem_cons.mp hp with rfl | hp
        · exact hx
        · exact lt_trans hx (hm.1 p hp)
      · next hk hx =>
        refine List.pairwise_cons.mpr ⟨fun p hp => ?_, ih hm.2⟩
        rcases mem_numSet hp with rfl | hp
        · show k < x; omega
        · exact hm.1 p hp

theorem numErase_sublist (m : List (Nat × α)) (x : Nat) : (numErase m x).Sublist m := by
  induction m with
  | nil => exact .slnil
  | cons q m ih =>
    obtain ⟨k, v⟩ := q
    simp only [numErase]
    split
    · exact List.sublist_cons_self _ _
    · split
      · exact List.Sublist.refl _
      · exact ih.cons_cons _

end

/-! Memory. -/

/-- The canonical form: addresses strictly rising, and no entry that reads as an unlisted address. -/
theorem Memory.wf_iff (m : List Host.Cell) : Memory.wf m = true ↔ Rising m ∧ ∀ c ∈ m, c.2 ≠ unlisted := by
  induction m with
  | nil => simp [Memory.wf]
  | cons p m ih =>
    obtain ⟨a, b⟩ := p
    cases m with
    | nil => simp [Memory.wf]
    | cons q m =>
      obtain ⟨a', b'⟩ := q
      simp only [Memory.wf, Bool.and_eq_true, decide_eq_true_eq, ih, Rising, List.pairwise_cons, List.forall_mem_cons]
      constructor
      · rintro ⟨⟨hb, ha⟩, ⟨h1, h2⟩, h3⟩
        exact ⟨⟨⟨ha, fun p hp => lt_trans ha (h1 p hp)⟩, h1, h2⟩, hb, h3⟩
      · rintro ⟨⟨⟨ha, _⟩, h1, h2⟩, hb, h3⟩
        exact ⟨⟨hb, ha⟩, ⟨h1, h2⟩, h3⟩

/-- Taking entries away keeps the form. -/
theorem Memory.wf_filter {m : List Host.Cell} (h : Memory.wf m = true) (p : Host.Cell → Bool) : Memory.wf (m.filter p) = true := by
  rw [Memory.wf_iff] at *
  exact ⟨h.1.filter _, fun c hc => h.2 c (List.mem_filter.mp hc).1⟩

theorem Memory.wf_write {m : List Host.Cell} (h : Memory.wf m = true) (a : Nat) (b : Byte) :
    Memory.wf (Memory.write m a b) = true := by
  rw [Memory.wf_iff] at *
  unfold Memory.write
  split
  · exact ⟨h.1.sublist (numErase_sublist _ _), fun c hc => h.2 c ((numErase_sublist _ _).subset hc)⟩
  · next hb =>
    refine ⟨h.1.numSet _ _, fun c hc => ?_⟩
    rcases mem_numSet hc with rfl | hc
    · exact hb
    · exact h.2 c hc

theorem Memory.wf_writeN {m : List Host.Cell} (h : Memory.wf m = true) (a : Nat) (bs : List Byte) :
    Memory.wf (Memory.writeN m a bs) = true := by
  induction bs generalizing m a with
  | nil => exact h
  | cons b bs ih => exact ih (Memory.wf_write h a b) _

theorem Memory.read_write {m : List Host.Cell} (h : Memory.wf m = true) (a x : Nat) (b : Byte) :
    Memory.read (Memory.write m a b) x = if a = x then b else Memory.read m x := by
  rw [Memory.wf_iff] at h
  unfold Memory.read Memory.write
  split
  · next hb => rw [numGet_numErase h.1]; split <;> simp_all
  · rw [numGet_numSet]; split <;> simp

/-- A byte after a write of bytes from an address up. -/
theorem Memory.read_writeN {m : List Host.Cell} (h : Memory.wf m = true) (a x : Nat) (bs : List Byte) :
    Memory.read (Memory.writeN m a bs) x
      = if a ≤ x ∧ x < a + bs.length then bs.getD (x - a) unlisted else Memory.read m x := by
  induction bs generalizing m a with
  | nil =>
    have : ¬ (a ≤ x ∧ x < a + ([] : List Byte).length) := by simp only [List.length_nil]; omega
    rw [if_neg this]; rfl
  | cons b bs ih =>
    rw [Memory.writeN, ih (Memory.wf_write h a b), Memory.read_write h]
    simp only [List.length_cons]
    by_cases h1 : a = x
    · subst h1; simp
    · by_cases h2 : a + 1 ≤ x ∧ x < a + 1 + bs.length
      · have h3 : a ≤ x ∧ x < a + (bs.length + 1) := by omega
        have h4 : x - a = (x - (a + 1)) + 1 := by omega
        rw [if_pos h2, if_pos h3, h4, List.getD_cons_succ]
      · have h3 : ¬ (a ≤ x ∧ x < a + (bs.length + 1)) := by omega
        rw [if_neg h2, if_neg h3, if_neg h1]

/-- Memories in canonical form that read alike are equal. -/
theorem Memory.ext {m m' : List Host.Cell} (h : Memory.wf m = true) (h' : Memory.wf m' = true)
    (e : ∀ a, Memory.read m a = Memory.read m' a) : m = m' := by
  rw [Memory.wf_iff] at h h'
  induction m generalizing m' with
  | nil =>
    cases m' with
    | nil => rfl
    | cons q m' =>
      have := e q.1
      simp only [Memory.read, numGet, Option.getD, if_true] at this
      exact absurd this.symm (h'.2 q (by simp))
  | cons p m ih =>
    obtain ⟨a, b⟩ := p
    have ha := h.1
    rw [Rising, List.pairwise_cons] at ha
    cases m' with
    | nil =>
      have := e a
      simp only [Memory.read, numGet, Option.getD, if_true] at this
      exact absurd this (h.2 (a, b) (by simp))
    | cons q m' =>
      obtain ⟨a', b'⟩ := q
      have ha' := h'.1
      rw [Rising, List.pairwise_cons] at ha'
      have key : a = a' := by
        rcases lt_trichotomy a a' with hlt | heq | hgt
        · have := e a
          have hne : ¬ a' = a := by omega
          simp only [Memory.read, numGet, Option.getD, if_true, hne, hlt, if_false] at this
          exact absurd this (h.2 (a, b) (by simp))
        · exact heq
        · have := e a'
          have hne : ¬ a = a' := by omega
          simp only [Memory.read, numGet, Option.getD, if_true, hne, hgt, if_false] at this
          exact absurd this.symm (h'.2 (a', b') (by simp))
      subst key
      have hb : b = b' := by
        have := e a
        simpa [Memory.read, numGet] using this
      subst hb
      congr 1
      refine ih ⟨ha.2, fun c hc => h.2 c (List.mem_cons_of_mem _ hc)⟩
        ⟨ha'.2, fun c hc => h'.2 c (List.mem_cons_of_mem _ hc)⟩ fun x => ?_
      by_cases hx : x ≤ a
      · have n1 : numGet m x = none := numGet_none_of_lt fun p hp => by have := ha.1 p hp; omega
        have n2 : numGet m' x = none := numGet_none_of_lt fun p hp => by have := ha'.1 p hp; omega
        simp [Memory.read, n1, n2]
      · have := e x
        have h1 : ¬ a = x := by omega
        have h2 : ¬ x < a := by omega
        simpa [Memory.read, numGet, h1, h2] using this

end Sys2Proof.Machine
end

