-- ==== Sys2Proof/Laws/State.lean ====
section
/-! SUPPORT. What each update of the state leaves alone: one lemma per field and update. -/

namespace Sys2Proof.Machine


/-! `setCohort`. -/

@[simp] theorem State.setCohort_cores (s : State) (k : CohKey) (c : Cohort) : (s.setCohort k c).cores = s.cores := rfl
@[simp] theorem State.setCohort_dies (s : State) (k : CohKey) (c : Cohort) : (s.setCohort k c).dies = s.dies := rfl
@[simp] theorem State.setCohort_mem (s : State) (k : CohKey) (c : Cohort) : (s.setCohort k c).mem = s.mem := rfl
@[simp] theorem State.setCohort_views (s : State) (k : CohKey) (c : Cohort) : (s.setCohort k c).views = s.views := rfl
@[simp] theorem State.setCohort_bad (s : State) (k : CohKey) (c : Cohort) : (s.setCohort k c).bad = s.bad := rfl
@[simp] theorem State.setCohort_writes (s : State) (k : CohKey) (c : Cohort) : (s.setCohort k c).writes = s.writes := rfl
@[simp] theorem State.setCohort_loads (s : State) (k : CohKey) (c : Cohort) : (s.setCohort k c).loads = s.loads := rfl
@[simp] theorem State.setCohort_atomics (s : State) (k : CohKey) (c : Cohort) : (s.setCohort k c).atomics = s.atomics := rfl
@[simp] theorem State.setCohort_holds (s : State) (k : CohKey) (c : Cohort) : (s.setCohort k c).holds = s.holds := rfl
@[simp] theorem State.setCohort_segs (s : State) (k : CohKey) (c : Cohort) : (s.setCohort k c).segs = s.segs := rfl
@[simp] theorem State.setCohort_gangs (s : State) (k : CohKey) (c : Cohort) : (s.setCohort k c).gangs = s.gangs := rfl
@[simp] theorem State.setCohort_barriers (s : State) (k : CohKey) (c : Cohort) : (s.setCohort k c).barriers = s.barriers := rfl
@[simp] theorem State.setCohort_matOps (s : State) (k : CohKey) (c : Cohort) : (s.setCohort k c).matOps = s.matOps := rfl
@[simp] theorem State.setCohort_jobs (s : State) (k : CohKey) (c : Cohort) : (s.setCohort k c).jobs = s.jobs := rfl
@[simp] theorem State.setCohort_qwaits (s : State) (k : CohKey) (c : Cohort) : (s.setCohort k c).qwaits = s.qwaits := rfl
@[simp] theorem State.setCohort_qreqs (s : State) (k : CohKey) (c : Cohort) : (s.setCohort k c).qreqs = s.qreqs := rfl
@[simp] theorem State.setCohort_cuts (s : State) (k : CohKey) (c : Cohort) : (s.setCohort k c).cuts = s.cuts := rfl
@[simp] theorem State.setCohort_vault (s : State) (k : CohKey) (c : Cohort) : (s.setCohort k c).vault = s.vault := rfl
@[simp] theorem State.setCohort_vaultDropped (s : State) (k : CohKey) (c : Cohort) : (s.setCohort k c).vaultDropped = s.vaultDropped := rfl
@[simp] theorem State.setCohort_capsuleSeq (s : State) (k : CohKey) (c : Cohort) : (s.setCohort k c).capsuleSeq = s.capsuleSeq := rfl
@[simp] theorem State.setCohort_xmssLeaf (s : State) (k : CohKey) (c : Cohort) : (s.setCohort k c).xmssLeaf = s.xmssLeaf := rfl
@[simp] theorem State.setCohort_tick (s : State) (k : CohKey) (c : Cohort) : (s.setCohort k c).tick = s.tick := rfl
@[simp] theorem State.setCohort_nextId (s : State) (k : CohKey) (c : Cohort) : (s.setCohort k c).nextId = s.nextId := rfl
@[simp] theorem State.setCohort_issues (s : State) (k : CohKey) (c : Cohort) : (s.setCohort k c).issues = s.issues := rfl
@[simp] theorem State.setCohort_readied (s : State) (k : CohKey) (c : Cohort) : (s.setCohort k c).readied = s.readied := rfl
@[simp] theorem State.setCohort_fibres (s : State) (k : CohKey) (c : Cohort) : (s.setCohort k c).fibres = s.fibres := rfl
@[simp] theorem State.setCohort_links (s : State) (k : CohKey) (c : Cohort) : (s.setCohort k c).links = s.links := rfl
@[simp] theorem State.setCohort_wire (s : State) (k : CohKey) (c : Cohort) : (s.setCohort k c).wire = s.wire := rfl
@[simp] theorem State.setCohort_hostPairs (s : State) (k : CohKey) (c : Cohort) : (s.setCohort k c).hostPairs = s.hostPairs := rfl
@[simp] theorem State.setCohort_hostHeld (s : State) (k : CohKey) (c : Cohort) : (s.setCohort k c).hostHeld = s.hostHeld := rfl
@[simp] theorem State.setCohort_hostOut (s : State) (k : CohKey) (c : Cohort) : (s.setCohort k c).hostOut = s.hostOut := rfl
@[simp] theorem State.setCohort_hostMsi (s : State) (k : CohKey) (c : Cohort) : (s.setCohort k c).hostMsi = s.hostMsi := rfl
@[simp] theorem State.setCohort_sec (s : State) (k : CohKey) (c : Cohort) : (s.setCohort k c).sec = s.sec := rfl
@[simp] theorem State.setCohort_sol (s : State) (k : CohKey) (c : Cohort) : (s.setCohort k c).sol = s.sol := rfl
@[simp] theorem State.setCohort_lenmus (s : State) (k : CohKey) (c : Cohort) : (s.setCohort k c).lenmus = s.lenmus := rfl
@[simp] theorem State.setCohort_cks (s : State) (k : CohKey) (c : Cohort) : (s.setCohort k c).cks = s.cks := rfl
@[simp] theorem State.setCohort_arbiter (s : State) (k : CohKey) (c : Cohort) : (s.setCohort k c).arbiter = s.arbiter := rfl
@[simp] theorem State.setCohort_issue (s : State) (k : CohKey) (c : Cohort) : (s.setCohort k c).issue = s.issue := rfl
@[simp] theorem State.setCohort_agenda (s : State) (k : CohKey) (c : Cohort) : (s.setCohort k c).agenda = s.agenda := rfl
@[simp] theorem State.setCohort_choices (s : State) (k : CohKey) (c : Cohort) : (s.setCohort k c).choices = s.choices := rfl
@[simp] theorem State.setCohort_drawn (s : State) (k : CohKey) (c : Cohort) : (s.setCohort k c).drawn = s.drawn := rfl
@[simp] theorem State.setCohort_drawnValues (s : State) (k : CohKey) (c : Cohort) : (s.setCohort k c).drawnValues = s.drawnValues := rfl

/-! `dropCohort`. -/

@[simp] theorem State.dropCohort_cores (s : State) (k : CohKey) : (s.dropCohort k).cores = s.cores := rfl
@[simp] theorem State.dropCohort_dies (s : State) (k : CohKey) : (s.dropCohort k).dies = s.dies := rfl
@[simp] theorem State.dropCohort_mem (s : State) (k : CohKey) : (s.dropCohort k).mem = s.mem := rfl
@[simp] theorem State.dropCohort_views (s : State) (k : CohKey) : (s.dropCohort k).views = s.views := rfl
@[simp] theorem State.dropCohort_bad (s : State) (k : CohKey) : (s.dropCohort k).bad = s.bad := rfl
@[simp] theorem State.dropCohort_writes (s : State) (k : CohKey) : (s.dropCohort k).writes = s.writes := rfl
@[simp] theorem State.dropCohort_loads (s : State) (k : CohKey) : (s.dropCohort k).loads = s.loads := rfl
@[simp] theorem State.dropCohort_atomics (s : State) (k : CohKey) : (s.dropCohort k).atomics = s.atomics := rfl
@[simp] theorem State.dropCohort_holds (s : State) (k : CohKey) : (s.dropCohort k).holds = s.holds := rfl
@[simp] theorem State.dropCohort_segs (s : State) (k : CohKey) : (s.dropCohort k).segs = s.segs := rfl
@[simp] theorem State.dropCohort_gangs (s : State) (k : CohKey) : (s.dropCohort k).gangs = s.gangs := rfl
@[simp] theorem State.dropCohort_barriers (s : State) (k : CohKey) : (s.dropCohort k).barriers = s.barriers := rfl
@[simp] theorem State.dropCohort_matOps (s : State) (k : CohKey) : (s.dropCohort k).matOps = s.matOps := rfl
@[simp] theorem State.dropCohort_jobs (s : State) (k : CohKey) : (s.dropCohort k).jobs = s.jobs := rfl
@[simp] theorem State.dropCohort_qwaits (s : State) (k : CohKey) : (s.dropCohort k).qwaits = s.qwaits := rfl
@[simp] theorem State.dropCohort_qreqs (s : State) (k : CohKey) : (s.dropCohort k).qreqs = s.qreqs := rfl
@[simp] theorem State.dropCohort_cuts (s : State) (k : CohKey) : (s.dropCohort k).cuts = s.cuts := rfl
@[simp] theorem State.dropCohort_vault (s : State) (k : CohKey) : (s.dropCohort k).vault = s.vault := rfl
@[simp] theorem State.dropCohort_vaultDropped (s : State) (k : CohKey) : (s.dropCohort k).vaultDropped = s.vaultDropped := rfl
@[simp] theorem State.dropCohort_capsuleSeq (s : State) (k : CohKey) : (s.dropCohort k).capsuleSeq = s.capsuleSeq := rfl
@[simp] theorem State.dropCohort_xmssLeaf (s : State) (k : CohKey) : (s.dropCohort k).xmssLeaf = s.xmssLeaf := rfl
@[simp] theorem State.dropCohort_tick (s : State) (k : CohKey) : (s.dropCohort k).tick = s.tick := rfl
@[simp] theorem State.dropCohort_nextId (s : State) (k : CohKey) : (s.dropCohort k).nextId = s.nextId := rfl
@[simp] theorem State.dropCohort_issues (s : State) (k : CohKey) : (s.dropCohort k).issues = s.issues := rfl
@[simp] theorem State.dropCohort_readied (s : State) (k : CohKey) : (s.dropCohort k).readied = s.readied := rfl
@[simp] theorem State.dropCohort_fibres (s : State) (k : CohKey) : (s.dropCohort k).fibres = s.fibres := rfl
@[simp] theorem State.dropCohort_links (s : State) (k : CohKey) : (s.dropCohort k).links = s.links := rfl
@[simp] theorem State.dropCohort_wire (s : State) (k : CohKey) : (s.dropCohort k).wire = s.wire := rfl
@[simp] theorem State.dropCohort_hostPairs (s : State) (k : CohKey) : (s.dropCohort k).hostPairs = s.hostPairs := rfl
@[simp] theorem State.dropCohort_hostHeld (s : State) (k : CohKey) : (s.dropCohort k).hostHeld = s.hostHeld := rfl
@[simp] theorem State.dropCohort_hostOut (s : State) (k : CohKey) : (s.dropCohort k).hostOut = s.hostOut := rfl
@[simp] theorem State.dropCohort_hostMsi (s : State) (k : CohKey) : (s.dropCohort k).hostMsi = s.hostMsi := rfl
@[simp] theorem State.dropCohort_sec (s : State) (k : CohKey) : (s.dropCohort k).sec = s.sec := rfl
@[simp] theorem State.dropCohort_sol (s : State) (k : CohKey) : (s.dropCohort k).sol = s.sol := rfl
@[simp] theorem State.dropCohort_lenmus (s : State) (k : CohKey) : (s.dropCohort k).lenmus = s.lenmus := rfl
@[simp] theorem State.dropCohort_cks (s : State) (k : CohKey) : (s.dropCohort k).cks = s.cks := rfl
@[simp] theorem State.dropCohort_arbiter (s : State) (k : CohKey) : (s.dropCohort k).arbiter = s.arbiter := rfl
@[simp] theorem State.dropCohort_issue (s : State) (k : CohKey) : (s.dropCohort k).issue = s.issue := rfl
@[simp] theorem State.dropCohort_agenda (s : State) (k : CohKey) : (s.dropCohort k).agenda = s.agenda := rfl
@[simp] theorem State.dropCohort_choices (s : State) (k : CohKey) : (s.dropCohort k).choices = s.choices := rfl
@[simp] theorem State.dropCohort_drawn (s : State) (k : CohKey) : (s.dropCohort k).drawn = s.drawn := rfl
@[simp] theorem State.dropCohort_drawnValues (s : State) (k : CohKey) : (s.dropCohort k).drawnValues = s.drawnValues := rfl

/-! `modCore`. -/

@[simp] theorem State.modCore_cohorts (s : State) (d c : Nat) (g : Core → Core) : (s.modCore d c g).cohorts = s.cohorts := rfl
@[simp] theorem State.modCore_dies (s : State) (d c : Nat) (g : Core → Core) : (s.modCore d c g).dies = s.dies := rfl
@[simp] theorem State.modCore_mem (s : State) (d c : Nat) (g : Core → Core) : (s.modCore d c g).mem = s.mem := rfl
@[simp] theorem State.modCore_views (s : State) (d c : Nat) (g : Core → Core) : (s.modCore d c g).views = s.views := rfl
@[simp] theorem State.modCore_bad (s : State) (d c : Nat) (g : Core → Core) : (s.modCore d c g).bad = s.bad := rfl
@[simp] theorem State.modCore_writes (s : State) (d c : Nat) (g : Core → Core) : (s.modCore d c g).writes = s.writes := rfl
@[simp] theorem State.modCore_loads (s : State) (d c : Nat) (g : Core → Core) : (s.modCore d c g).loads = s.loads := rfl
@[simp] theorem State.modCore_atomics (s : State) (d c : Nat) (g : Core → Core) : (s.modCore d c g).atomics = s.atomics := rfl
@[simp] theorem State.modCore_holds (s : State) (d c : Nat) (g : Core → Core) : (s.modCore d c g).holds = s.holds := rfl
@[simp] theorem State.modCore_segs (s : State) (d c : Nat) (g : Core → Core) : (s.modCore d c g).segs = s.segs := rfl
@[simp] theorem State.modCore_gangs (s : State) (d c : Nat) (g : Core → Core) : (s.modCore d c g).gangs = s.gangs := rfl
@[simp] theorem State.modCore_barriers (s : State) (d c : Nat) (g : Core → Core) : (s.modCore d c g).barriers = s.barriers := rfl
@[simp] theorem State.modCore_matOps (s : State) (d c : Nat) (g : Core → Core) : (s.modCore d c g).matOps = s.matOps := rfl
@[simp] theorem State.modCore_jobs (s : State) (d c : Nat) (g : Core → Core) : (s.modCore d c g).jobs = s.jobs := rfl
@[simp] theorem State.modCore_qwaits (s : State) (d c : Nat) (g : Core → Core) : (s.modCore d c g).qwaits = s.qwaits := rfl
@[simp] theorem State.modCore_qreqs (s : State) (d c : Nat) (g : Core → Core) : (s.modCore d c g).qreqs = s.qreqs := rfl
@[simp] theorem State.modCore_cuts (s : State) (d c : Nat) (g : Core → Core) : (s.modCore d c g).cuts = s.cuts := rfl
@[simp] theorem State.modCore_vault (s : State) (d c : Nat) (g : Core → Core) : (s.modCore d c g).vault = s.vault := rfl
@[simp] theorem State.modCore_vaultDropped (s : State) (d c : Nat) (g : Core → Core) : (s.modCore d c g).vaultDropped = s.vaultDropped := rfl
@[simp] theorem State.modCore_capsuleSeq (s : State) (d c : Nat) (g : Core → Core) : (s.modCore d c g).capsuleSeq = s.capsuleSeq := rfl
@[simp] theorem State.modCore_xmssLeaf (s : State) (d c : Nat) (g : Core → Core) : (s.modCore d c g).xmssLeaf = s.xmssLeaf := rfl
@[simp] theorem State.modCore_tick (s : State) (d c : Nat) (g : Core → Core) : (s.modCore d c g).tick = s.tick := rfl
@[simp] theorem State.modCore_nextId (s : State) (d c : Nat) (g : Core → Core) : (s.modCore d c g).nextId = s.nextId := rfl
@[simp] theorem State.modCore_issues (s : State) (d c : Nat) (g : Core → Core) : (s.modCore d c g).issues = s.issues := rfl
@[simp] theorem State.modCore_readied (s : State) (d c : Nat) (g : Core → Core) : (s.modCore d c g).readied = s.readied := rfl
@[simp] theorem State.modCore_fibres (s : State) (d c : Nat) (g : Core → Core) : (s.modCore d c g).fibres = s.fibres := rfl
@[simp] theorem State.modCore_links (s : State) (d c : Nat) (g : Core → Core) : (s.modCore d c g).links = s.links := rfl
@[simp] theorem State.modCore_wire (s : State) (d c : Nat) (g : Core → Core) : (s.modCore d c g).wire = s.wire := rfl
@[simp] theorem State.modCore_hostPairs (s : State) (d c : Nat) (g : Core → Core) : (s.modCore d c g).hostPairs = s.hostPairs := rfl
@[simp] theorem State.modCore_hostHeld (s : State) (d c : Nat) (g : Core → Core) : (s.modCore d c g).hostHeld = s.hostHeld := rfl
@[simp] theorem State.modCore_hostOut (s : State) (d c : Nat) (g : Core → Core) : (s.modCore d c g).hostOut = s.hostOut := rfl
@[simp] theorem State.modCore_hostMsi (s : State) (d c : Nat) (g : Core → Core) : (s.modCore d c g).hostMsi = s.hostMsi := rfl
@[simp] theorem State.modCore_sec (s : State) (d c : Nat) (g : Core → Core) : (s.modCore d c g).sec = s.sec := rfl
@[simp] theorem State.modCore_sol (s : State) (d c : Nat) (g : Core → Core) : (s.modCore d c g).sol = s.sol := rfl
@[simp] theorem State.modCore_lenmus (s : State) (d c : Nat) (g : Core → Core) : (s.modCore d c g).lenmus = s.lenmus := rfl
@[simp] theorem State.modCore_cks (s : State) (d c : Nat) (g : Core → Core) : (s.modCore d c g).cks = s.cks := rfl
@[simp] theorem State.modCore_arbiter (s : State) (d c : Nat) (g : Core → Core) : (s.modCore d c g).arbiter = s.arbiter := rfl
@[simp] theorem State.modCore_issue (s : State) (d c : Nat) (g : Core → Core) : (s.modCore d c g).issue = s.issue := rfl
@[simp] theorem State.modCore_agenda (s : State) (d c : Nat) (g : Core → Core) : (s.modCore d c g).agenda = s.agenda := rfl
@[simp] theorem State.modCore_choices (s : State) (d c : Nat) (g : Core → Core) : (s.modCore d c g).choices = s.choices := rfl
@[simp] theorem State.modCore_drawn (s : State) (d c : Nat) (g : Core → Core) : (s.modCore d c g).drawn = s.drawn := rfl
@[simp] theorem State.modCore_drawnValues (s : State) (d c : Nat) (g : Core → Core) : (s.modCore d c g).drawnValues = s.drawnValues := rfl

/-! `modDie`. -/

@[simp] theorem State.modDie_cohorts (s : State) (d : Nat) (g : Die → Die) : (s.modDie d g).cohorts = s.cohorts := rfl
@[simp] theorem State.modDie_cores (s : State) (d : Nat) (g : Die → Die) : (s.modDie d g).cores = s.cores := rfl
@[simp] theorem State.modDie_mem (s : State) (d : Nat) (g : Die → Die) : (s.modDie d g).mem = s.mem := rfl
@[simp] theorem State.modDie_views (s : State) (d : Nat) (g : Die → Die) : (s.modDie d g).views = s.views := rfl
@[simp] theorem State.modDie_bad (s : State) (d : Nat) (g : Die → Die) : (s.modDie d g).bad = s.bad := rfl
@[simp] theorem State.modDie_writes (s : State) (d : Nat) (g : Die → Die) : (s.modDie d g).writes = s.writes := rfl
@[simp] theorem State.modDie_loads (s : State) (d : Nat) (g : Die → Die) : (s.modDie d g).loads = s.loads := rfl
@[simp] theorem State.modDie_atomics (s : State) (d : Nat) (g : Die → Die) : (s.modDie d g).atomics = s.atomics := rfl
@[simp] theorem State.modDie_holds (s : State) (d : Nat) (g : Die → Die) : (s.modDie d g).holds = s.holds := rfl
@[simp] theorem State.modDie_segs (s : State) (d : Nat) (g : Die → Die) : (s.modDie d g).segs = s.segs := rfl
@[simp] theorem State.modDie_gangs (s : State) (d : Nat) (g : Die → Die) : (s.modDie d g).gangs = s.gangs := rfl
@[simp] theorem State.modDie_barriers (s : State) (d : Nat) (g : Die → Die) : (s.modDie d g).barriers = s.barriers := rfl
@[simp] theorem State.modDie_matOps (s : State) (d : Nat) (g : Die → Die) : (s.modDie d g).matOps = s.matOps := rfl
@[simp] theorem State.modDie_jobs (s : State) (d : Nat) (g : Die → Die) : (s.modDie d g).jobs = s.jobs := rfl
@[simp] theorem State.modDie_qwaits (s : State) (d : Nat) (g : Die → Die) : (s.modDie d g).qwaits = s.qwaits := rfl
@[simp] theorem State.modDie_qreqs (s : State) (d : Nat) (g : Die → Die) : (s.modDie d g).qreqs = s.qreqs := rfl
@[simp] theorem State.modDie_cuts (s : State) (d : Nat) (g : Die → Die) : (s.modDie d g).cuts = s.cuts := rfl
@[simp] theorem State.modDie_vault (s : State) (d : Nat) (g : Die → Die) : (s.modDie d g).vault = s.vault := rfl
@[simp] theorem State.modDie_vaultDropped (s : State) (d : Nat) (g : Die → Die) : (s.modDie d g).vaultDropped = s.vaultDropped := rfl
@[simp] theorem State.modDie_capsuleSeq (s : State) (d : Nat) (g : Die → Die) : (s.modDie d g).capsuleSeq = s.capsuleSeq := rfl
@[simp] theorem State.modDie_xmssLeaf (s : State) (d : Nat) (g : Die → Die) : (s.modDie d g).xmssLeaf = s.xmssLeaf := rfl
@[simp] theorem State.modDie_tick (s : State) (d : Nat) (g : Die → Die) : (s.modDie d g).tick = s.tick := rfl
@[simp] theorem State.modDie_nextId (s : State) (d : Nat) (g : Die → Die) : (s.modDie d g).nextId = s.nextId := rfl
@[simp] theorem State.modDie_issues (s : State) (d : Nat) (g : Die → Die) : (s.modDie d g).issues = s.issues := rfl
@[simp] theorem State.modDie_readied (s : State) (d : Nat) (g : Die → Die) : (s.modDie d g).readied = s.readied := rfl
@[simp] theorem State.modDie_fibres (s : State) (d : Nat) (g : Die → Die) : (s.modDie d g).fibres = s.fibres := rfl
@[simp] theorem State.modDie_links (s : State) (d : Nat) (g : Die → Die) : (s.modDie d g).links = s.links := rfl
@[simp] theorem State.modDie_wire (s : State) (d : Nat) (g : Die → Die) : (s.modDie d g).wire = s.wire := rfl
@[simp] theorem State.modDie_hostPairs (s : State) (d : Nat) (g : Die → Die) : (s.modDie d g).hostPairs = s.hostPairs := rfl
@[simp] theorem State.modDie_hostHeld (s : State) (d : Nat) (g : Die → Die) : (s.modDie d g).hostHeld = s.hostHeld := rfl
@[simp] theorem State.modDie_hostOut (s : State) (d : Nat) (g : Die → Die) : (s.modDie d g).hostOut = s.hostOut := rfl
@[simp] theorem State.modDie_hostMsi (s : State) (d : Nat) (g : Die → Die) : (s.modDie d g).hostMsi = s.hostMsi := rfl
@[simp] theorem State.modDie_sec (s : State) (d : Nat) (g : Die → Die) : (s.modDie d g).sec = s.sec := rfl
@[simp] theorem State.modDie_sol (s : State) (d : Nat) (g : Die → Die) : (s.modDie d g).sol = s.sol := rfl
@[simp] theorem State.modDie_lenmus (s : State) (d : Nat) (g : Die → Die) : (s.modDie d g).lenmus = s.lenmus := rfl
@[simp] theorem State.modDie_cks (s : State) (d : Nat) (g : Die → Die) : (s.modDie d g).cks = s.cks := rfl
@[simp] theorem State.modDie_arbiter (s : State) (d : Nat) (g : Die → Die) : (s.modDie d g).arbiter = s.arbiter := rfl
@[simp] theorem State.modDie_issue (s : State) (d : Nat) (g : Die → Die) : (s.modDie d g).issue = s.issue := rfl
@[simp] theorem State.modDie_agenda (s : State) (d : Nat) (g : Die → Die) : (s.modDie d g).agenda = s.agenda := rfl
@[simp] theorem State.modDie_choices (s : State) (d : Nat) (g : Die → Die) : (s.modDie d g).choices = s.choices := rfl
@[simp] theorem State.modDie_drawn (s : State) (d : Nat) (g : Die → Die) : (s.modDie d g).drawn = s.drawn := rfl
@[simp] theorem State.modDie_drawnValues (s : State) (d : Nat) (g : Die → Die) : (s.modDie d g).drawnValues = s.drawnValues := rfl

/-! `setDcr`. -/

@[simp] theorem State.setDcr_cohorts (s : State) (d off : Nat) (x : W64) : (s.setDcr d off x).cohorts = s.cohorts := rfl
@[simp] theorem State.setDcr_cores (s : State) (d off : Nat) (x : W64) : (s.setDcr d off x).cores = s.cores := rfl
@[simp] theorem State.setDcr_mem (s : State) (d off : Nat) (x : W64) : (s.setDcr d off x).mem = s.mem := rfl
@[simp] theorem State.setDcr_views (s : State) (d off : Nat) (x : W64) : (s.setDcr d off x).views = s.views := rfl
@[simp] theorem State.setDcr_bad (s : State) (d off : Nat) (x : W64) : (s.setDcr d off x).bad = s.bad := rfl
@[simp] theorem State.setDcr_writes (s : State) (d off : Nat) (x : W64) : (s.setDcr d off x).writes = s.writes := rfl
@[simp] theorem State.setDcr_loads (s : State) (d off : Nat) (x : W64) : (s.setDcr d off x).loads = s.loads := rfl
@[simp] theorem State.setDcr_atomics (s : State) (d off : Nat) (x : W64) : (s.setDcr d off x).atomics = s.atomics := rfl
@[simp] theorem State.setDcr_holds (s : State) (d off : Nat) (x : W64) : (s.setDcr d off x).holds = s.holds := rfl
@[simp] theorem State.setDcr_segs (s : State) (d off : Nat) (x : W64) : (s.setDcr d off x).segs = s.segs := rfl
@[simp] theorem State.setDcr_gangs (s : State) (d off : Nat) (x : W64) : (s.setDcr d off x).gangs = s.gangs := rfl
@[simp] theorem State.setDcr_barriers (s : State) (d off : Nat) (x : W64) : (s.setDcr d off x).barriers = s.barriers := rfl
@[simp] theorem State.setDcr_matOps (s : State) (d off : Nat) (x : W64) : (s.setDcr d off x).matOps = s.matOps := rfl
@[simp] theorem State.setDcr_jobs (s : State) (d off : Nat) (x : W64) : (s.setDcr d off x).jobs = s.jobs := rfl
@[simp] theorem State.setDcr_qwaits (s : State) (d off : Nat) (x : W64) : (s.setDcr d off x).qwaits = s.qwaits := rfl
@[simp] theorem State.setDcr_qreqs (s : State) (d off : Nat) (x : W64) : (s.setDcr d off x).qreqs = s.qreqs := rfl
@[simp] theorem State.setDcr_cuts (s : State) (d off : Nat) (x : W64) : (s.setDcr d off x).cuts = s.cuts := rfl
@[simp] theorem State.setDcr_vault (s : State) (d off : Nat) (x : W64) : (s.setDcr d off x).vault = s.vault := rfl
@[simp] theorem State.setDcr_vaultDropped (s : State) (d off : Nat) (x : W64) : (s.setDcr d off x).vaultDropped = s.vaultDropped := rfl
@[simp] theorem State.setDcr_capsuleSeq (s : State) (d off : Nat) (x : W64) : (s.setDcr d off x).capsuleSeq = s.capsuleSeq := rfl
@[simp] theorem State.setDcr_xmssLeaf (s : State) (d off : Nat) (x : W64) : (s.setDcr d off x).xmssLeaf = s.xmssLeaf := rfl
@[simp] theorem State.setDcr_tick (s : State) (d off : Nat) (x : W64) : (s.setDcr d off x).tick = s.tick := rfl
@[simp] theorem State.setDcr_nextId (s : State) (d off : Nat) (x : W64) : (s.setDcr d off x).nextId = s.nextId := rfl
@[simp] theorem State.setDcr_issues (s : State) (d off : Nat) (x : W64) : (s.setDcr d off x).issues = s.issues := rfl
@[simp] theorem State.setDcr_readied (s : State) (d off : Nat) (x : W64) : (s.setDcr d off x).readied = s.readied := rfl
@[simp] theorem State.setDcr_fibres (s : State) (d off : Nat) (x : W64) : (s.setDcr d off x).fibres = s.fibres := rfl
@[simp] theorem State.setDcr_links (s : State) (d off : Nat) (x : W64) : (s.setDcr d off x).links = s.links := rfl
@[simp] theorem State.setDcr_wire (s : State) (d off : Nat) (x : W64) : (s.setDcr d off x).wire = s.wire := rfl
@[simp] theorem State.setDcr_hostPairs (s : State) (d off : Nat) (x : W64) : (s.setDcr d off x).hostPairs = s.hostPairs := rfl
@[simp] theorem State.setDcr_hostHeld (s : State) (d off : Nat) (x : W64) : (s.setDcr d off x).hostHeld = s.hostHeld := rfl
@[simp] theorem State.setDcr_hostOut (s : State) (d off : Nat) (x : W64) : (s.setDcr d off x).hostOut = s.hostOut := rfl
@[simp] theorem State.setDcr_hostMsi (s : State) (d off : Nat) (x : W64) : (s.setDcr d off x).hostMsi = s.hostMsi := rfl
@[simp] theorem State.setDcr_sec (s : State) (d off : Nat) (x : W64) : (s.setDcr d off x).sec = s.sec := rfl
@[simp] theorem State.setDcr_sol (s : State) (d off : Nat) (x : W64) : (s.setDcr d off x).sol = s.sol := rfl
@[simp] theorem State.setDcr_lenmus (s : State) (d off : Nat) (x : W64) : (s.setDcr d off x).lenmus = s.lenmus := rfl
@[simp] theorem State.setDcr_cks (s : State) (d off : Nat) (x : W64) : (s.setDcr d off x).cks = s.cks := rfl
@[simp] theorem State.setDcr_arbiter (s : State) (d off : Nat) (x : W64) : (s.setDcr d off x).arbiter = s.arbiter := rfl
@[simp] theorem State.setDcr_issue (s : State) (d off : Nat) (x : W64) : (s.setDcr d off x).issue = s.issue := rfl
@[simp] theorem State.setDcr_agenda (s : State) (d off : Nat) (x : W64) : (s.setDcr d off x).agenda = s.agenda := rfl
@[simp] theorem State.setDcr_choices (s : State) (d off : Nat) (x : W64) : (s.setDcr d off x).choices = s.choices := rfl
@[simp] theorem State.setDcr_drawn (s : State) (d off : Nat) (x : W64) : (s.setDcr d off x).drawn = s.drawn := rfl
@[simp] theorem State.setDcr_drawnValues (s : State) (d off : Nat) (x : W64) : (s.setDcr d off x).drawnValues = s.drawnValues := rfl

/-! `modCohort`. -/

@[simp] theorem State.modCohort_cores (s : State) (k : CohKey) (g : Cohort → Cohort) : (s.modCohort k g).cores = s.cores := by
  unfold State.modCohort; split <;> rfl
@[simp] theorem State.modCohort_dies (s : State) (k : CohKey) (g : Cohort → Cohort) : (s.modCohort k g).dies = s.dies := by
  unfold State.modCohort; split <;> rfl
@[simp] theorem State.modCohort_mem (s : State) (k : CohKey) (g : Cohort → Cohort) : (s.modCohort k g).mem = s.mem := by
  unfold State.modCohort; split <;> rfl
@[simp] theorem State.modCohort_views (s : State) (k : CohKey) (g : Cohort → Cohort) : (s.modCohort k g).views = s.views := by
  unfold State.modCohort; split <;> rfl
@[simp] theorem State.modCohort_bad (s : State) (k : CohKey) (g : Cohort → Cohort) : (s.modCohort k g).bad = s.bad := by
  unfold State.modCohort; split <;> rfl
@[simp] theorem State.modCohort_writes (s : State) (k : CohKey) (g : Cohort → Cohort) : (s.modCohort k g).writes = s.writes := by
  unfold State.modCohort; split <;> rfl
@[simp] theorem State.modCohort_loads (s : State) (k : CohKey) (g : Cohort → Cohort) : (s.modCohort k g).loads = s.loads := by
  unfold State.modCohort; split <;> rfl
@[simp] theorem State.modCohort_atomics (s : State) (k : CohKey) (g : Cohort → Cohort) : (s.modCohort k g).atomics = s.atomics := by
  unfold State.modCohort; split <;> rfl
@[simp] theorem State.modCohort_holds (s : State) (k : CohKey) (g : Cohort → Cohort) : (s.modCohort k g).holds = s.holds := by
  unfold State.modCohort; split <;> rfl
@[simp] theorem State.modCohort_segs (s : State) (k : CohKey) (g : Cohort → Cohort) : (s.modCohort k g).segs = s.segs := by
  unfold State.modCohort; split <;> rfl
@[simp] theorem State.modCohort_gangs (s : State) (k : CohKey) (g : Cohort → Cohort) : (s.modCohort k g).gangs = s.gangs := by
  unfold State.modCohort; split <;> rfl
@[simp] theorem State.modCohort_barriers (s : State) (k : CohKey) (g : Cohort → Cohort) : (s.modCohort k g).barriers = s.barriers := by
  unfold State.modCohort; split <;> rfl
@[simp] theorem State.modCohort_matOps (s : State) (k : CohKey) (g : Cohort → Cohort) : (s.modCohort k g).matOps = s.matOps := by
  unfold State.modCohort; split <;> rfl
@[simp] theorem State.modCohort_jobs (s : State) (k : CohKey) (g : Cohort → Cohort) : (s.modCohort k g).jobs = s.jobs := by
  unfold State.modCohort; split <;> rfl
@[simp] theorem State.modCohort_qwaits (s : State) (k : CohKey) (g : Cohort → Cohort) : (s.modCohort k g).qwaits = s.qwaits := by
  unfold State.modCohort; split <;> rfl
@[simp] theorem State.modCohort_qreqs (s : State) (k : CohKey) (g : Cohort → Cohort) : (s.modCohort k g).qreqs = s.qreqs := by
  unfold State.modCohort; split <;> rfl
@[simp] theorem State.modCohort_cuts (s : State) (k : CohKey) (g : Cohort → Cohort) : (s.modCohort k g).cuts = s.cuts := by
  unfold State.modCohort; split <;> rfl
@[simp] theorem State.modCohort_vault (s : State) (k : CohKey) (g : Cohort → Cohort) : (s.modCohort k g).vault = s.vault := by
  unfold State.modCohort; split <;> rfl
@[simp] theorem State.modCohort_vaultDropped (s : State) (k : CohKey) (g : Cohort → Cohort) : (s.modCohort k g).vaultDropped = s.vaultDropped := by
  unfold State.modCohort; split <;> rfl
@[simp] theorem State.modCohort_capsuleSeq (s : State) (k : CohKey) (g : Cohort → Cohort) : (s.modCohort k g).capsuleSeq = s.capsuleSeq := by
  unfold State.modCohort; split <;> rfl
@[simp] theorem State.modCohort_xmssLeaf (s : State) (k : CohKey) (g : Cohort → Cohort) : (s.modCohort k g).xmssLeaf = s.xmssLeaf := by
  unfold State.modCohort; split <;> rfl
@[simp] theorem State.modCohort_tick (s : State) (k : CohKey) (g : Cohort → Cohort) : (s.modCohort k g).tick = s.tick := by
  unfold State.modCohort; split <;> rfl
@[simp] theorem State.modCohort_nextId (s : State) (k : CohKey) (g : Cohort → Cohort) : (s.modCohort k g).nextId = s.nextId := by
  unfold State.modCohort; split <;> rfl
@[simp] theorem State.modCohort_issues (s : State) (k : CohKey) (g : Cohort → Cohort) : (s.modCohort k g).issues = s.issues := by
  unfold State.modCohort; split <;> rfl
@[simp] theorem State.modCohort_readied (s : State) (k : CohKey) (g : Cohort → Cohort) : (s.modCohort k g).readied = s.readied := by
  unfold State.modCohort; split <;> rfl
@[simp] theorem State.modCohort_fibres (s : State) (k : CohKey) (g : Cohort → Cohort) : (s.modCohort k g).fibres = s.fibres := by
  unfold State.modCohort; split <;> rfl
@[simp] theorem State.modCohort_links (s : State) (k : CohKey) (g : Cohort → Cohort) : (s.modCohort k g).links = s.links := by
  unfold State.modCohort; split <;> rfl
@[simp] theorem State.modCohort_wire (s : State) (k : CohKey) (g : Cohort → Cohort) : (s.modCohort k g).wire = s.wire := by
  unfold State.modCohort; split <;> rfl
@[simp] theorem State.modCohort_hostPairs (s : State) (k : CohKey) (g : Cohort → Cohort) : (s.modCohort k g).hostPairs = s.hostPairs := by
  unfold State.modCohort; split <;> rfl
@[simp] theorem State.modCohort_hostHeld (s : State) (k : CohKey) (g : Cohort → Cohort) : (s.modCohort k g).hostHeld = s.hostHeld := by
  unfold State.modCohort; split <;> rfl
@[simp] theorem State.modCohort_hostOut (s : State) (k : CohKey) (g : Cohort → Cohort) : (s.modCohort k g).hostOut = s.hostOut := by
  unfold State.modCohort; split <;> rfl
@[simp] theorem State.modCohort_hostMsi (s : State) (k : CohKey) (g : Cohort → Cohort) : (s.modCohort k g).hostMsi = s.hostMsi := by
  unfold State.modCohort; split <;> rfl
@[simp] theorem State.modCohort_sec (s : State) (k : CohKey) (g : Cohort → Cohort) : (s.modCohort k g).sec = s.sec := by
  unfold State.modCohort; split <;> rfl
@[simp] theorem State.modCohort_sol (s : State) (k : CohKey) (g : Cohort → Cohort) : (s.modCohort k g).sol = s.sol := by
  unfold State.modCohort; split <;> rfl
@[simp] theorem State.modCohort_lenmus (s : State) (k : CohKey) (g : Cohort → Cohort) : (s.modCohort k g).lenmus = s.lenmus := by
  unfold State.modCohort; split <;> rfl
@[simp] theorem State.modCohort_cks (s : State) (k : CohKey) (g : Cohort → Cohort) : (s.modCohort k g).cks = s.cks := by
  unfold State.modCohort; split <;> rfl
@[simp] theorem State.modCohort_arbiter (s : State) (k : CohKey) (g : Cohort → Cohort) : (s.modCohort k g).arbiter = s.arbiter := by
  unfold State.modCohort; split <;> rfl
@[simp] theorem State.modCohort_issue (s : State) (k : CohKey) (g : Cohort → Cohort) : (s.modCohort k g).issue = s.issue := by
  unfold State.modCohort; split <;> rfl
@[simp] theorem State.modCohort_agenda (s : State) (k : CohKey) (g : Cohort → Cohort) : (s.modCohort k g).agenda = s.agenda := by
  unfold State.modCohort; split <;> rfl
@[simp] theorem State.modCohort_choices (s : State) (k : CohKey) (g : Cohort → Cohort) : (s.modCohort k g).choices = s.choices := by
  unfold State.modCohort; split <;> rfl
@[simp] theorem State.modCohort_drawn (s : State) (k : CohKey) (g : Cohort → Cohort) : (s.modCohort k g).drawn = s.drawn := by
  unfold State.modCohort; split <;> rfl
@[simp] theorem State.modCohort_drawnValues (s : State) (k : CohKey) (g : Cohort → Cohort) : (s.modCohort k g).drawnValues = s.drawnValues := by
  unfold State.modCohort; split <;> rfl

/-! `setLane`. -/

@[simp] theorem State.setLane_cores (s : State) (k : LaneKey) (l : Lane) : (s.setLane k l).cores = s.cores := by
  unfold State.setLane; simp
@[simp] theorem State.setLane_dies (s : State) (k : LaneKey) (l : Lane) : (s.setLane k l).dies = s.dies := by
  unfold State.setLane; simp
@[simp] theorem State.setLane_mem (s : State) (k : LaneKey) (l : Lane) : (s.setLane k l).mem = s.mem := by
  unfold State.setLane; simp
@[simp] theorem State.setLane_views (s : State) (k : LaneKey) (l : Lane) : (s.setLane k l).views = s.views := by
  unfold State.setLane; simp
@[simp] theorem State.setLane_bad (s : State) (k : LaneKey) (l : Lane) : (s.setLane k l).bad = s.bad := by
  unfold State.setLane; simp
@[simp] theorem State.setLane_writes (s : State) (k : LaneKey) (l : Lane) : (s.setLane k l).writes = s.writes := by
  unfold State.setLane; simp
@[simp] theorem State.setLane_loads (s : State) (k : LaneKey) (l : Lane) : (s.setLane k l).loads = s.loads := by
  unfold State.setLane; simp
@[simp] theorem State.setLane_atomics (s : State) (k : LaneKey) (l : Lane) : (s.setLane k l).atomics = s.atomics := by
  unfold State.setLane; simp
@[simp] theorem State.setLane_holds (s : State) (k : LaneKey) (l : Lane) : (s.setLane k l).holds = s.holds := by
  unfold State.setLane; simp
@[simp] theorem State.setLane_segs (s : State) (k : LaneKey) (l : Lane) : (s.setLane k l).segs = s.segs := by
  unfold State.setLane; simp
@[simp] theorem State.setLane_gangs (s : State) (k : LaneKey) (l : Lane) : (s.setLane k l).gangs = s.gangs := by
  unfold State.setLane; simp
@[simp] theorem State.setLane_barriers (s : State) (k : LaneKey) (l : Lane) : (s.setLane k l).barriers = s.barriers := by
  unfold State.setLane; simp
@[simp] theorem State.setLane_matOps (s : State) (k : LaneKey) (l : Lane) : (s.setLane k l).matOps = s.matOps := by
  unfold State.setLane; simp
@[simp] theorem State.setLane_jobs (s : State) (k : LaneKey) (l : Lane) : (s.setLane k l).jobs = s.jobs := by
  unfold State.setLane; simp
@[simp] theorem State.setLane_qwaits (s : State) (k : LaneKey) (l : Lane) : (s.setLane k l).qwaits = s.qwaits := by
  unfold State.setLane; simp
@[simp] theorem State.setLane_qreqs (s : State) (k : LaneKey) (l : Lane) : (s.setLane k l).qreqs = s.qreqs := by
  unfold State.setLane; simp
@[simp] theorem State.setLane_cuts (s : State) (k : LaneKey) (l : Lane) : (s.setLane k l).cuts = s.cuts := by
  unfold State.setLane; simp
@[simp] theorem State.setLane_vault (s : State) (k : LaneKey) (l : Lane) : (s.setLane k l).vault = s.vault := by
  unfold State.setLane; simp
@[simp] theorem State.setLane_vaultDropped (s : State) (k : LaneKey) (l : Lane) : (s.setLane k l).vaultDropped = s.vaultDropped := by
  unfold State.setLane; simp
@[simp] theorem State.setLane_capsuleSeq (s : State) (k : LaneKey) (l : Lane) : (s.setLane k l).capsuleSeq = s.capsuleSeq := by
  unfold State.setLane; simp
@[simp] theorem State.setLane_xmssLeaf (s : State) (k : LaneKey) (l : Lane) : (s.setLane k l).xmssLeaf = s.xmssLeaf := by
  unfold State.setLane; simp
@[simp] theorem State.setLane_tick (s : State) (k : LaneKey) (l : Lane) : (s.setLane k l).tick = s.tick := by
  unfold State.setLane; simp
@[simp] theorem State.setLane_nextId (s : State) (k : LaneKey) (l : Lane) : (s.setLane k l).nextId = s.nextId := by
  unfold State.setLane; simp
@[simp] theorem State.setLane_issues (s : State) (k : LaneKey) (l : Lane) : (s.setLane k l).issues = s.issues := by
  unfold State.setLane; simp
@[simp] theorem State.setLane_readied (s : State) (k : LaneKey) (l : Lane) : (s.setLane k l).readied = s.readied := by
  unfold State.setLane; simp
@[simp] theorem State.setLane_fibres (s : State) (k : LaneKey) (l : Lane) : (s.setLane k l).fibres = s.fibres := by
  unfold State.setLane; simp
@[simp] theorem State.setLane_links (s : State) (k : LaneKey) (l : Lane) : (s.setLane k l).links = s.links := by
  unfold State.setLane; simp
@[simp] theorem State.setLane_wire (s : State) (k : LaneKey) (l : Lane) : (s.setLane k l).wire = s.wire := by
  unfold State.setLane; simp
@[simp] theorem State.setLane_hostPairs (s : State) (k : LaneKey) (l : Lane) : (s.setLane k l).hostPairs = s.hostPairs := by
  unfold State.setLane; simp
@[simp] theorem State.setLane_hostHeld (s : State) (k : LaneKey) (l : Lane) : (s.setLane k l).hostHeld = s.hostHeld := by
  unfold State.setLane; simp
@[simp] theorem State.setLane_hostOut (s : State) (k : LaneKey) (l : Lane) : (s.setLane k l).hostOut = s.hostOut := by
  unfold State.setLane; simp
@[simp] theorem State.setLane_hostMsi (s : State) (k : LaneKey) (l : Lane) : (s.setLane k l).hostMsi = s.hostMsi := by
  unfold State.setLane; simp
@[simp] theorem State.setLane_sec (s : State) (k : LaneKey) (l : Lane) : (s.setLane k l).sec = s.sec := by
  unfold State.setLane; simp
@[simp] theorem State.setLane_sol (s : State) (k : LaneKey) (l : Lane) : (s.setLane k l).sol = s.sol := by
  unfold State.setLane; simp
@[simp] theorem State.setLane_lenmus (s : State) (k : LaneKey) (l : Lane) : (s.setLane k l).lenmus = s.lenmus := by
  unfold State.setLane; simp
@[simp] theorem State.setLane_cks (s : State) (k : LaneKey) (l : Lane) : (s.setLane k l).cks = s.cks := by
  unfold State.setLane; simp
@[simp] theorem State.setLane_arbiter (s : State) (k : LaneKey) (l : Lane) : (s.setLane k l).arbiter = s.arbiter := by
  unfold State.setLane; simp
@[simp] theorem State.setLane_issue (s : State) (k : LaneKey) (l : Lane) : (s.setLane k l).issue = s.issue := by
  unfold State.setLane; simp
@[simp] theorem State.setLane_agenda (s : State) (k : LaneKey) (l : Lane) : (s.setLane k l).agenda = s.agenda := by
  unfold State.setLane; simp
@[simp] theorem State.setLane_choices (s : State) (k : LaneKey) (l : Lane) : (s.setLane k l).choices = s.choices := by
  unfold State.setLane; simp
@[simp] theorem State.setLane_drawn (s : State) (k : LaneKey) (l : Lane) : (s.setLane k l).drawn = s.drawn := by
  unfold State.setLane; simp
@[simp] theorem State.setLane_drawnValues (s : State) (k : LaneKey) (l : Lane) : (s.setLane k l).drawnValues = s.drawnValues := by
  unfold State.setLane; simp

/-! `dropLane`. -/

@[simp] theorem State.dropLane_cores (s : State) (k : LaneKey) : (s.dropLane k).cores = s.cores := by
  unfold State.dropLane; simp
@[simp] theorem State.dropLane_dies (s : State) (k : LaneKey) : (s.dropLane k).dies = s.dies := by
  unfold State.dropLane; simp
@[simp] theorem State.dropLane_mem (s : State) (k : LaneKey) : (s.dropLane k).mem = s.mem := by
  unfold State.dropLane; simp
@[simp] theorem State.dropLane_views (s : State) (k : LaneKey) : (s.dropLane k).views = s.views := by
  unfold State.dropLane; simp
@[simp] theorem State.dropLane_bad (s : State) (k : LaneKey) : (s.dropLane k).bad = s.bad := by
  unfold State.dropLane; simp
@[simp] theorem State.dropLane_writes (s : State) (k : LaneKey) : (s.dropLane k).writes = s.writes := by
  unfold State.dropLane; simp
@[simp] theorem State.dropLane_loads (s : State) (k : LaneKey) : (s.dropLane k).loads = s.loads := by
  unfold State.dropLane; simp
@[simp] theorem State.dropLane_atomics (s : State) (k : LaneKey) : (s.dropLane k).atomics = s.atomics := by
  unfold State.dropLane; simp
@[simp] theorem State.dropLane_holds (s : State) (k : LaneKey) : (s.dropLane k).holds = s.holds := by
  unfold State.dropLane; simp
@[simp] theorem State.dropLane_segs (s : State) (k : LaneKey) : (s.dropLane k).segs = s.segs := by
  unfold State.dropLane; simp
@[simp] theorem State.dropLane_gangs (s : State) (k : LaneKey) : (s.dropLane k).gangs = s.gangs := by
  unfold State.dropLane; simp
@[simp] theorem State.dropLane_barriers (s : State) (k : LaneKey) : (s.dropLane k).barriers = s.barriers := by
  unfold State.dropLane; simp
@[simp] theorem State.dropLane_matOps (s : State) (k : LaneKey) : (s.dropLane k).matOps = s.matOps := by
  unfold State.dropLane; simp
@[simp] theorem State.dropLane_jobs (s : State) (k : LaneKey) : (s.dropLane k).jobs = s.jobs := by
  unfold State.dropLane; simp
@[simp] theorem State.dropLane_qwaits (s : State) (k : LaneKey) : (s.dropLane k).qwaits = s.qwaits := by
  unfold State.dropLane; simp
@[simp] theorem State.dropLane_qreqs (s : State) (k : LaneKey) : (s.dropLane k).qreqs = s.qreqs := by
  unfold State.dropLane; simp
@[simp] theorem State.dropLane_cuts (s : State) (k : LaneKey) : (s.dropLane k).cuts = s.cuts := by
  unfold State.dropLane; simp
@[simp] theorem State.dropLane_vault (s : State) (k : LaneKey) : (s.dropLane k).vault = s.vault := by
  unfold State.dropLane; simp
@[simp] theorem State.dropLane_vaultDropped (s : State) (k : LaneKey) : (s.dropLane k).vaultDropped = s.vaultDropped := by
  unfold State.dropLane; simp
@[simp] theorem State.dropLane_capsuleSeq (s : State) (k : LaneKey) : (s.dropLane k).capsuleSeq = s.capsuleSeq := by
  unfold State.dropLane; simp
@[simp] theorem State.dropLane_xmssLeaf (s : State) (k : LaneKey) : (s.dropLane k).xmssLeaf = s.xmssLeaf := by
  unfold State.dropLane; simp
@[simp] theorem State.dropLane_tick (s : State) (k : LaneKey) : (s.dropLane k).tick = s.tick := by
  unfold State.dropLane; simp
@[simp] theorem State.dropLane_nextId (s : State) (k : LaneKey) : (s.dropLane k).nextId = s.nextId := by
  unfold State.dropLane; simp
@[simp] theorem State.dropLane_issues (s : State) (k : LaneKey) : (s.dropLane k).issues = s.issues := by
  unfold State.dropLane; simp
@[simp] theorem State.dropLane_readied (s : State) (k : LaneKey) : (s.dropLane k).readied = s.readied := by
  unfold State.dropLane; simp
@[simp] theorem State.dropLane_fibres (s : State) (k : LaneKey) : (s.dropLane k).fibres = s.fibres := by
  unfold State.dropLane; simp
@[simp] theorem State.dropLane_links (s : State) (k : LaneKey) : (s.dropLane k).links = s.links := by
  unfold State.dropLane; simp
@[simp] theorem State.dropLane_wire (s : State) (k : LaneKey) : (s.dropLane k).wire = s.wire := by
  unfold State.dropLane; simp
@[simp] theorem State.dropLane_hostPairs (s : State) (k : LaneKey) : (s.dropLane k).hostPairs = s.hostPairs := by
  unfold State.dropLane; simp
@[simp] theorem State.dropLane_hostHeld (s : State) (k : LaneKey) : (s.dropLane k).hostHeld = s.hostHeld := by
  unfold State.dropLane; simp
@[simp] theorem State.dropLane_hostOut (s : State) (k : LaneKey) : (s.dropLane k).hostOut = s.hostOut := by
  unfold State.dropLane; simp
@[simp] theorem State.dropLane_hostMsi (s : State) (k : LaneKey) : (s.dropLane k).hostMsi = s.hostMsi := by
  unfold State.dropLane; simp
@[simp] theorem State.dropLane_sec (s : State) (k : LaneKey) : (s.dropLane k).sec = s.sec := by
  unfold State.dropLane; simp
@[simp] theorem State.dropLane_sol (s : State) (k : LaneKey) : (s.dropLane k).sol = s.sol := by
  unfold State.dropLane; simp
@[simp] theorem State.dropLane_lenmus (s : State) (k : LaneKey) : (s.dropLane k).lenmus = s.lenmus := by
  unfold State.dropLane; simp
@[simp] theorem State.dropLane_cks (s : State) (k : LaneKey) : (s.dropLane k).cks = s.cks := by
  unfold State.dropLane; simp
@[simp] theorem State.dropLane_arbiter (s : State) (k : LaneKey) : (s.dropLane k).arbiter = s.arbiter := by
  unfold State.dropLane; simp
@[simp] theorem State.dropLane_issue (s : State) (k : LaneKey) : (s.dropLane k).issue = s.issue := by
  unfold State.dropLane; simp
@[simp] theorem State.dropLane_agenda (s : State) (k : LaneKey) : (s.dropLane k).agenda = s.agenda := by
  unfold State.dropLane; simp
@[simp] theorem State.dropLane_choices (s : State) (k : LaneKey) : (s.dropLane k).choices = s.choices := by
  unfold State.dropLane; simp
@[simp] theorem State.dropLane_drawn (s : State) (k : LaneKey) : (s.dropLane k).drawn = s.drawn := by
  unfold State.dropLane; simp
@[simp] theorem State.dropLane_drawnValues (s : State) (k : LaneKey) : (s.dropLane k).drawnValues = s.drawnValues := by
  unfold State.dropLane; simp

/-! `modLane`. -/

@[simp] theorem State.modLane_cores (s : State) (k : LaneKey) (g : Lane → Lane) : (s.modLane k g).cores = s.cores := by
  unfold State.modLane; split <;> simp
@[simp] theorem State.modLane_dies (s : State) (k : LaneKey) (g : Lane → Lane) : (s.modLane k g).dies = s.dies := by
  unfold State.modLane; split <;> simp
@[simp] theorem State.modLane_mem (s : State) (k : LaneKey) (g : Lane → Lane) : (s.modLane k g).mem = s.mem := by
  unfold State.modLane; split <;> simp
@[simp] theorem State.modLane_views (s : State) (k : LaneKey) (g : Lane → Lane) : (s.modLane k g).views = s.views := by
  unfold State.modLane; split <;> simp
@[simp] theorem State.modLane_bad (s : State) (k : LaneKey) (g : Lane → Lane) : (s.modLane k g).bad = s.bad := by
  unfold State.modLane; split <;> simp
@[simp] theorem State.modLane_writes (s : State) (k : LaneKey) (g : Lane → Lane) : (s.modLane k g).writes = s.writes := by
  unfold State.modLane; split <;> simp
@[simp] theorem State.modLane_loads (s : State) (k : LaneKey) (g : Lane → Lane) : (s.modLane k g).loads = s.loads := by
  unfold State.modLane; split <;> simp
@[simp] theorem State.modLane_atomics (s : State) (k : LaneKey) (g : Lane → Lane) : (s.modLane k g).atomics = s.atomics := by
  unfold State.modLane; split <;> simp
@[simp] theorem State.modLane_holds (s : State) (k : LaneKey) (g : Lane → Lane) : (s.modLane k g).holds = s.holds := by
  unfold State.modLane; split <;> simp
@[simp] theorem State.modLane_segs (s : State) (k : LaneKey) (g : Lane → Lane) : (s.modLane k g).segs = s.segs := by
  unfold State.modLane; split <;> simp
@[simp] theorem State.modLane_gangs (s : State) (k : LaneKey) (g : Lane → Lane) : (s.modLane k g).gangs = s.gangs := by
  unfold State.modLane; split <;> simp
@[simp] theorem State.modLane_barriers (s : State) (k : LaneKey) (g : Lane → Lane) : (s.modLane k g).barriers = s.barriers := by
  unfold State.modLane; split <;> simp
@[simp] theorem State.modLane_matOps (s : State) (k : LaneKey) (g : Lane → Lane) : (s.modLane k g).matOps = s.matOps := by
  unfold State.modLane; split <;> simp
@[simp] theorem State.modLane_jobs (s : State) (k : LaneKey) (g : Lane → Lane) : (s.modLane k g).jobs = s.jobs := by
  unfold State.modLane; split <;> simp
@[simp] theorem State.modLane_qwaits (s : State) (k : LaneKey) (g : Lane → Lane) : (s.modLane k g).qwaits = s.qwaits := by
  unfold State.modLane; split <;> simp
@[simp] theorem State.modLane_qreqs (s : State) (k : LaneKey) (g : Lane → Lane) : (s.modLane k g).qreqs = s.qreqs := by
  unfold State.modLane; split <;> simp
@[simp] theorem State.modLane_cuts (s : State) (k : LaneKey) (g : Lane → Lane) : (s.modLane k g).cuts = s.cuts := by
  unfold State.modLane; split <;> simp
@[simp] theorem State.modLane_vault (s : State) (k : LaneKey) (g : Lane → Lane) : (s.modLane k g).vault = s.vault := by
  unfold State.modLane; split <;> simp
@[simp] theorem State.modLane_vaultDropped (s : State) (k : LaneKey) (g : Lane → Lane) : (s.modLane k g).vaultDropped = s.vaultDropped := by
  unfold State.modLane; split <;> simp
@[simp] theorem State.modLane_capsuleSeq (s : State) (k : LaneKey) (g : Lane → Lane) : (s.modLane k g).capsuleSeq = s.capsuleSeq := by
  unfold State.modLane; split <;> simp
@[simp] theorem State.modLane_xmssLeaf (s : State) (k : LaneKey) (g : Lane → Lane) : (s.modLane k g).xmssLeaf = s.xmssLeaf := by
  unfold State.modLane; split <;> simp
@[simp] theorem State.modLane_tick (s : State) (k : LaneKey) (g : Lane → Lane) : (s.modLane k g).tick = s.tick := by
  unfold State.modLane; split <;> simp
@[simp] theorem State.modLane_nextId (s : State) (k : LaneKey) (g : Lane → Lane) : (s.modLane k g).nextId = s.nextId := by
  unfold State.modLane; split <;> simp
@[simp] theorem State.modLane_issues (s : State) (k : LaneKey) (g : Lane → Lane) : (s.modLane k g).issues = s.issues := by
  unfold State.modLane; split <;> simp
@[simp] theorem State.modLane_readied (s : State) (k : LaneKey) (g : Lane → Lane) : (s.modLane k g).readied = s.readied := by
  unfold State.modLane; split <;> simp
@[simp] theorem State.modLane_fibres (s : State) (k : LaneKey) (g : Lane → Lane) : (s.modLane k g).fibres = s.fibres := by
  unfold State.modLane; split <;> simp
@[simp] theorem State.modLane_links (s : State) (k : LaneKey) (g : Lane → Lane) : (s.modLane k g).links = s.links := by
  unfold State.modLane; split <;> simp
@[simp] theorem State.modLane_wire (s : State) (k : LaneKey) (g : Lane → Lane) : (s.modLane k g).wire = s.wire := by
  unfold State.modLane; split <;> simp
@[simp] theorem State.modLane_hostPairs (s : State) (k : LaneKey) (g : Lane → Lane) : (s.modLane k g).hostPairs = s.hostPairs := by
  unfold State.modLane; split <;> simp
@[simp] theorem State.modLane_hostHeld (s : State) (k : LaneKey) (g : Lane → Lane) : (s.modLane k g).hostHeld = s.hostHeld := by
  unfold State.modLane; split <;> simp
@[simp] theorem State.modLane_hostOut (s : State) (k : LaneKey) (g : Lane → Lane) : (s.modLane k g).hostOut = s.hostOut := by
  unfold State.modLane; split <;> simp
@[simp] theorem State.modLane_hostMsi (s : State) (k : LaneKey) (g : Lane → Lane) : (s.modLane k g).hostMsi = s.hostMsi := by
  unfold State.modLane; split <;> simp
@[simp] theorem State.modLane_sec (s : State) (k : LaneKey) (g : Lane → Lane) : (s.modLane k g).sec = s.sec := by
  unfold State.modLane; split <;> simp
@[simp] theorem State.modLane_sol (s : State) (k : LaneKey) (g : Lane → Lane) : (s.modLane k g).sol = s.sol := by
  unfold State.modLane; split <;> simp
@[simp] theorem State.modLane_lenmus (s : State) (k : LaneKey) (g : Lane → Lane) : (s.modLane k g).lenmus = s.lenmus := by
  unfold State.modLane; split <;> simp
@[simp] theorem State.modLane_cks (s : State) (k : LaneKey) (g : Lane → Lane) : (s.modLane k g).cks = s.cks := by
  unfold State.modLane; split <;> simp
@[simp] theorem State.modLane_arbiter (s : State) (k : LaneKey) (g : Lane → Lane) : (s.modLane k g).arbiter = s.arbiter := by
  unfold State.modLane; split <;> simp
@[simp] theorem State.modLane_issue (s : State) (k : LaneKey) (g : Lane → Lane) : (s.modLane k g).issue = s.issue := by
  unfold State.modLane; split <;> simp
@[simp] theorem State.modLane_agenda (s : State) (k : LaneKey) (g : Lane → Lane) : (s.modLane k g).agenda = s.agenda := by
  unfold State.modLane; split <;> simp
@[simp] theorem State.modLane_choices (s : State) (k : LaneKey) (g : Lane → Lane) : (s.modLane k g).choices = s.choices := by
  unfold State.modLane; split <;> simp
@[simp] theorem State.modLane_drawn (s : State) (k : LaneKey) (g : Lane → Lane) : (s.modLane k g).drawn = s.drawn := by
  unfold State.modLane; split <;> simp
@[simp] theorem State.modLane_drawnValues (s : State) (k : LaneKey) (g : Lane → Lane) : (s.modLane k g).drawnValues = s.drawnValues := by
  unfold State.modLane; split <;> simp

end Sys2Proof.Machine
end

