-- ==== Sys2Proof/Laws/Issue.lean ====
section
/-! SUPPORT. What finishing an issue does (02 R33, R34), and what an instruction that touches only registers does. -/

namespace Sys2Proof.Machine

/-! Cohorts and lanes. -/

theorem State.cohort?_setCohort (s : State) (k k' : CohKey) (c : Cohort) :
    (s.setCohort k c).cohort? k' = if k = k' then some c else s.cohort? k' := lookup_insertKey _ _ _ _

theorem State.cohort?_modCohort (s : State) (k k' : CohKey) (f : Cohort → Cohort) :
    (s.modCohort k f).cohort? k' = if k = k' then (s.cohort? k).map f else s.cohort? k' := by
  unfold State.modCohort
  split
  · next c h => rw [State.cohort?_setCohort]; split <;> simp_all
  · next h => split <;> simp_all

theorem State.lane?_modCohort (s : State) (k : CohKey) (f : Cohort → Cohort) (x : LaneKey) :
    (s.modCohort k f).lane? x = if k = x.coh then (s.cohort? k).bind fun c => (f c).lane? x.lane else s.lane? x := by
  unfold State.lane?
  rw [State.cohort?_modCohort]
  split
  · next h => subst h; cases h' : s.cohort? x.coh <;> simp
  · rfl

theorem State.core_modCore (s : State) (d c d' c' : Nat) (f : Core → Core) :
    (s.modCore d c f).core d' c' = if (d, c) = (d', c') then f (s.core d c) else s.core d' c' := by
  unfold State.core State.modCore
  simp only [lookup_insertKey]
  split
  · next h => rfl
  · rfl

@[simp] theorem State.cohort?_modCore (s : State) (d c : Nat) (f : Core → Core) (k : CohKey) :
    (s.modCore d c f).cohort? k = s.cohort? k := rfl

@[simp] theorem State.lane?_modCore (s : State) (d c : Nat) (f : Core → Core) (k : LaneKey) :
    (s.modCore d c f).lane? k = s.lane? k := rfl

/-! The growth reserve. -/

/-- An update of the growth reserve of a core, and of nothing else. -/
def ReserveOnly (s t : State) : Prop :=
  t = s ∨ ∃ d c r, t = s.modCore d c fun x => { x with reserve := r }

theorem State.modCore_modCore (s : State) (d c : Nat) (f g : Core → Core) :
    (s.modCore d c f).modCore d c g = s.modCore d c fun x => g (f x) := by
  unfold State.modCore
  simp only [insertKey_insertKey]
  congr 2
  show g (State.core (s.modCore d c f) d c) = _
  rw [State.core_modCore, if_pos rfl]

theorem State.grantReserve_only (s : State) (d c : Nat) :
    s.grantReserve d c = s ∨ ∃ r, s.grantReserve d c = s.modCore d c fun x => { x with reserve := r } := by
  unfold State.grantReserve
  split
  · dsimp only
    split
    · exact .inr ⟨_, rfl⟩
    · exact .inl rfl
  · exact .inl rfl

theorem State.settleReserve_only (s : State) (d c : Nat) : ReserveOnly s (s.settleReserve d c) := by
  have refill : ∀ t : State, ReserveOnly t (if t.unfilled d c + t.maxPeak d c ≤ t.freeRegs d c then
      (if ((t.modCore d c fun x => { x with reserve := .free }).coreCohorts d c).any fun x =>
          (t.modCore d c fun x => { x with reserve := .free }).growthRefused x.1 x.2 then
        (t.modCore d c fun x => { x with reserve := .free }).grantReserve d c
      else t.modCore d c fun x => { x with reserve := .free })
      else t.modCore d c fun x => { x with reserve := .draining }) := by
    intro t
    split
    · split
      · rcases State.grantReserve_only (t.modCore d c fun x => { x with reserve := .free }) d c with h | ⟨r, h⟩
        · rw [h]; exact .inr ⟨d, c, _, rfl⟩
        · rw [h, State.modCore_modCore]; exact .inr ⟨d, c, r, rfl⟩
      · exact .inr ⟨d, c, _, rfl⟩
    · exact .inr ⟨d, c, _, rfl⟩
  unfold State.settleReserve
  dsimp only
  split
  · exact .inl rfl
  · exact refill s
  · split
    · exact refill s
    · split
      · exact refill s
      · split
        · exact .inl rfl
        · exact .inr ⟨d, c, _, rfl⟩

theorem State.noteGrown_only (s : State) (k : CohKey) (regs : List Nat) : ReserveOnly s (s.noteGrown k regs) := by
  unfold State.noteGrown ReserveOnly
  split
  · split
    · exact .inr ⟨_, _, _, rfl⟩
    · exact .inl rfl
  · exact .inl rfl

namespace ReserveOnly
variable {s t : State} (h : ReserveOnly s t)
include h

theorem rest : t.rest = s.rest := by
  rcases h with rfl | ⟨d, c, r, rfl⟩ <;> rfl

theorem cohorts : t.cohorts = s.cohorts := by
  rcases h with rfl | ⟨d, c, r, rfl⟩ <;> rfl

theorem issues : t.issues = s.issues := by
  rcases h with rfl | ⟨d, c, r, rfl⟩ <;> rfl

theorem issue : t.issue = s.issue := by
  rcases h with rfl | ⟨d, c, r, rfl⟩ <;> rfl

theorem core (d c : Nat) : (t.core d c).rest = (s.core d c).rest := by
  rcases h with rfl | ⟨d', c', r, rfl⟩
  · rfl
  · rw [State.core_modCore]
    split
    · next h => cases h; rfl
    · rfl

theorem cohort? (k : CohKey) : t.cohort? k = s.cohort? k := by rw [State.cohort?, h.cohorts]; rfl

theorem lane? (k : LaneKey) : t.lane? k = s.lane? k := by rw [State.lane?, h.cohort?]; rfl

theorem pair? (k : LaneKey) : t.pair? k = s.pair? k := by rw [State.pair?, h.cohort?]; rfl

end ReserveOnly

/-! The frontier. -/

/-- The pair of a lane in a frontier. -/
def pairIn (fr : List Entry) (n : Nat) : Option (BitVec 8 × Nat) := (entryOf fr n).map fun e => (e.prio, e.pc)

theorem pairIn_nil (n : Nat) : pairIn [] n = none := rfl

theorem pairIn_cons (e : Entry) (fr : List Entry) (n : Nat) :
    pairIn (e :: fr) n = if e.mask.getLsbD n then some (e.prio, e.pc) else pairIn fr n := by
  unfold pairIn entryOf
  rw [List.find?_cons]
  split <;> simp_all

theorem pairIn_insertEntry (fr : List Entry) (p : BitVec 8) (pc : Nat) (m : W64) (age n : Nat) :
    m.getLsbD n = false → pairIn (insertEntry fr p pc m age) n = pairIn fr n := by
  intro h
  induction fr with
  | nil => simp [insertEntry, pairIn_cons, pairIn_nil, h]
  | cons e fr ih =>
    unfold insertEntry
    split
    · simp [pairIn_cons, h]
    · split
      · simp [pairIn_cons, h]
      · simp [pairIn_cons, ih]

theorem pairIn_insertEntry_same (fr : List Entry) (p : BitVec 8) (pc : Nat) (m : W64) (age n : Nat) :
    m.getLsbD n = true → pairIn fr n = none → pairIn (insertEntry fr p pc m age) n = some (p, pc) := by
  intro h h0
  induction fr with
  | nil => simp [insertEntry, pairIn_cons, h]
  | cons e fr ih =>
    rw [pairIn_cons] at h0
    split at h0
    · exact absurd h0 (by simp)
    · next he =>
      unfold insertEntry
      split
      · next hs =>
        simp only [Entry.samePair, Bool.and_eq_true, decide_eq_true_eq] at hs
        simp [pairIn_cons, h, hs.1, hs.2]
      · split
        · simp [pairIn_cons, h]
        · simp [pairIn_cons, he, ih h0]

theorem one_shift_bit {n m : Nat} (hm : m < 64) : (1#64 <<< n).getLsbD m = decide (n = m) := by
  simp only [BitVec.getLsbD_shiftLeft, BitVec.getLsbD_one, hm]
  by_cases h : n = m
  · subst h; simp
  · simp [h]; omega

theorem one_shift_ne_zero {n : Nat} (hn : n < 64) : (1#64 <<< n) ≠ 0 := by
  intro h
  have := one_shift_bit (n := n) hn
  rw [h] at this
  simp at this

theorem pairIn_insertLanes (fr : List Entry) (p : BitVec 8) (pc n m : Nat) (hn : n < 64) (hm : m < 64) :
    pairIn (insertLanes fr p pc (1#64 <<< n)) m
      = if n = m ∧ pairIn fr m = none then some (p, pc) else if n = m then pairIn (insertEntry fr p pc (1#64 <<< n) 0) m else pairIn fr m := by
  unfold insertLanes
  rw [if_neg (one_shift_ne_zero hn)]
  by_cases h : n = m
  · subst h
    by_cases h0 : pairIn fr n = none
    · simp [h0, pairIn_insertEntry_same fr p pc (1#64 <<< n) 0 n (by rw [one_shift_bit hn]; simp) h0]
    · simp [h0]
  · simp only [h, false_and, if_false]
    exact pairIn_insertEntry _ _ _ _ _ _ (by rw [one_shift_bit hm]; simp [h])

theorem pairIn_removeLanes (fr : List Entry) (mask : W64) (n : Nat) (hn : n < 64) :
    pairIn (removeLanes fr mask) n = if mask.getLsbD n then none else pairIn fr n := by
  induction fr with
  | nil => simp [removeLanes, pairIn_nil]
  | cons e fr ih =>
    have hb : (e.mask &&& ~~~mask).getLsbD n = (e.mask.getLsbD n && !mask.getLsbD n) := by simp [hn]
    unfold removeLanes at *
    rw [List.map_cons, List.filter_cons]
    split
    · rw [pairIn_cons, pairIn_cons, ih]
      simp only [hb]
      cases e.mask.getLsbD n <;> cases mask.getLsbD n <;> simp
    · next h0 =>
      rw [ih, pairIn_cons]
      have : (e.mask &&& ~~~mask) = 0 := by simpa using h0
      rw [this] at hb
      cases h1 : e.mask.getLsbD n <;> cases h2 : mask.getLsbD n <;> simp_all

/-- Where the outcome of a lane leaves it in the frontier. -/
def LaneOut.stands (i : Issue) (priv : Bool) : LaneOut → Option (BitVec 8 × Nat)
  | .go x => some (x.pair i priv)
  | .stand p pc => some (p, pc)
  | _ => none

theorem Cohort.enterAll_frontier (c : Cohort) (i : Issue) (os : List (Nat × LaneOut)) (hd : (os.map fun x => x.1).Nodup)
    (hlt : ∀ x ∈ os, x.1 < 64) (h0 : ∀ x ∈ os, pairIn c.frontier x.1 = none) (m : Nat) (hm : m < 64) :
    pairIn (c.enterAll i os).frontier m
      = match os.find? fun x => x.1 = m with
        | some x => x.2.stands i c.priv
        | none => pairIn c.frontier m := by
  induction os generalizing c with
  | nil => rfl
  | cons o os ih =>
    obtain ⟨n, o⟩ := o
    simp only [List.map_cons, List.nodup_cons] at hd
    have hn : n < 64 := hlt (n, o) (by simp)
    have hnone : pairIn c.frontier n = none := h0 (n, o) (by simp)
    have hfind : (os.find? fun x => x.1 = n) = none := by
      rw [List.find?_eq_none]
      intro x hx h
      exact hd.1 (List.mem_map.mpr ⟨x, hx, by simpa using h⟩)
    have ins : ∀ (p : BitVec 8) (pc : Nat), LaneOut.stands i c.priv o = some (p, pc) →
        pairIn ((c.insert p pc (1#64 <<< n)).enterAll i os).frontier m
          = match ((n, o) :: os).find? fun x => x.1 = m with
            | some x => x.2.stands i c.priv
            | none => pairIn c.frontier m := by
      intro p pc ho
      have hfr : ∀ k, k < 64 → pairIn (c.insert p pc (1#64 <<< n)).frontier k = if n = k then some (p, pc) else pairIn c.frontier k := by
        intro k hk
        show pairIn (insertLanes c.frontier p pc (1#64 <<< n)) k = _
        rw [pairIn_insertLanes _ _ _ _ _ hn hk]
        by_cases h : n = k
        · subst h; simp [hnone]
        · simp [h]
      rw [ih (c.insert p pc (1#64 <<< n)) hd.2 (fun x hx => hlt x (List.mem_cons_of_mem _ hx)) ?_]
      · rw [List.find?_cons]
        by_cases h : n = m
        · subst h
          simp only [hfind, decide_true]
          rw [hfr n hm]
          simp [ho]
        · simp only [h, decide_false]
          have : (c.insert p pc (1#64 <<< n)).priv = c.priv := rfl
          rw [this, hfr m hm, if_neg h]
      · intro x hx
        rw [hfr x.1 (hlt x (List.mem_cons_of_mem _ hx)), if_neg, h0 x (List.mem_cons_of_mem _ hx)]
        intro h
        exact hd.1 (List.mem_map.mpr ⟨x, hx, h.symm⟩)
    have skip : LaneOut.stands i c.priv o = none → pairIn (c.enterAll i os).frontier m
          = match ((n, o) :: os).find? fun x => x.1 = m with
            | some x => x.2.stands i c.priv
            | none => pairIn c.frontier m := by
      intro ho
      rw [ih c hd.2 (fun x hx => hlt x (List.mem_cons_of_mem _ hx)) (fun x hx => h0 x (List.mem_cons_of_mem _ hx)), List.find?_cons]
      by_cases h : n = m
      · subst h; simp [hfind, ho, hnone]
      · simp [h]
    cases o with
    | go x => exact ins _ _ rfl
    | stand p pc => exact ins _ _ rfl
    | eff e => exact skip rfl
    | park b k2 => exact skip rfl
    | held h => exact skip rfl
    | stall => exact skip rfl
    | off => exact skip rfl

theorem Cohort.enterAll_lanes (c : Cohort) (i : Issue) (os : List (Nat × LaneOut)) : (c.enterAll i os).lanes = c.lanes := by
  induction os generalizing c with
  | nil => rfl
  | cons o os ih =>
    obtain ⟨n, o⟩ := o
    cases o <;> simp only [Cohort.enterAll, ih] <;> rfl

theorem Cohort.enterAll_rest (c : Cohort) (i : Issue) (os : List (Nat × LaneOut)) : (c.enterAll i os).rest = c.rest := by
  induction os generalizing c with
  | nil => rfl
  | cons o os ih =>
    obtain ⟨n, o⟩ := o
    cases o <;> simp only [Cohort.enterAll, ih] <;> rfl

theorem mem_maskList (m : W64) (n : Nat) : n ∈ maskList m ↔ m.getLsbD n = true := by
  unfold maskList
  simp only [List.mem_filter, List.mem_range]
  constructor
  · exact fun h => h.2
  · intro h
    refine ⟨?_, h⟩
    by_contra hn
    rw [BitVec.getLsbD_of_ge _ _ (by omega)] at h
    exact absurd h (by simp)

theorem nodup_maskList (m : W64) : (maskList m).Nodup := List.Nodup.filter _ List.nodup_range

theorem Cohort.settleAll_lane (c : Cohort) (i : Issue) (u : RegUse) (outs : List (Nat × LaneOut)) (n : Nat) :
    (c.settleAll i u outs).lane? n = (c.lane? n).map fun l =>
      if i.mask.getLsbD n then l.settle i u (lookup outs n).isSome c.priv (outOf outs n) else l := by
  unfold Cohort.settleAll Cohort.lane?
  rw [Cohort.enterAll_lanes]
  have := numGet_map c.lanes (fun n (l : Lane) =>
    if i.mask.getLsbD n then l.settle i u (lookup outs n).isSome c.priv (outOf outs n) else l) n
  rw [← this]
  congr 1
  apply List.map_congr_left
  intro x _
  by_cases h : i.mask.getLsbD x.1 <;> simp [h]

theorem Cohort.settleAll_pair (c : Cohort) (i : Issue) (u : RegUse) (outs : List (Nat × LaneOut)) (n : Nat) (hn : n < 64) :
    pairIn (c.settleAll i u outs).frontier n
      = if i.mask.getLsbD n then (outOf outs n).stands i c.priv else pairIn c.frontier n := by
  unfold Cohort.settleAll
  rw [Cohort.enterAll_frontier _ _ _ ?_ ?_ ?_ n hn]
  · have hp : ∀ k < 64, pairIn (removeLanes c.frontier i.mask) k = if i.mask.getLsbD k then none else pairIn c.frontier k :=
      fun k hk => pairIn_removeLanes _ _ _ hk
    by_cases h : i.mask.getLsbD n = true
    · have hm : n ∈ i.lanes := (mem_maskList _ _).mpr h
      have : ((i.lanes.map fun k => (k, outOf outs k)).find? fun x => x.1 = n) = some (n, outOf outs n) := by
        rw [List.find?_map]
        have : (i.lanes.find? ((fun x : Nat × LaneOut => decide (x.1 = n)) ∘ fun k => (k, outOf outs k))) = some n := by
          rw [List.find?_eq_some_iff_append]
          obtain ⟨as, bs, hab⟩ := List.append_of_mem hm
          refine ⟨by simp, as, bs, hab, fun a ha => ?_⟩
          have nd : (as ++ n :: bs).Nodup := hab ▸ nodup_maskList i.mask
          have : a ≠ n := by
            rw [List.nodup_append] at nd
            exact nd.2.2 a ha n (by simp)
          simpa using this
        rw [this]; rfl
      rw [this, if_pos h]
    · have hm : n ∉ i.lanes := fun hc => h ((mem_maskList _ _).mp hc)
      have : ((i.lanes.map fun k => (k, outOf outs k)).find? fun x => x.1 = n) = none := by
        rw [List.find?_eq_none]
        intro x hx
        obtain ⟨k, hk, rfl⟩ := List.mem_map.mp hx
        simp only [decide_eq_true_eq]
        rintro rfl
        exact hm hk
      rw [this]
      simp [h, hp n hn]
  · rw [List.map_map]
    have : ((fun x : Nat × LaneOut => x.1) ∘ fun n => (n, outOf outs n)) = id := rfl
    rw [this, List.map_id]
    exact nodup_maskList _
  · intro x hx
    obtain ⟨k, hk, rfl⟩ := List.mem_map.mp hx
    have := (mem_maskList _ _).mp hk
    by_contra hc
    rw [BitVec.getLsbD_of_ge _ _ (by simpa using hc)] at this
    exact absurd this (by simp)
  · intro x hx
    obtain ⟨k, hk, rfl⟩ := List.mem_map.mp hx
    have h1 := (mem_maskList _ _).mp hk
    have h2 : k < 64 := by
      by_contra hc
      rw [BitVec.getLsbD_of_ge _ _ (by omega)] at h1
      exact absurd h1 (by simp)
    show pairIn (removeLanes c.frontier i.mask) k = none
    rw [pairIn_removeLanes _ _ _ h2, if_pos h1]

theorem Cohort.settleAll_rest (c : Cohort) (i : Issue) (u : RegUse) (outs : List (Nat × LaneOut)) :
    (c.settleAll i u outs).rest = c.rest := by
  unfold Cohort.settleAll
  rw [Cohort.enterAll_rest]
  rfl

theorem State.pair?_eq (s : State) (k : LaneKey) : s.pair? k = (s.cohort? k.coh).bind fun c => pairIn c.frontier k.lane := rfl

/-- A lane's outcome that is no effect. -/
def LaneOut.quiet : LaneOut → Bool
  | .eff _ => false
  | _ => true

theorem State.deliverAll_nil (s : State) : s.deliverAll [] = s := rfl

theorem State.duesOf_quiet (s : State) (i : Issue) (outs : List (Nat × LaneOut)) (h : ∀ x ∈ outs, x.2.quiet = true) :
    s.duesOf i outs = [] := by
  unfold State.duesOf
  rw [List.filterMap_eq_nil_iff]
  intro x hx
  have := h x hx
  obtain ⟨n, o⟩ := x
  cases o <;> simp_all [LaneOut.quiet]

/-- The end of an issue none of whose lanes takes an effect: each lane settles by its outcome, and nothing else changes. -/
theorem State.finish_quiet (s : State) (i : Issue) (c : Cohort) (u : RegUse) (outs : List (Nat × LaneOut))
    (hi : s.issue = none) (hc : s.cohort? i.key = some c) (hq : ∀ x ∈ outs, x.2.quiet = true) :
    Issued s (s.finish i u outs) i (fun n l => l.settle i u (lookup outs n).isSome c.priv (outOf outs n))
      (fun n => (outOf outs n).stands i c.priv) ∧ CoresSame s (s.finish i u outs) ∧ (s.finish i u outs).rest = s.rest := by
  have hfin : s.finish i u outs
      = ((s.noteIssue i.key).modCohort i.key fun c => c.settleAll i u outs).settleReserve i.key.die i.key.core := by
    show (((_ : State).deliverAll (State.duesOf _ i outs)).settleReserve _ _) = _
    rw [State.duesOf_quiet _ _ _ hq, State.deliverAll_nil]
  rw [hfin]
  have R := State.settleReserve_only ((s.noteIssue i.key).modCohort i.key fun c => c.settleAll i u outs) i.key.die i.key.core
  set t := (s.noteIssue i.key).modCohort i.key fun c => c.settleAll i u outs with ht
  have hcoh : ∀ k, t.cohort? k = if i.key = k then some ({ c with lastIssue := s.issues + 1 }.settleAll i u outs) else s.cohort? k := by
    intro k
    rw [ht, State.cohort?_modCohort]
    unfold State.noteIssue
    rw [State.cohort?_modCore, State.cohort?_modCohort, State.cohort?_modCore, State.cohort?_modCohort]
    have e1 : State.cohort? { s with issues := s.issues + 1 } i.key = some c := hc
    have e2 : State.cohort? { s with issues := s.issues + 1 } k = s.cohort? k := rfl
    by_cases h : i.key = k
    · subst h; simp [e1]
    · simp [h, e2]
  have keep : ∀ (x : State) (k : CohKey) (f : Cohort → Cohort) (d e : Nat), (x.modCohort k f).core d e = x.core d e := by
    intro x k f d e; unfold State.core; rw [State.modCohort_cores]
  have hcore : ∀ d e, (t.core d e).rest = (s.core d e).rest := by
    intro d e
    rw [ht, keep, State.noteIssue, State.core_modCore]
    split
    · next h => cases h; rw [keep]; rfl
    · rw [keep]; rfl
  have hrest : t.rest = s.rest := by
    have : ∀ (x : State) (k : CohKey) (f : Cohort → Cohort), (x.modCohort k f).rest = x.rest := by
      intro x k f; unfold State.modCohort; split <;> rfl
    have core : ∀ (x : State) (d e : Nat) (f : Core → Core), (x.modCore d e f).rest = x.rest := fun _ _ _ _ => rfl
    rw [ht, this, State.noteIssue, core, this]
    rfl
  refine ⟨⟨?_, ?_, ?_, ?_, ?_, ?_, ?_⟩, ?_, ?_⟩
  · intro n l hn hl
    rw [R.lane?, State.lane?, hcoh]
    simp only [Issue.lane, if_true, Option.bind_some]
    rw [Cohort.settleAll_lane]
    have : Cohort.lane? { c with lastIssue := s.issues + 1 } n = some l := by
      have : s.lane? (i.lane n) = c.lane? n := by unfold State.lane? Issue.lane; rw [hc]; rfl
      rw [← hl, this]; rfl
    rw [this]
    simp [hn]
  · intro n hn
    have hlt : n < 64 := by
      by_contra hc'
      rw [BitVec.getLsbD_of_ge _ _ (by omega)] at hn
      exact absurd hn (by simp)
    rw [R.pair?, State.pair?_eq, hcoh]
    simp only [Issue.lane, if_true, Option.bind_some]
    rw [Cohort.settleAll_pair _ _ _ _ _ hlt, if_pos hn]
  · intro k hk
    rw [R.lane?, State.lane?, State.lane?, hcoh]
    by_cases h : i.key = k.coh
    · rw [if_pos h, ← h, hc]
      simp only [Option.bind_some]
      rw [Cohort.settleAll_lane]
      have hb : i.mask.getLsbD k.lane = false := by
        cases hb : i.mask.getLsbD k.lane
        · rfl
        · exact absurd ⟨h.symm, hb⟩ hk
      simp only [hb, Bool.false_eq_true, if_false, Option.map_id']
      rfl
    · rw [if_neg h]
  · intro k hk
    rw [R.pair?, State.pair?_eq, State.pair?_eq, hcoh]
    by_cases h : i.key = k.coh
    · rw [if_pos h, ← h, hc]
      simp only [Option.bind_some]
      have hb : i.mask.getLsbD k.lane = false := by
        cases hb : i.mask.getLsbD k.lane
        · rfl
        · exact absurd ⟨h.symm, hb⟩ hk
      by_cases hlt : k.lane < 64
      · rw [Cohort.settleAll_pair _ _ _ _ _ hlt]
        simp [hb]
      · have big : ∀ fr : List Entry, pairIn fr k.lane = none := by
          intro fr
          induction fr with
          | nil => rfl
          | cons e fr ih =>
            rw [pairIn_cons, ih, BitVec.getLsbD_of_ge _ _ (by omega)]; rfl
        rw [big, big]
    · rw [if_neg h]
  · intro k
    rw [R.cohort?, hcoh]
    by_cases h : i.key = k
    · subst h
      rw [if_pos rfl, hc, Option.map_some, Cohort.settleAll_rest]
      rfl
    · simp [h]
  · rw [R.issues, ht]; simp [State.noteIssue]
  · rw [R.issue, ht]; simp [State.noteIssue, hi]
  · intro d c'
    rw [R.core, hcore]
  · rw [R.rest, hrest]

/-! Instructions that touch only registers. -/

theorem State.laneAt_of (s : State) (i : Issue) (n : Nat) (l : Lane) (h : s.lane? (i.lane n) = some l) : s.laneAt i n = l := by
  unfold State.laneAt
  rw [h]
  rfl

theorem State.mem_executing (s : State) (i : Issue) (g : Guard) (n : Nat) :
    n ∈ s.executing i g ↔ i.mask.getLsbD n = true ∧ (s.laneAt i n).passes g = true := by
  unfold State.executing Issue.lanes
  rw [List.mem_filter, mem_maskList]

theorem lookup_map_self (ns : List Nat) (f : Nat → LaneOut) (n : Nat) :
    lookup (ns.map fun k => (k, f k)) n = if n ∈ ns then some (f n) else none := by
  induction ns with
  | nil => rfl
  | cons k ks ih =>
    rw [List.map_cons]
    unfold lookup
    rw [ih]
    by_cases h : k = n
    · subst h; simp
    · simp [h, Ne.symm h]

theorem State.mayGrow_idle (s : State) (k : CohKey) (extra n : Nat) :
    s.idle.mayGrow k extra n = s.mayGrow k extra n := by
  induction n generalizing extra with
  | zero => rfl
  | succ n ih =>
    unfold State.mayGrow
    rw [ih]
    rfl

theorem State.growOk_idle (s : State) (k : CohKey) (regs : List Nat) :
    s.idle.growOk k regs = s.growOk k regs := by
  unfold State.growOk
  simp only [State.mayGrow_idle]
  rfl

@[simp] theorem RegUse.lastAt_false (u : RegUse) (p : Nat → Bool) : u.lastAt false p = u.lastOf false := by
  simp [RegUse.lastAt]

/-- Where a lane goes on after an instruction, by its guard. -/
def Lane.goesOn (l : Lane) (i : Issue) (c : Cohort) (g : Guard) (nx : Lane → Next) : BitVec 8 × Nat :=
  if l.passes g then (nx l).pair i c.priv else (i.prio, i.nextPc c.priv)

/-- A lane of the entry after an instruction that changes it by `f` and sends it to `nx` where its guard is true. -/
def Lane.afterTo (l : Lane) (i : Issue) (c : Cohort) (g : Guard) (u : RegUse) (f : Lane → Lane) (nx : Lane → Next) : Lane :=
  { (if l.passes g then (f l).complete (u.lastAt true (f l).pending) else l.complete (u.lastOf false)) with
    prio := (l.goesOn i c g nx).1, pc := (l.goesOn i c g nx).2, keeps := [] }

/-- `r` is `s` with lanes of the entry changed by `f`, and with what `rest` leaves out of no change but the growth reserve. -/
structure LanesDone (s r : State) (i : Issue) (f : Nat → Lane → Lane) : Prop where
  lanes : ∀ n, i.mask.getLsbD n = true → r.lane? (i.lane n) = (s.lane? (i.lane n)).map (f n)
  otherLanes : ∀ k, ¬ i.has k → r.lane? k = s.lane? k
  pairs : ∀ k, r.pair? k = s.pair? k
  slots : ∀ k, (r.cohort? k).map Cohort.rest = (s.cohort? k).map Cohort.rest
  issues : r.issues = s.issues
  issue : r.issue = none

namespace LanesDone
variable {s r : State} {i : Issue} {f : Nat → Lane → Lane}

theorem idle (s : State) (i : Issue) : LanesDone s s.idle i fun _ l => l :=
  ⟨fun n _ => (Option.map_id' (x := s.lane? (i.lane n))).symm, fun _ _ => rfl, fun _ => rfl, fun _ => rfl, rfl, rfl⟩

theorem grown (s : State) (i : Issue) (regs : List Nat) :
    LanesDone s (s.idle.noteGrown i.key regs) i fun _ l => l := by
  have G := State.noteGrown_only s.idle i.key regs
  exact ⟨fun n _ => (G.lane? _).trans (Option.map_id' (x := s.lane? (i.lane n))).symm, fun k _ => G.lane? k, fun k => G.pair? k,
    fun k => congrArg _ (G.cohort? k), G.issues, G.issue⟩

/-- A further change of one lane of the entry. -/
theorem modLane (h : LanesDone s r i f) {n : Nat} (hn : i.mask.getLsbD n = true) (g : Lane → Lane) :
    LanesDone s (r.modLane (i.lane n) g) i fun m l => if m = n then g (f m l) else f m l := by
  cases hl : r.lane? (i.lane n) with
  | none =>
    have e : r.modLane (i.lane n) g = r := by unfold State.modLane; rw [hl]
    rw [e]
    refine ⟨fun m hm => ?_, h.otherLanes, h.pairs, h.slots, h.issues, h.issue⟩
    have := h.lanes m hm
    by_cases hmn : m = n
    · subst hmn
      rw [hl] at this ⊢
      cases hs : s.lane? (i.lane m) with
      | none => rfl
      | some l => rw [hs] at this; exact absurd this (by simp)
    · simp only [if_neg hmn]; exact this
  | some l0 =>
    have e : r.modLane (i.lane n) g = r.modCohort i.key fun c => c.setLane n (g l0) := by
      unfold State.modLane; rw [hl]; rfl
    have hc : ∃ c, r.cohort? i.key = some c ∧ c.lane? n = some l0 := by
      unfold State.lane? at hl
      cases hc : r.cohort? (i.lane n).coh with
      | none => rw [hc] at hl; exact absurd hl (by simp)
      | some c => rw [hc] at hl; exact ⟨c, hc, hl⟩
    obtain ⟨c, hc, hcl⟩ := hc
    have hlane : ∀ k, (r.modLane (i.lane n) g).lane? k = if k = i.lane n then some (g l0) else r.lane? k := by
      intro k
      rw [e, State.lane?_modCohort]
      by_cases hk : i.key = k.coh
      · rw [if_pos hk, hc, Option.bind_some]
        show numGet (numSet c.lanes n (g l0)) k.lane = _
        rw [numGet_numSet]
        by_cases hn : n = k.lane
        · have : k = i.lane n := by cases k; simp_all [Issue.lane]
          rw [if_pos hn, if_pos this]
        · have : k ≠ i.lane n := by rintro rfl; exact hn rfl
          rw [if_neg hn, if_neg this, State.lane?, ← hk, hc]
          rfl
      · have : k ≠ i.lane n := by rintro rfl; exact hk rfl
        rw [if_neg hk, if_neg this]
    refine ⟨fun m hm => ?_, fun k hk => ?_, fun k => ?_, fun k => ?_, ?_, ?_⟩
    · rw [hlane]
      by_cases hmn : m = n
      · subst hmn
        have := h.lanes m hm
        rw [hl] at this
        cases hs : s.lane? (i.lane m) with
        | none => rw [hs] at this; exact absurd this (by simp)
        | some l => rw [hs] at this; simp only [if_true, Option.map_some]; rw [Option.some.inj this]
      · have : i.lane m ≠ i.lane n := by intro he; exact hmn (by simpa [Issue.lane] using he)
        rw [if_neg this]
        simp only [if_neg hmn]
        exact h.lanes m hm
    · rw [hlane]
      have he : k ≠ i.lane n := by rintro rfl; exact hk ⟨rfl, hn⟩
      rw [if_neg he]
      exact h.otherLanes k hk
    · rw [← h.pairs k, e, State.pair?_eq, State.pair?_eq, State.cohort?_modCohort]
      split
      · next hk => rw [← hk, hc]; rfl
      · rfl
    · rw [← h.slots k, e, State.cohort?_modCohort]
      split
      · next hk => rw [← hk, hc]; rfl
      · rfl
    · rw [e, State.modCohort_issues]; exact h.issues
    · rw [e, State.modCohort_issue]; exact h.issue

/-- A change outside the lanes, the frontiers and the cores. -/
theorem other {r' : State} (h : LanesDone s r i f) (hc : r'.cohorts = r.cohorts) (hi : r'.issues = r.issues)
    (hx : r'.issue = none) : LanesDone s r' i f := by
  have e : ∀ k, r'.cohort? k = r.cohort? k := fun k => by unfold State.cohort?; rw [hc]
  refine ⟨fun n hm => ?_, fun k hk' => ?_, fun k => ?_, fun k => ?_, hi.trans h.issues, hx⟩
  · rw [← h.lanes n hm, State.lane?, e]; rfl
  · rw [← h.otherLanes k hk', State.lane?, e]; rfl
  · rw [← h.pairs k, State.pair?_eq, e]; rfl
  · rw [e]; exact h.slots k

theorem congr {f' : Nat → Lane → Lane} (h : LanesDone s r i f)
    (e : ∀ n l, i.mask.getLsbD n = true → s.lane? (i.lane n) = some l → f n l = f' n l) : LanesDone s r i f' :=
  ⟨fun n hm => by
    rw [h.lanes n hm]
    cases hl : s.lane? (i.lane n) with
    | none => rfl
    | some l => rw [Option.map_some, Option.map_some, e n l hm hl], h.otherLanes, h.pairs, h.slots, h.issues, h.issue⟩

theorem cohort (h : LanesDone s r i f) {c : Cohort} (hc : s.cohort? i.key = some c) :
    ∃ c', r.cohort? i.key = some c' ∧ c'.rest = c.rest := by
  have := h.slots i.key
  rw [hc] at this
  cases hr : r.cohort? i.key with
  | none => rw [hr] at this; exact absurd this (by simp)
  | some c' => rw [hr] at this; exact ⟨c', rfl, by simpa using this⟩

/-- The end of an issue after its lanes have done their work, none of them taking an effect. -/
theorem finish (h : LanesDone s r i f) {c : Cohort} (hc : s.cohort? i.key = some c) (u : RegUse) (outs : List (Nat × LaneOut))
    (hq : ∀ x ∈ outs, x.2.quiet = true) :
    Issued s (r.finish i u outs) i (fun n l => (f n l).settle i u (lookup outs n).isSome c.priv (outOf outs n))
      (fun n => (outOf outs n).stands i c.priv) ∧ CoresSame r (r.finish i u outs) ∧ (r.finish i u outs).rest = r.rest := by
  obtain ⟨c', hc', hr⟩ := h.cohort hc
  have hp : c'.priv = c.priv := by
    have := congrArg (fun x : Cohort => x.priv) hr
    exact this
  obtain ⟨I, R⟩ := State.finish_quiet r i c' u outs h.issue hc' hq
  rw [hp] at I
  exact ⟨⟨fun n l hm hl => I.lanes n _ hm (by rw [h.lanes n hm, hl]; rfl), I.pairs, fun k hk => (I.otherLanes k hk).trans (h.otherLanes k hk),
    fun k hk => (I.otherPairs k hk).trans (h.pairs k), fun k => (I.slots k).trans (h.slots k), I.count.trans (by rw [h.issues]), I.ended⟩, R⟩

end LanesDone

/-- Lanes that all go on do not stall their issue. -/
theorem any_stall_go (ns : List Nat) (nx : Nat → Next) :
    ((ns.map fun n => (n, LaneOut.go (nx n))).any fun x => x.2 = .stall) = false := by
  induction ns with
  | nil => rfl
  | cons n ns ih => rw [List.map_cons, List.any_cons, ih]; simp

/-- An issue that may go ahead: the executing lanes do their work, and the issue ends, unless one of them stalls it. -/
theorem State.issueWith_run (s : State) (i : Issue) (c : Cohort) (g : Guard) (u : RegUse)
    (w : State → List Nat → State × List (Nat × LaneOut)) (h : CanIssue s i c g u) :
    s.idle.issueWith i g u w
      = if (s.executing i g).isEmpty then s.idle.finish i u []
        else if (w (s.idle.noteGrown i.key u.writes) (s.executing i g)).2.any fun x => x.2 = .stall then s.idle
        else (w (s.idle.noteGrown i.key u.writes) (s.executing i g)).1.finish i u
          (w (s.idle.noteGrown i.key u.writes) (s.executing i g)).2 := by
  have e1 : s.idle.mustWait i g u = false := h.ready
  have e2 : s.idle.growOk i.key u.writes = true := (s.growOk_idle _ _).trans h.growth
  have e3 : s.idle.executing i g = s.executing i g := rfl
  unfold State.issueWith
  simp only [e1, e2, e3, Bool.false_eq_true, if_false, Bool.not_true]

theorem nodup_executing (s : State) (i : Issue) (g : Guard) : (s.executing i g).Nodup := (nodup_maskList _).filter _

/-- Executing lanes that act one after another, each on itself alone: lane n by `f n`, going on at `nx n`. -/
theorem runLanes_own (s : State) (i : Issue) (G : State → Nat → State × LaneOut) (f : Nat → Lane → Lane) (nx : Nat → Next)
    (r0 : State) (ex : List Nat) (hm : ∀ n ∈ ex, i.mask.getLsbD n = true) (hd : ex.Nodup)
    (hG : ∀ t h n, LanesDone s t i h → t.rest = r0.rest → n ∈ ex → t.lane? (i.lane n) = s.lane? (i.lane n) →
      G t n = (t.modLane (i.lane n) (f n), .go (nx n)))
    (r : State) (h0 : Nat → Lane → Lane) (hr : LanesDone s r i h0) (hrr : r.rest = r0.rest) (h1 : ∀ n ∈ ex, ∀ l, h0 n l = l) :
    LanesDone s (runLanes G ex r).1 i (fun n l => if n ∈ ex then f n l else h0 n l)
      ∧ (runLanes G ex r).1.cores = r.cores ∧ (runLanes G ex r).1.rest = r0.rest ∧ (runLanes G ex r).2 = ex.map fun n => (n, .go (nx n)) := by
  induction ex generalizing r h0 with
  | nil => exact ⟨hr.congr fun n l _ _ => by simp, rfl, hrr, rfl⟩
  | cons n ex ih =>
    have hmn := hm n (by simp)
    rw [List.nodup_cons] at hd
    have e : G r n = (r.modLane (i.lane n) (f n), .go (nx n)) := by
      refine hG r h0 n hr hrr (by simp) ?_
      rw [hr.lanes n hmn, funext (h1 n (by simp))]
      exact Option.map_id'
    have hr' : (r.modLane (i.lane n) (f n)).rest = r0.rest := by
      rw [← hrr]
      unfold State.modLane
      split
      · unfold State.setLane State.modCohort; split <;> rfl
      · rfl
    have st := ih (fun m hx => hm m (List.mem_cons_of_mem _ hx)) hd.2
      (fun t h m a b c d => hG t h m a b (List.mem_cons_of_mem _ c) d)
      (r.modLane (i.lane n) (f n)) (fun m l => if m = n then f n (h0 m l) else h0 m l)
      ((hr.modLane hmn (f n)).congr fun m l _ _ => rfl) hr' ?_
    · simp only [runLanes, e]
      refine ⟨st.1.congr fun m l _ hl => ?_, st.2.1.trans (State.modLane_cores _ _ _), st.2.2.1, by rw [st.2.2.2]; rfl⟩
      by_cases hmx : m ∈ ex
      · simp [hmx]
      · by_cases hmn' : m = n
        · subst hmn'; simp [hmx, h1 m (by simp) l]
        · simp [hmx, hmn']
    · intro m hx l
      have : m ≠ n := by rintro rfl; exact hd.1 hx
      rw [if_neg this]
      exact h1 m (List.mem_cons_of_mem _ hx) l

/-- An instruction whose executing lanes act one after another, each on itself alone, and go on at the next instruction. -/
theorem State.issueWith_own (s : State) (i : Issue) (c : Cohort) (g : Guard) (u : RegUse) (G : State → Nat → State × LaneOut)
    (F : Nat → Lane → Lane) (h : CanIssue s i c g u)
    (hG : ∀ t e n, LanesDone s t i e → t.rest = s.rest → n ∈ s.executing i g → t.lane? (i.lane n) = s.lane? (i.lane n) →
      G t n = (t.modLane (i.lane n) (F n), .go .seq)) :
    RegsDone s (s.idle.issueWith i g u fun t ex => runLanes G ex t) i c g u F := by
  rw [State.issueWith_run s i c _ _ _ h]
  have hexec := fun n => State.mem_executing s i g n
  split
  · next hex =>
    have hn : ∀ n, i.mask.getLsbD n = true → (s.laneAt i n).passes g = false := by
      intro n hm
      cases hp : (s.laneAt i n).passes g
      · rfl
      · have := (hexec n).mpr ⟨hm, hp⟩
        rw [List.isEmpty_iff.mp hex] at this
        exact absurd this (by simp)
    obtain ⟨I, K, R⟩ := (LanesDone.idle s i).finish h.cohort u [] (by simp)
    refine ⟨⟨fun n l hm hl => ?_, fun n hm => ?_, I.otherLanes, I.otherPairs, I.slots, I.count, I.ended⟩, K, R⟩
    · rw [I.lanes n l hm hl]
      have hp : l.passes g = false := by rw [← State.laneAt_of s i n l hl]; exact hn n hm
      simp [Lane.after, hp, Lane.settle, outOf, lookup, Next.pair]
    · rw [I.pairs n hm]
      simp [outOf, lookup, LaneOut.stands, Next.pair]
  · have R0 : (s.idle.noteGrown i.key u.writes).rest = s.rest :=
      (State.noteGrown_only s.idle i.key u.writes).rest
    obtain ⟨L, C, R, O⟩ := runLanes_own s i (G) F (fun _ => .seq) s (s.executing i g) (fun n hn => ((hexec n).mp hn).1)
      (nodup_executing s i _) hG (s.idle.noteGrown i.key u.writes) (fun _ l => l)
      (LanesDone.grown s i _) R0 (fun _ _ _ => rfl)
    rw [O, any_stall_go _ fun _ => .seq, if_neg (by simp)]
    obtain ⟨I, K, R'⟩ := L.finish h.cohort u ((s.executing i g).map fun n => (n, LaneOut.go .seq))
      (by intro x hx; obtain ⟨n, _, rfl⟩ := List.mem_map.mp hx; rfl)
    have hlk : ∀ n, lookup ((s.executing i g).map fun n => (n, LaneOut.go .seq)) n
        = if n ∈ s.executing i g then some (LaneOut.go .seq) else none := fun n => lookup_map_self _ (fun _ => .go .seq) n
    have hout : ∀ n, outOf ((s.executing i g).map fun n => (n, LaneOut.go .seq)) n = .go .seq := by
      intro n; unfold outOf; rw [hlk]; split <;> rfl
    refine ⟨⟨fun n l hm hl => ?_, fun n hm => ?_, I.otherLanes, I.otherPairs, I.slots, I.count, I.ended⟩,
      fun d c' => (K d c').trans ?_, R'.trans R⟩
    · rw [I.lanes n l hm hl, hout, hlk]
      have hla := State.laneAt_of s i n l hl
      have hmn := hexec n
      rw [hla] at hmn
      by_cases hp : l.passes g = true
      · have hn := hmn.mpr ⟨hm, hp⟩
        simp [hn, hp, Lane.after, Lane.settle, Next.pair]
      · have hn : n ∉ s.executing i g := fun hc => hp (hmn.mp hc).2
        simp [hn, hp, Lane.after, Lane.settle, Next.pair]
    · rw [I.pairs n hm, hout]
      rfl
    · rw [State.core, C]
      exact (State.noteGrown_only s.idle i.key u.writes).core d c'

/-- The same for an instruction of a form. -/
theorem execLanes_done (o : Op) (f : Form) (s : State) (i : Issue) (c : Cohort) (G : Issue → State → Nat → State × LaneOut)
    (F : Nat → Lane → Lane) (h : CanIssue s i c f.guard (f.use o))
    (hG : ∀ t e n, LanesDone s t i e → t.rest = s.rest → n ∈ s.executing i f.guard → t.lane? (i.lane n) = s.lane? (i.lane n) →
      G i t n = (t.modLane (i.lane n) (F n), .go .seq)) :
    ∃ t, execLanes o f s G = .next t ∧ RegsDone s t i c f.guard (f.use o) F :=
  ⟨_, by unfold execLanes withIssue; rw [h.issue], State.issueWith_own s i c _ _ _ F h hG⟩

theorem State.issueWith_regOps (s : State) (i : Issue) (c : Cohort) (g : Guard) (u : RegUse) (G : Lane → RegOut)
    (f : Lane → Lane) (nx : Lane → Next) (h : CanIssue s i c g u)
    (hG : ∀ n ∈ s.executing i g, G (s.laneAt i n) = .ok (f (s.laneAt i n), nx (s.laneAt i n))) :
    Issued s (s.idle.issueWith i g u (runRegOps i G)) i (fun _ l => l.afterTo i c g u f nx)
      (fun n => some ((s.laneAt i n).goesOn i c g nx))
      ∧ CoresSame s (s.idle.issueWith i g u (runRegOps i G)) ∧ (s.idle.issueWith i g u (runRegOps i G)).rest = s.rest := by
  have e1 : s.idle.mustWait i g u = false := h.ready
  have e2 : s.idle.growOk i.key u.writes = true := (s.growOk_idle _ _).trans h.growth
  have e3 : s.idle.executing i g = s.executing i g := rfl
  have ec : s.idle.cohort? i.key = some c := h.cohort
  unfold State.issueWith
  simp only [e1, e2, e3, Bool.false_eq_true, if_false, Bool.not_true]
  by_cases hex : (s.executing i g).isEmpty = true
  · rw [if_pos hex]
    obtain ⟨I, K, R⟩ := State.finish_quiet s.idle i c u [] rfl ec (by simp)
    have hn : ∀ n, i.mask.getLsbD n = true → (s.laneAt i n).passes g = false := by
      intro n hm
      cases hp : (s.laneAt i n).passes g
      · rfl
      · have := (State.mem_executing s i g n).mpr ⟨hm, hp⟩
        rw [List.isEmpty_iff.mp hex] at this
        exact absurd this (by simp)
    refine ⟨⟨fun n l hm hl => ?_, fun n hm => ?_, I.otherLanes, I.otherPairs, I.slots, I.count, I.ended⟩, K, R⟩
    · rw [I.lanes n l hm hl]
      have hp : l.passes g = false := by rw [← State.laneAt_of s i n l hl]; exact hn n hm
      simp [Lane.afterTo, Lane.goesOn, hp, Lane.settle, outOf, lookup, Next.pair]
    · rw [I.pairs n hm]
      simp [Lane.goesOn, hn n hm, outOf, lookup, LaneOut.stands, Next.pair]
  · rw [if_neg hex]
    have G0 := State.noteGrown_only s.idle i.key u.writes
    set t0 := s.idle.noteGrown i.key u.writes with ht0
    set ex := s.executing i g with hexd
    have hlane0 : ∀ n, t0.laneAt i n = s.laneAt i n := fun n => by
      unfold State.laneAt; rw [G0.lane?]; rfl
    have houts : (runRegOps i G t0 ex).2 = ex.map fun n => (n, LaneOut.go (nx (s.laneAt i n))) := by
      unfold runRegOps
      apply List.map_congr_left
      intro n hn
      rw [hlane0, hG n hn]
    set set' : Cohort → Cohort := fun c => { c with
      lanes := c.lanes.map fun (x : Nat × Lane) =>
        if ex.contains x.1 then match G x.2 with
          | .ok r => (x.1, r.1)
          | .error _ => x
        else x } with hset
    have hst : (runRegOps i G t0 ex).1 = t0.modCohort i.key set' := rfl
    rw [hst, houts, any_stall_go _ fun n => nx (s.laneAt i n), if_neg (by simp)]
    have ec1 : (t0.modCohort i.key set').cohort? i.key = some (set' c) := by
      rw [State.cohort?_modCohort, if_pos rfl, G0.cohort?, ec]; rfl
    have ei : (t0.modCohort i.key set').issue = none := by
      rw [State.modCohort_issue, G0.issue]
      rfl
    obtain ⟨I, K, R⟩ := State.finish_quiet (t0.modCohort i.key set') i (set' c) u (ex.map fun n => (n, LaneOut.go (nx (s.laneAt i n)))) ei ec1
      (by intro x hx; obtain ⟨n, _, rfl⟩ := List.mem_map.mp hx; rfl)
    have hsetlane : ∀ n, (set' c).lane? n = (c.lane? n).map fun l =>
        if ex.contains n then (match G l with | .ok r => r.1 | .error _ => l) else l := by
      intro n
      show numGet _ n = _
      rw [Cohort.lane?, ← numGet_map c.lanes (fun n l => if ex.contains n then (match G l with | .ok r => r.1 | .error _ => l) else l) n]
      congr 1
      apply List.map_congr_left
      intro x _
      by_cases hx : ex.contains x.1 = true
      · simp only [hx, if_true]; cases G x.2 <;> rfl
      · rw [if_neg hx, if_neg hx]
    have hcl : ∀ n, s.lane? (i.lane n) = c.lane? n := fun n => by
      unfold State.lane? Issue.lane; rw [h.cohort]; rfl
    have hlane : ∀ n l, s.lane? (i.lane n) = some l →
        (t0.modCohort i.key set').lane? (i.lane n) = some (if ex.contains n then f l else l) := by
      intro n l hl
      have hla := State.laneAt_of s i n l hl
      rw [State.lane?]
      show ((t0.modCohort i.key set').cohort? i.key).bind (fun c => c.lane? n) = _
      rw [ec1, Option.bind_some, hsetlane]
      rw [hcl] at hl
      rw [hl, Option.map_some]
      by_cases hx : ex.contains n = true
      · have := hG n (by simpa using hx)
        rw [hla] at this
        simp only [hx, if_true, this]
      · rw [if_neg hx, if_neg hx]
    have hlk : ∀ n, lookup (ex.map fun n => (n, LaneOut.go (nx (s.laneAt i n)))) n
        = if n ∈ ex then some (LaneOut.go (nx (s.laneAt i n))) else none := fun n => lookup_map_self ex _ n
    have hmem : ∀ n, i.mask.getLsbD n = true → (n ∈ ex ↔ (s.laneAt i n).passes g = true) := by
      intro n hm
      rw [hexd, State.mem_executing]
      simp [hm]
    have hpriv : (set' c).priv = c.priv := rfl
    refine ⟨⟨fun n l hm hl => ?_, fun n hm => ?_, fun k hk => ?_, fun k hk => ?_, fun k => ?_, ?_, ?_⟩, fun d c' => ?_, ?_⟩
    · rw [I.lanes n _ hm (hlane n l hl), outOf, hlk]
      have hla := State.laneAt_of s i n l hl
      have hmn := hmem n hm
      rw [hla] at hmn ⊢
      by_cases hp : l.passes g = true
      · have hn := hmn.mpr hp
        have hc : ex.contains n = true := by simpa using hn
        simp [hn, hp, Lane.afterTo, Lane.goesOn, Lane.settle, hpriv]
      · have hn : n ∉ ex := fun hc => hp (hmn.mp hc)
        simp [hn, hp, Lane.afterTo, Lane.goesOn, Lane.settle, hpriv, Next.pair]
    · rw [I.pairs n hm, outOf, hlk]
      have hmn := hmem n hm
      by_cases hp : (s.laneAt i n).passes g = true
      · simp [hmn.mpr hp, hp, Lane.goesOn, LaneOut.stands, hpriv]
      · have hn : n ∉ ex := fun hc => hp (hmn.mp hc)
        simp [hn, hp, Lane.goesOn, LaneOut.stands, hpriv, Next.pair]
    · rw [I.otherLanes k hk, State.lane?_modCohort]
      split
      · next hkey =>
        rw [G0.cohort?, ec, Option.bind_some, hsetlane]
        have : ex.contains k.lane = false := by
          rw [Bool.eq_false_iff]
          intro hc
          have := (State.mem_executing s i g k.lane).mp (by simpa [hexd] using hc)
          exact hk ⟨hkey.symm, this.1⟩
        simp only [this, Bool.false_eq_true, if_false]
        unfold State.lane?
        rw [← hkey, h.cohort]
        simp
      · exact G0.lane? k
    · rw [I.otherPairs k hk, State.pair?_eq, State.pair?_eq, State.cohort?_modCohort]
      split
      · next hkey =>
        rw [G0.cohort?, ec, ← hkey, h.cohort]
        rfl
      · rw [G0.cohort?]; rfl
    · rw [I.slots k, State.cohort?_modCohort]
      split
      · next hkey =>
        subst hkey
        rw [G0.cohort?, ec, h.cohort]
        rfl
      · rw [G0.cohort?]; rfl
    · rw [I.count, State.modCohort_issues, G0.issues]
      rfl
    · exact I.ended
    · rw [K d c', State.core, State.modCohort_cores]
      exact G0.core d c'
    · rw [R]
      have : ∀ (x : State) (k : CohKey) (f : Cohort → Cohort), (x.modCohort k f).rest = x.rest := by
        intro x k f; unfold State.modCohort; split <;> rfl
      rw [this, G0.rest]
      rfl

/-- An instruction that changes only registers, and goes on at the next instruction. -/
theorem execRegs_done (o : Op) (f : Form) (s : State) (i : Issue) (c : Cohort) (G : Issue → Lane → RegOut) (F : Lane → Lane)
    (h : CanIssue s i c f.guard (f.use o))
    (hG : ∀ n ∈ s.executing i f.guard, G i (s.laneAt i n) = .ok (F (s.laneAt i n), .seq)) :
    ∃ t, execRegs o f s G = .next t ∧ RegsDone s t i c f.guard (f.use o) fun _ => F := by
  obtain ⟨I, K, R⟩ := State.issueWith_regOps s i c f.guard (f.use o) (G i) F (fun _ => .seq) h hG
  refine ⟨_, by unfold execRegs withIssue; rw [h.issue], ⟨fun n l hm hl => ?_, fun n hm => ?_, I.otherLanes, I.otherPairs, I.slots,
    I.count, I.ended⟩, K, R⟩
  · rw [I.lanes n l hm hl]
    unfold Lane.afterTo Lane.after Lane.goesOn
    split <;> rfl
  · rw [I.pairs n hm]
    unfold Lane.goesOn
    split <;> rfl

end Sys2Proof.Machine
end

