-- ==== Sys2Proof/Tests/Slice0.lean ====
section
/-! SUPPORT. Tests of the model: ill-formed terms that WellFormed refuses; words written out from the encodings of 08 to 17 and the
instructions they decode to; what one step leaves, in the specification's own examples; and, for the statements of
Certificates/Slice0/Obligations, states and operands that meet their hypotheses. -/

open Sys2Proof Sys2Proof.Machine

namespace Sys2Proof.Tests

set_option maxRecDepth 100000
set_option Elab.async false

/-! The states of the tests: one fibre or a few in one slot of die 0, about to issue at 0x1000. -/

def user : CohKey := ⟨0, 0, 0⟩
def super : CohKey := ⟨0, 0, 15⟩

/-- A cohort of gang 7 whose lanes stand in one entry. -/
def coh (ls : List (Nat × Lane)) : Cohort :=
  { gang := 7, lanes := ls, frontier := [⟨0x80, 0x1000, ls.foldl (fun m x => m ||| 1#64 <<< x.1) 0, 0⟩], active := true }

def iss (k : CohKey) (mask : W64) : Issue := { key := k, prio := 0x80, pc := 0x1000, mask := mask, age := 0, bytes := 12, word := 0 }

/-- The word of the region owner table of die 0 for the first 32 MiB: partition 1 (19 R408). -/
def owner : Host.Cell := (0x78000, 1)

/-- The translation of addresses below 512 GiB. -/
def tle : TlbEntry := ⟨0, true, 0, 3, 0xDF, 0⟩

/-- Die 0 in partition 1, which owns the first 32 MiB; addresses below 512 GiB are mapped to themselves. -/
def dieOf : Die :=
  { dcr := [(offFHBASE, 0x80000), (offFHSIZE, 16), (offATP, 10 * 2 ^ 60), (offSFHBASE, 0x90000), (offSFHSIZE, 16), (offPART, 1), (offMEMTOP, 2 ^ 36), (offROTBASE, 0x78000), (offFRZMAPBASE, 0x100000)], tlb := [tle] }

/-- A booted package with one cohort. -/
def world (k : CohKey) (ls : List (Nat × Lane)) : State :=
  { State.reset with
    cohorts := [(k, { coh ls with priv := decide (k = super) })], dies := [(0, dieOf)], gangs := [{ id := 7, pid := 1 }]
    issue := some (iss k (ls.foldl (fun m x => m ||| 1#64 <<< x.1) 0)), sec := { stage := 9 }, tick := 1000, choices := [0, 0, 0, 0], mem := [owner], cores := [((0, 0), { tlb := [tle] })] }

def one (l : Lane) : State := world user [(0, l)]
def sup (l : Lane) : State := world super [(0, l)]
def cohortOf (s : State) (k : CohKey) : Cohort := (s.cohort? k).getD {}

/-- Conditions of CanIssue that can be evaluated. -/
theorem canIssue {s : State} {i : Issue} {c : Cohort} {g : Guard} {u : RegUse}
    (h : s.issue = some i ∧ s.cohort? i.key = some c ∧ s.mustWait i g u = false ∧ s.growOk i.key u.writes = true) : CanIssue s i c g u :=
  ⟨h.1, h.2.1, h.2.2.1, h.2.2.2⟩

/-- Conditions of CanAccess that can be evaluated. -/
theorem canAccess {s : State} {i : Issue} {c : Cohort} {o : Op} {f : Form} {space : Nat} {acc : Acc} {loc : Nat → Loc}
    (h : (s.issue = some i ∧ s.cohort? i.key = some c ∧ s.mustWait i f.guard (f.use o) = false ∧ s.growOk i.key (f.use o).writes = true)
      ∧ s.watchHit i acc.needsW (if space = 1 then (s.executing i f.guard).map fun n =>
          (n, memAddr f (s.laneAt i n), sizeBytes f.ty.toNat) else []) = .none
      ∧ (∀ n ∈ s.executing i f.guard, s.scoreStall i.key space (memAddr f (s.laneAt i n)).toNat (sizeBytes f.ty.toNat) acc.needsW = false
        ∧ (memAddr f (s.laneAt i n)).toNat % sizeBytes f.ty.toNat = 0
        ∧ s.findAccess (i.lane n) space acc (memAddr f (s.laneAt i n)) (sizeBytes f.ty.toNat) = (.at (loc n), s))
      ∧ (acc = .load ∨ f.ord.getLsbD 1 = false)) : CanAccess s i c o f space acc loc :=
  ⟨canIssue h.1, h.2.1, fun n m => (h.2.2.1 n m).1, fun n m => (h.2.2.1 n m).2.1, fun n m => (h.2.2.1 n m).2.2,
    fun a b => by rcases h.2.2.2 with x | x <;> simp_all⟩

/-- No ready lane is parked, in a bucket `b` or any other. -/
theorem lanes_not_parked {c : Cohort} (h : ∀ y ∈ c.lanes, y.2.status = .ready) (b : Nat) :
    ∀ y ∈ c.lanes, ∀ k2 : W64, y.2.status ≠ .parked b k2 :=
  fun y m k2 e => by rw [h y m] at e; cases e

theorem lane_not_parked {c : Cohort} (h : ∀ y ∈ c.lanes, y.2.status = .ready) (b : Nat) :
    ∀ n l (k2 : W64), c.lane? n = some l → l.status ≠ .parked b k2 := by
  have mem : ∀ (m : List (Nat × Lane)) n l, numGet m n = some l → (n, l) ∈ m := by
    intro m
    induction m with
    | nil => intro n l e; cases e
    | cons x m ih =>
        intro n l e
        by_cases hx : x.1 = n
        · subst hx; simp [numGet] at e; simp [← e]
        · simp [numGet, hx] at e; exact List.mem_cons_of_mem _ (ih n l e.2)
  exact fun n l k2 e => lanes_not_parked h b _ (mem _ _ _ e) k2

theorem lanes_not_capturing {c : Cohort} (h : ∀ y ∈ c.lanes, y.2.status = .ready) :
    ∀ y ∈ c.lanes, ∀ (p : BitVec 8) (e : Effect), y.2.status ≠ .capturing p e :=
  fun y m p e x => by rw [h y m] at x; cases x

/-- A condition on the lanes of a mask is one on 64 lanes. -/
theorem of_mask {m : BitVec 64} {P : Nat → Prop} (h : ∀ n < 64, m.getLsbD n = true → P n) (n : Nat)
    (e : m.getLsbD n = true) : P n :=
  h n (Nat.lt_of_not_le fun x => by simp [BitVec.getLsbD_of_ge _ _ x] at e) e

theorem iff_mask {m : BitVec 64} {P : Nat → Prop} (h : ∀ n < 64, m.getLsbD n = true ↔ P n) (g : ∀ n, 64 ≤ n → ¬ P n) (n : Nat) :
    m.getLsbD n = true ↔ P n := by
  by_cases x : n < 64
  · exact h n x
  · simp [BitVec.getLsbD_of_ge _ _ (Nat.le_of_not_lt x), g n (Nat.le_of_not_lt x)]

/-- What holds of a die that is not listed and of every die listed holds of every die. -/
theorem die_all {s : State} {P : Die → Prop} (e : P {}) (h : ∀ x ∈ s.dies, P x.2) (d : Nat) : P (s.die d) := by
  have all : ∀ m : List (Nat × Die), (∀ x ∈ m, P x.2) → P ((lookup m d).getD {}) := by
    intro m
    induction m with
    | nil => exact fun _ => e
    | cons x m ih =>
        intro k
        by_cases e : x.1 = d
        · simpa [lookup, e] using k x (List.mem_cons_self ..)
        · simpa [lookup, e] using ih fun y my => k y (List.mem_cons_of_mem _ my)
  exact all s.dies h

/-- No access of another package or of the host waits, where no die lists one. -/
theorem no_outside {s : State} (h : s.hostHeld = [] ∧ ∀ x ∈ s.dies, x.2.remote = []) : s.noOutside :=
  ⟨h.1, die_all (P := fun x => x.remote = []) rfl h.2⟩

/-! Ill-formed terms, one for each check of WellFormed. -/

theorem test_ill_formed_instructions : ([
    .movl { d := 6 },                                   -- no literal
    .ld { a := 2, d := 6, lit := some 0 },              -- a literal it does not take
    .ld { a := 2, d := 6, b := 4 },                     -- a field of word 1 without word 1
    .iadd { a := 3, d := 6, ext := true, b := 4, ty := 2 }, -- an odd pair
    .ld { a := 2, d := 6, ext := true, ty := 2 },       -- a quad that does not begin at a multiple of 4
    .iadd { top := 1, a := 2, d := 6, ext := true },    -- reserved first-word bits
    .iadd { a := 2, d := 6, ext := true, w2 := 1 },     -- word 2 without BSEL
    .iadd { a := 2, d := 6, ext := true, rs := 1 },     -- RS of an instruction that has none
    .ld { a := 2, d := 6, ext := true, ty := 5 },       -- a size that is not one
    .xred { a := 2, d := 6, ext := true, w2 := 9 },     -- an operation that is not one
    .plop { a := 8, top := 1, d := 2 },                 -- a predicate above 7
    .pair { x := { op := 0, d := 1, a := 2, b := 3 }, y := { op := 8, d := 1, a := 2 } }, -- both halves write v1
    .pair { x := { op := 63, d := 1 }, y := { d := 2 } },             -- an operation that is not one
    .pair { x := { op := 0, d := 1, rsv := 1 }, y := { d := 2 } }] : List Instr).all (fun i => !i.wf) = true := by
  decide +kernel

def fl (n : Nat) : Flit :=
  { crc := 0, payload := List.replicate n 0, len := 0, type := 2, part := 0, srcPkg := 0, dstPkg := 0, srcDie := 0, dstDie := 1, rsvHi := 0, ack := 0, seq := 0, vc := 0, rsvLo := 0 }

theorem test_ill_formed_steps : ([
    .entryAged ⟨16, 0, 0⟩ 0x80 0x1000, .entryAged ⟨0, 48, 0⟩ 0x80 0x1000, .entryAged ⟨0, 0, 16⟩ 0x80 0x1000, .entryAged user 0x80 0x1002,
    .wake ⟨user, 64⟩, .await ⟨user, 64⟩, .qpopComplete ⟨user, 64⟩, .loadDataReturn ⟨user, 64⟩ 0,
    .sfuResultRetire 16 0, .sfuResultRetire 0 48, .activeSetDisplace 16 0, .activeSetDisplace 0 48,
    .writeApply 0 (.home [769]), .writeApply 0 (.observer 769),
    .stashFill 0 128, .stashRecall 0 128, .scratchRefill 0 128, .sideLogReplay 16 0 0, .sideLogReplay 0 48 0,
    .faultRecordWrite 16, .faultTimeout 16 0, .hostRequestRecord 16, .hotnessDecay 16, .hotnessProposal 0 (2 ^ 41) 0, .hotnessProposal 0 0 4096,
    .calendsPass 16, .calDlqpop 16, .calHlqtail 16 0, .calBind 16 0, .calPreempt 16 0, .preemptDeadline 16,
    .relockEnd 16, .currentLimit 16, .thermalThrottle 16 0, .thermalTrip 16, .almCutreq 16 0, .cut 0 16, .almanacFreeze 0 16,
    .solStopArm 16 0, .solsticeStop 16, .solResume 16 0,
    .ckCapture 16, .ckQuiesceDone 16, .ckBuddyTimeout 16, .ckRelease 16, .ckRestoreOwn 16, .ckRestoreSrc 16,
    .msiWrite 0 4096 0, .msiWrite 0 2 0, .hostWrite 4 0 0 [0], .hostWrite 0 0 (2 ^ 57) [0], .hostWrite 0 0 0 [], .hostRead 0 0, .hostRead 0 4097, .hostRead (2 ^ 56 + 2 ^ 28) 4,
    .hostSnoop 32, .flitReceive (.bridge 0 2) (fl 232), .flitReceive (.port 48) (fl 232), .flitReceive (.port 0) (fl 231),
    .nakReceive (.port 48), .linkReplayTimeout (.bridge 0 0), .linkRetrain (.port 48) true, .taskStart 0 12, .arbiterPass 0 [],
    .bootStage (.links []), .almanacCopyDone 0 0 (.core 48), .imgload 0 0 0 (List.replicate 4097 0), .reset 0 (2 ^ 32), .setpart 0 0 4096,
    .vread 0 4 0 0, .vrelease 0 4 0, .parkGo 0 4, .sampleRecord 0 48, .dcrWrite 0 4 0, .dcrWrite 0 (2 ^ 24) 0, .hostLinkDown 4]
      : List Instr).all (fun i => !i.wf) = true := by
  decide +kernel

/-! Decoding. Each word is the MAJ, FN and SUB of the opcode map (08 R179) with operand fields at the places of 08 R165 and R167:
B, A and D of a first word, LA above them, the fields of word 1, word 2 and the literal. -/

def decoded (l : List (Nat × Nat × Instr)) : Bool := l.all fun x => decodeTableWord x.1 x.2.1 = some x.2.2

theorem test_decode_integer1 : decoded [
      (32, 0x08083000, .iadd { top := 4, a := 2, d := 6 }),
      (32, 0x08083100, .isub { top := 4, a := 2, d := 6 }),
      (32, 0x00083200, .ineg { a := 2, d := 6 }),
      (32, 0x00083300, .iabs { a := 2, d := 6 }),
      (32, 0x08083400, .imin { top := 4, a := 2, d := 6 }),
      (32, 0x08083500, .imax { top := 4, a := 2, d := 6 }),
      (32, 0x08083600, .lea { top := 4, a := 2, d := 6 }),
      (32, 0x08083004, .imul { top := 4, a := 2, d := 6 }),
      (32, 0x08083104, .imulh { top := 4, a := 2, d := 6 }),
      (32, 0x08083204, .imad { top := 4, a := 2, d := 6 }),
      (32, 0x08083304, .idiv { top := 4, a := 2, d := 6 }),
      (32, 0x08083404, .irem { top := 4, a := 2, d := 6 }),
      (32, 0x08083008, .andOp { top := 4, a := 2, d := 6 }),
      (32, 0x08083108, .orOp { top := 4, a := 2, d := 6 })] = true := by
  decide +kernel

theorem test_decode_integer2 : decoded [
      (32, 0x08083208, .xorOp { top := 4, a := 2, d := 6 }),
      (32, 0x08083308, .andn { top := 4, a := 2, d := 6 }),
      (32, 0x00083408, .notOp { a := 2, d := 6 }),
      (32, 0x0808300C, .shl { top := 4, a := 2, d := 6 }),
      (32, 0x0808310C, .shr { top := 4, a := 2, d := 6 }),
      (32, 0x0808320C, .sar { top := 4, a := 2, d := 6 }),
      (32, 0x0808330C, .rotl { top := 4, a := 2, d := 6 }),
      (32, 0x00083010, .popc { a := 2, d := 6 }),
      (32, 0x00083110, .clz { a := 2, d := 6 }),
      (32, 0x00083210, .ctz { a := 2, d := 6 }),
      (32, 0x00083310, .brev { a := 2, d := 6 }),
      (32, 0x08083410, .bfx { top := 4, a := 2, d := 6 }),
      (32, 0x08083510, .bfi { top := 4, a := 2, d := 6 }),
      (32, 0x08003014, .mov { top := 4, d := 6 })] = true := by
  decide +kernel

theorem test_decode_integer3 : decoded [
      (32, 0x08083214, .sel { top := 4, a := 2, d := 6 }),
      (32, 0x00083314, .movFromK { a := 2, d := 6 }),
      (32, 0x08003414, .movToK { top := 4, d := 6 }),
      (32, 0x08095818, .icmp { top := 4, a := 2, d := 0x2B }),
      (32, 0x00080118, .pset { a := 2 }),
      (32, 0x08083218, .plop { top := 4, a := 2, d := 6 }),
      (32, 0x0008301C, .sread { a := 2, d := 6 }),
      (32, 0x0008311C, .swrite { a := 2, d := 6 }),
      (32, 0x0008021C, .rel { a := 2 }),
      (32, 0x0808031C, .spill { top := 4, a := 2 }),
      (32, 0x0008341C, .fill { a := 2, d := 6 }),
      (96, 0x20000311A, .psetGet { ext := true, d := 6, xm := true }),
      (96, 0x123456789ABCDEF000003115, .movl { d := 6, lit := some 0x123456789ABCDEF0 }),
      (96, 0x2040808000108300FF0000F6, .pair { immY := 0xFF, x := { d := 1, a := 2, b := 3 }, y := { op := 8, d := 4, a := 2, bi := true } })] = true := by
  decide +kernel

theorem test_decode_float1 : decoded [
      (32, 0x08083040, .fadd { top := 4, a := 2, d := 6, rs := 5 }),
      (32, 0x08083140, .fsub { top := 4, a := 2, d := 6, rs := 5 }),
      (32, 0x08083240, .fmul { top := 4, a := 2, d := 6, rs := 5 }),
      (32, 0x08083340, .ffma { top := 4, a := 2, d := 6, rs := 5 }),
      (32, 0x08083440, .ffms { top := 4, a := 2, d := 6, rs := 5 }),
      (32, 0x08083540, .fnma { top := 4, a := 2, d := 6, rs := 5 }),
      (32, 0x08083044, .fdiv { top := 4, a := 2, d := 6, rs := 5 }),
      (32, 0x00083144, .fsqrt { a := 2, d := 6, rs := 5 }),
      (32, 0x08083244, .frem { top := 4, a := 2, d := 6 }),
      (32, 0x08083048, .fmin { top := 4, a := 2, d := 6 }),
      (32, 0x08083148, .fmax { top := 4, a := 2, d := 6 }),
      (32, 0x08083248, .fminm { top := 4, a := 2, d := 6 }),
      (32, 0x08083348, .fmaxm { top := 4, a := 2, d := 6 }),
      (32, 0x0008304C, .fabs { a := 2, d := 6 })] = true := by
  decide +kernel

theorem test_decode_float2 : decoded [
      (32, 0x0008314C, .fneg { a := 2, d := 6 }),
      (32, 0x0808324C, .fcpys { top := 4, a := 2, d := 6 }),
      (32, 0x08095850, .fcmp { top := 4, a := 2, d := 0x2B }),
      (32, 0x00083150, .fclass { a := 2, d := 6 }),
      (32, 0x00083054, .frnd { a := 2, d := 6, rs := 5 }),
      (32, 0x08083254, .fscale { top := 4, a := 2, d := 6, rs := 5 }),
      (32, 0x00083354, .flogb { a := 2, d := 6 }),
      (96, 0x4040000083156, .fcvt { ext := true, a := 2, d := 6, c := 1, rs := 1 }),
      (96, 0x82014180008305A, .fdot2 { ext := true, a := 2, d := 6, b := 4, c := 8, rs := 5, ty := 6 })] = true := by
  decide +kernel

theorem test_decode_crossLane : decoded [
      (32, 0x30083070, .rcp { top := 0x18, a := 2, d := 6 }),
      (32, 0x30083170, .rsq { top := 0x18, a := 2, d := 6 }),
      (32, 0x30083270, .ex2 { top := 0x18, a := 2, d := 6 }),
      (32, 0x30083370, .lg2 { top := 0x18, a := 2, d := 6 }),
      (32, 0x30083470, .sin { top := 0x18, a := 2, d := 6 }),
      (32, 0x30083570, .cos { top := 0x18, a := 2, d := 6 }),
      (32, 0x30083670, .tanh { top := 0x18, a := 2, d := 6 }),
      (32, 0x00083180, .xvote { a := 2, d := 6 }),
      (32, 0x30083280, .xred { top := 0x18, a := 2, d := 6, rs := 5 }),
      (32, 0x30083380, .xminidx { top := 0x18, a := 2, d := 6 }),
      (32, 0x30083480, .xscan { top := 0x18, a := 2, d := 6, rs := 5 }),
      (32, 0x30083580, .xmatch { top := 0x18, a := 2, d := 6 }),
      (96, 0x1120000000030083082, .xshfl { ext := true, a := 2, d := 6, top := 0x18, w2 := 0x112 })] = true := by
  decide +kernel

theorem test_decode_memory1 : decoded [
      (32, 0x30083090, .ld { top := 0x18, a := 2, d := 6 }),
      (32, 0x08080190, .st { top := 4, a := 2 }),
      (32, 0x30083290, .ldr { top := 0x18, a := 2, d := 6 }),
      (32, 0x08080390, .str { top := 4, a := 2 }),
      (32, 0x00000098, .fence {}),
      (32, 0x00080198, .pref { a := 2 }),
      (32, 0x0808029C, .cwait { top := 4, a := 2 }),
      (32, 0x0808339C, .ctest { top := 4, a := 2, d := 6 }),
      (32, 0x000800A0, .pin { a := 2 }),
      (32, 0x000801A0, .unpin { a := 2 }),
      (32, 0x080802A0, .stash { top := 4, a := 2 }),
      (32, 0x000803A0, .unstash { a := 2 }),
      (32, 0x000804A0, .swb { a := 2 }),
      (32, 0x080830A4, .freeze { top := 4, a := 2, d := 6 })] = true := by
  decide +kernel

theorem test_decode_memory2 : decoded [
      (32, 0x080831A4, .thaw { top := 4, a := 2, d := 6 }),
      (32, 0x080802A4, .twait { top := 4, a := 2 }),
      (32, 0x080833A4, .ftest { top := 4, a := 2, d := 6 }),
      (32, 0x080830A8, .qpush { top := 4, a := 2, d := 6 }),
      (32, 0x000831A8, .qpop { a := 2, d := 6 }),
      (32, 0x000832A8, .qtry { a := 2, d := 6 }),
      (32, 0x000800AC, .amark { a := 2 }),
      (96, 0x80C0F0020083096, .atom { ext := true, a := 2, d := 6, top := 0x10, b := 4, c := 3, rs := 3, ord := 3 }),
      (96, 0x10280D0620083196, .acas { ext := true, a := 2, d := 6, top := 0x10, b := 8, c := 0xA, rs := 3, ord := 1, xm := true, ty := 1 }),
      (96, 0x80C0C0000080296, .ared { ext := true, a := 2, b := 4, c := 3, rs := 3 }),
      (96, 0x1000082000000008309E, .cpy { ext := true, a := 2, d := 6, w2 := 0x1000, b := 4, c := 8 }),
      (96, 0xC082000000008319E, .cpy2d { ext := true, a := 2, d := 6, w2 := 0xC, b := 4, c := 8 })] = true := by
  decide +kernel

theorem test_decode_matrix : decoded [
      (32, 0x000830C0, .tdef { a := 2, d := 6 }),
      (32, 0x000831C0, .tqry { a := 2, d := 6 }),
      (32, 0x000032C0, .trel { d := 6 }),
      (32, 0x000830C4, .mzero { a := 2, d := 6 }),
      (32, 0x000004C4, .mwait {}),
      (32, 0x080830C8, .quant { top := 4, a := 2, d := 6, rs := 5 }),
      (32, 0x080831C8, .deq { top := 4, a := 2, d := 6, rs := 5 }),
      (32, 0x080832C8, .spz { top := 4, a := 2, d := 6 }),
      (96, 0x6200000000809C6, .mma { ext := true, a := 2, d := 1, b := 3, c := 8 }),
      (96, 0x620000000080AC6, .mms { ext := true, a := 2, d := 1, b := 3, c := 8 }),
      (96, 0x620000000080BC6, .mmf { ext := true, a := 2, d := 1, b := 3, c := 8 })] = true := by
  decide +kernel

theorem test_decode_fibres1 : decoded [
      (32, 0x000001D8, .uninst {}),
      (32, 0x084A02D8, .perform { top := 4, a := 0x12, d := 0x40 }),
      (32, 0x080803D8, .resume { top := 4, a := 2 }),
      (32, 0x000804D8, .drop { a := 2 }),
      (32, 0x000835D8, .contq { a := 2, d := 6 }),
      (32, 0x080031DC, .post { top := 4, d := 6 }),
      (32, 0x000002DC, .exit {}),
      (32, 0x000802E0, .barw { a := 2 }),
      (32, 0x000830E4, .launch { a := 2, d := 6 }),
      (32, 0x000831E4, .rbind { a := 2, d := 6 }),
      (32, 0x080832E4, .scall { top := 4, a := 2, d := 6 }),
      (96, 0x40000000040FF00DA, .install { ext := true, a := 0x3F, d := 0x60, top := 0x20, w2 := 4 }),
      (96, 0x1000000000000830DE, .spawn { ext := true, a := 2, d := 6, w2 := 0x10 }),
      (96, 0x8000002000031DE, .postCont { ext := true, d := 6, b := 4, xm := true })] = true := by
  decide +kernel

theorem test_decode_fibres2 : decoded [
      (96, 0x300000400000030E2, .bar { ext := true, d := 6, w2 := 3, rs := 1 }),
      (96, 0x300000400000031E2, .bara { ext := true, d := 6, w2 := 3, rs := 1 })] = true := by
  decide +kernel

theorem test_decode_branches : decoded [
      (32, 0x8000F8F0, .bra { top := 0x40, d := 0x1F }),
      (32, 0x8030F9F0, .brp { top := 0x40, a := 0xC, d := 0x1F }),
      (32, 0x080802F0, .jmpr { top := 4, a := 2 }),
      (32, 0x000005F0, .ret {}),
      (32, 0x400006F0, .prio { top := 0x20 }),
      (32, 0x000007F0, .nop {}),
      (96, 0xFFFFFFF000000000400000F2, .braLong { ext := true, top := 0x20, w2 := 0xFFFFFFF0 }),
      (96, 0x700000000602001F2, .brpLong { ext := true, a := 8, top := 0x30, w2 := 7 }),
      (96, 0x10000000000800403F2, .call { ext := true, a := 1, top := 0x40, w2 := 0x100 }),
      (96, 0x12100000000804F2, .callr { ext := true, a := 2, c := 4, b := 9 })] = true := by
  decide +kernel

theorem test_decode_supervisor : decoded [
      (32, 0x000000F8, .sret {}),
      (32, 0x000831F8, .dcrr { a := 2, d := 6 }),
      (32, 0x080802F8, .dcrw { top := 4, a := 2 }),
      (32, 0x000035F8, .frqpop { d := 6 }),
      (32, 0x080806F8, .mapdone { top := 4, a := 2 }),
      (32, 0x020837F8, .bindw { top := 1, a := 2, d := 6 }),
      (32, 0x040807F8, .haltc { top := 2, a := 2 }),
      (96, 0x8000800000803FA, .tlbinv { ext := true, a := 2, b := 4, rs := 2 }),
      (96, 0x8000C02000804FA, .tlbsync { ext := true, a := 2, b := 4, rs := 3, xm := true }),
      (96, 0x40002000085FA, .frqpopTry { ext := true, d := 0x10, c := 1, xm := true }),
      (96, 0x8000000000807FA, .slogrun { ext := true, a := 2, b := 4 }),
      (96, 0x2041407FA, .haltcGo { ext := true, a := 5, top := 2, xm := true }),
      (96, 0x8000000060837FA, .cimgs { ext := true, a := 2, d := 6, top := 3, b := 4 }),
      (96, 0x8000000080837FA, .cimgl { ext := true, a := 2, d := 6, top := 4, b := 4 })] = true := by
  decide +kernel

/-- Words that name no instruction, or whose length it does not have (08 R179, R180 cause 1). -/
theorem test_decode_refuses : ([0xFFFFFFFF, 0x00000700, 0x00000504, 0x20, 0x5C, 0x7BC, 0x0A0007F8, 0x00000114] : List Nat).all
    (fun w => decodeTableWord 32 w = none) = true := by
  decide +kernel

/-- Reserved bits that a decoded instruction keeps, so that it is ill-formed (08 R180 cause 2). -/
theorem test_reserved_bits : ([(32, 0x02000200), (96, 0x00000002 + 0x2 * 2 ^ 64), (96, 0x00000502 + 0x4 * 2 ^ 32 + 0x2 * 2 ^ 64)] : List (Nat × Nat)).all
    (fun x => (decodeTableWord x.1 x.2).any fun i => !i.wf) = true := by
  decide +kernel

/-! Witnesses: states and operands that meet the hypotheses of each statement, clause by clause. -/


def lr : Lane := { v := [(2, 0x70), (3, 0x20), (4, 7), (5, 1)] }
def s1 : State := one lr
def c1 : Cohort := cohortOf s1 user
def i1 : Issue := iss user 1
/-- Destination 1, sources 2, 3 and 4. -/
def f3 : Form := { d := 1, a := 2, b := 3, c := 4, ext := true }

/-! Witnesses of ArithmeticResults. -/

theorem witness_arith :
    CanIssue s1 i1 c1 f3.guard (Form.use Op.iadd f3)
      ∧ (∀ n ∈ s1.executing i1 f3.guard, True) :=
  ⟨canIssue (by decide +kernel), by simp⟩

def arith_lea_f := ({f3 with d := 6, b := 5, c := 7})
theorem witness_arith_lea :
    CanIssue s1 i1 c1 arith_lea_f.guard (Form.use Op.lea arith_lea_f)
      ∧ (∀ n ∈ s1.executing i1 arith_lea_f.guard, True) :=
  ⟨canIssue (by decide +kernel), by simp⟩

theorem witness_idiv :
    CanIssue s1 i1 c1 f3.guard (Form.use Op.idiv f3)
      ∧ (∀ n ∈ s1.executing i1 f3.guard, bInt Op.idiv f3 (s1.laneAt i1 n) f3.ty.toNat ≠ 0) :=
  ⟨canIssue (by decide +kernel), by decide +kernel⟩

theorem witness_irem :
    CanIssue s1 i1 c1 f3.guard (Form.use Op.irem f3)
      ∧ (∀ n ∈ s1.executing i1 f3.guard, bInt Op.irem f3 (s1.laneAt i1 n) f3.ty.toNat ≠ 0) :=
  ⟨canIssue (by decide +kernel), by decide +kernel⟩

/-! Witnesses of LogicResults. -/

theorem witness_logic :
    CanIssue s1 i1 c1 f3.guard (Form.use Op.andOp f3)
      ∧ (∀ n ∈ s1.executing i1 f3.guard, True) :=
  ⟨canIssue (by decide +kernel), by simp⟩

theorem witness_logic_bfx :
    CanIssue s1 i1 c1 f3.guard (Form.use Op.bfx f3)
      ∧ (∀ n ∈ s1.executing i1 f3.guard, True) :=
  ⟨canIssue (by decide +kernel), by simp⟩

theorem witness_logic_bfi :
    CanIssue s1 i1 c1 f3.guard (Form.use Op.bfi f3)
      ∧ (∀ n ∈ s1.executing i1 f3.guard, True) :=
  ⟨canIssue (by decide +kernel), by simp⟩

theorem witness_logic_ctz :
    CanIssue s1 i1 c1 f3.guard (Form.use Op.ctz f3)
      ∧ (∀ n ∈ s1.executing i1 f3.guard, True) :=
  ⟨canIssue (by decide +kernel), by simp⟩

/-! Witnesses of MoveResults. -/

theorem witness_move_sel :
    CanIssue s1 i1 c1 f3.guard (Form.use Op.sel f3)
      ∧ (∀ n ∈ s1.executing i1 f3.guard, True) :=
  ⟨canIssue (by decide +kernel), by simp⟩

theorem witness_move_tok :
    CanIssue s1 i1 c1 f3.guard (Form.use Op.movToK f3)
      ∧ (∀ n ∈ s1.executing i1 f3.guard, True) :=
  ⟨canIssue (by decide +kernel), by simp⟩

def move_pset_f := ({f3 with w2 := 0xF})
theorem witness_move_pset :
    CanIssue s1 i1 c1 move_pset_f.guard (Form.use Op.pset move_pset_f)
      ∧ (∀ n ∈ s1.executing i1 move_pset_f.guard, True) :=
  ⟨canIssue (by decide +kernel), by simp⟩

/-! Witnesses of PredicateAndPairResults. -/

def icmp_f := ({f3 with d := 0x11, c := 0})
theorem witness_icmp :
    CanIssue s1 i1 c1 icmp_f.guard (Form.use Op.icmp icmp_f)
      ∧ (∀ n ∈ s1.executing i1 icmp_f.guard, True) :=
  ⟨canIssue (by decide +kernel), by simp⟩

def plop_f := ({f3 with a := 1, b := 2, d := 7, c := 0, w2 := 8})
theorem witness_plop :
    CanIssue s1 i1 c1 plop_f.guard (Form.use Op.plop plop_f)
      ∧ (∀ n ∈ s1.executing i1 plop_f.guard, True)
      ∧ Form.bSrc Op.plop plop_f = BSrc.reg 2 :=
  ⟨canIssue (by decide +kernel), by simp, by decide +kernel⟩

def pair_f : PairForm := { x := { op := 0, d := 2, a := 2, b := 3 }, y := { op := 8, d := 3, a := 2, bi := true }, immY := 0xFF }
theorem witness_pair :
    CanIssue s1 i1 c1 pair_f.guard pair_f.use :=
  canIssue (by decide +kernel)

/-! Witnesses of SpecialRegisterReads. -/

def sread_f : Form := { d := 1, a := 6 }
theorem witness_sread :
    CanIssue s1 i1 c1 sread_f.guard (Form.use Op.sread sread_f)
      ∧ (sread_f.a = 6 → ∀ n ∈ s1.executing i1 sread_f.guard, s1.flagsPending (i1.lane n) = false) :=
  ⟨canIssue (by decide +kernel), by decide +kernel⟩

def sread64_f : Form := { d := 2, a := 10 }
theorem witness_sread64 :
    CanIssue s1 i1 c1 sread64_f.guard (Form.use Op.sread sread64_f)
      ∧ (sread64_f.a = 6 → ∀ n ∈ s1.executing i1 sread64_f.guard, s1.flagsPending (i1.lane n) = false) :=
  ⟨canIssue (by decide +kernel), by decide +kernel⟩

/-! Witnesses of SpecialRegisterWrites. -/

def swrite_fflags_f : Form := { d := 6, a := 4 }
theorem witness_swrite_fflags :
    CanIssue s1 i1 c1 swrite_fflags_f.guard (Form.use Op.swrite swrite_fflags_f)
      ∧ (∀ n ∈ s1.executing i1 swrite_fflags_f.guard, s1.flagsPending (i1.lane n) = false)
      ∧ (∀ n ∈ s1.executing i1 swrite_fflags_f.guard, (s1.laneAt i1 n).reg swrite_fflags_f.a.toNat < 32) :=
  ⟨canIssue (by decide +kernel), by decide +kernel⟩

def swrite_frm_f : Form := { d := 7, a := 5 }
theorem witness_swrite_frm :
    CanIssue s1 i1 c1 swrite_frm_f.guard (Form.use Op.swrite swrite_frm_f)
      ∧ (∀ n ∈ s1.executing i1 swrite_frm_f.guard, (s1.laneAt i1 n).reg swrite_frm_f.a.toNat < 5) :=
  ⟨canIssue (by decide +kernel), by decide +kernel⟩

def swrite_fenable_f : Form := { d := 8, a := 4 }
theorem witness_swrite_fenable :
    CanIssue s1 i1 c1 swrite_fenable_f.guard (Form.use Op.swrite swrite_fenable_f)
      ∧ (∀ n ∈ s1.executing i1 swrite_fenable_f.guard, (s1.laneAt i1 n).reg swrite_fenable_f.a.toNat < 32) :=
  ⟨canIssue (by decide +kernel), by decide +kernel⟩

def swrite_tvec_f : Form := { d := 16, a := 2 }
theorem witness_swrite_tvec :
    CanIssue s1 i1 c1 swrite_tvec_f.guard (Form.use Op.swrite swrite_tvec_f) :=
  canIssue (by decide +kernel)

/-! Witnesses of ReleaseResults. -/

def rel_f : Form := { a := 2, ext := true, w2 := 1 }
theorem witness_rel :
    CanIssue s1 i1 c1 rel_f.guard (Form.use Op.rel rel_f)
      ∧ (s1.core i1.key.die i1.key.core).sample = none :=
  ⟨canIssue (by decide +kernel), by decide +kernel⟩

/-! Witnesses of FloatResults. -/

theorem witness_fadd :
    CanIssue s1 i1 c1 f3.guard (Form.use Op.fadd f3)
      ∧ (∀ n ∈ s1.executing i1 f3.guard,
        (packedMap2 f3.ty.toNat (fadd (fmtOf f3.ty.toNat) (Form.mode f3 (s1.laneAt i1 n)))
        ((s1.laneAt i1 n).fopnd f3.ty.toNat f3.a.toNat) (fopndB Op.fadd f3 (s1.laneAt i1 n) f3.ty.toNat)).2 &&&
        (s1.laneAt i1 n).fenable =
        0) :=
  ⟨canIssue (by decide +kernel), by decide +kernel⟩

theorem witness_ffma :
    CanIssue s1 i1 c1 f3.guard (Form.use Op.ffma f3)
      ∧ (∀ n ∈ s1.executing i1 f3.guard,
        (packedMap3 f3.ty.toNat (ffma (fmtOf f3.ty.toNat) (Form.mode f3 (s1.laneAt i1 n)) false false)
        ((s1.laneAt i1 n).fopnd f3.ty.toNat f3.a.toNat) (fopndB Op.ffma f3 (s1.laneAt i1 n) f3.ty.toNat)
        ((s1.laneAt i1 n).fopnd f3.ty.toNat f3.c.toNat)).2 &&&
        (s1.laneAt i1 n).fenable =
        0) :=
  ⟨canIssue (by decide +kernel), by decide +kernel⟩

theorem witness_fdot2 :
    CanIssue s1 i1 c1 f3.guard (Form.use Op.fdot2 f3)
      ∧ (∀ n ∈ s1.executing i1 f3.guard,
        (fdot2 (fmtOf f3.ty.toNat) (Form.mode f3 (s1.laneAt i1 n)) (BitVec.toNat ((s1.laneAt i1 n).reg f3.a.toNat))
        (bRaw Op.fdot2 f3 (s1.laneAt i1 n) false) (BitVec.toNat ((s1.laneAt i1 n).reg f3.c.toNat))).2 &&&
        (s1.laneAt i1 n).fenable =
        0) :=
  ⟨canIssue (by decide +kernel), by decide +kernel⟩

theorem witness_fscale :
    CanIssue s1 i1 c1 f3.guard (Form.use Op.fscale f3)
      ∧ (∀ n ∈ s1.executing i1 f3.guard,
        (fscale (fmtOf f3.ty.toNat) (Form.mode f3 (s1.laneAt i1 n)) ((s1.laneAt i1 n).fopnd f3.ty.toNat f3.a.toNat)
        (sextNat (bRaw Op.fscale f3 (s1.laneAt i1 n) false) 32)).2 &&&
        (s1.laneAt i1 n).fenable =
        0) :=
  ⟨canIssue (by decide +kernel), by decide +kernel⟩

/-! Witnesses of SignResults. -/

theorem witness_fabs :
    CanIssue s1 i1 c1 f3.guard (Form.use Op.fabs f3)
      ∧ (∀ n ∈ s1.executing i1 f3.guard, True) :=
  ⟨canIssue (by decide +kernel), by simp⟩

theorem witness_fcpys :
    CanIssue s1 i1 c1 f3.guard (Form.use Op.fcpys f3)
      ∧ (∀ n ∈ s1.executing i1 f3.guard, True) :=
  ⟨canIssue (by decide +kernel), by simp⟩

/-! Witnesses of CompareResults. -/

def fcmp_f := ({ f3 with d := 0x11 })
theorem witness_fcmp :
    CanIssue s1 i1 c1 fcmp_f.guard (Form.use Op.fcmp fcmp_f)
      ∧ (∀ n ∈ s1.executing i1 fcmp_f.guard,
        (if
        (fvalue (fmtOf fcmp_f.ty.toNat) ((s1.laneAt i1 n).fopnd fcmp_f.ty.toNat fcmp_f.a.toNat)).isSnan = true ∨
        (fvalue (fmtOf fcmp_f.ty.toNat) (fopndB Op.fcmp fcmp_f (s1.laneAt i1 n) fcmp_f.ty.toNat)).isSnan = true ∨
        fcmp_f.xm = true ∧
        ((fvalue (fmtOf fcmp_f.ty.toNat) ((s1.laneAt i1 n).fopnd fcmp_f.ty.toNat fcmp_f.a.toNat)).isNan ||
        (fvalue (fmtOf fcmp_f.ty.toNat) (fopndB Op.fcmp fcmp_f (s1.laneAt i1 n) fcmp_f.ty.toNat)).isNan) =
        true then
        flagNV
        else 0) &&&
        (s1.laneAt i1 n).fenable =
        0) :=
  ⟨canIssue (by decide +kernel), by decide +kernel⟩

theorem witness_fclass :
    CanIssue s1 i1 c1 f3.guard (Form.use Op.fclass f3)
      ∧ (∀ n ∈ s1.executing i1 f3.guard, True) :=
  ⟨canIssue (by decide +kernel), by simp⟩

/-! Witnesses of ConversionResults. -/

def fcvt_fi_f := ({ f3 with c := 0x10 })
theorem witness_fcvt_fi :
    CanIssue s1 i1 c1 fcvt_fi_f.guard (Form.use Op.fcvt fcvt_fi_f)
      ∧ (∀ n ∈ s1.executing i1 fcvt_fi_f.guard,
        (cvtFI (fmtOf (fcvt_fi_f.c.toNat % 8)) (Form.mode fcvt_fi_f (s1.laneAt i1 n)) (intWidth fcvt_fi_f.ty.toNat)
        (intSigned fcvt_fi_f.ty.toNat) ((s1.laneAt i1 n).fopnd (fcvt_fi_f.c.toNat % 8) fcvt_fi_f.a.toNat)).2 &&&
        (s1.laneAt i1 n).fenable =
        0) :=
  ⟨canIssue (by decide +kernel), by decide +kernel⟩

def fcvt_if_f := ({ f3 with c := 0x08 })
theorem witness_fcvt_if :
    CanIssue s1 i1 c1 fcvt_if_f.guard (Form.use Op.fcvt fcvt_if_f)
      ∧ (∀ n ∈ s1.executing i1 fcvt_if_f.guard,
        (cvtIF (fmtOf fcvt_if_f.ty.toNat) (Form.mode fcvt_if_f (s1.laneAt i1 n))
        ((s1.laneAt i1 n).opnd (fcvt_if_f.c.toNat % 8) fcvt_if_f.a.toNat)).2 &&&
        (s1.laneAt i1 n).fenable =
        0) :=
  ⟨canIssue (by decide +kernel), by decide +kernel⟩

def fcvt_ff_f := ({ f3 with c := 0x01 })
theorem witness_fcvt_ff :
    CanIssue s1 i1 c1 fcvt_ff_f.guard (Form.use Op.fcvt fcvt_ff_f)
      ∧ (∀ n ∈ s1.executing i1 fcvt_ff_f.guard,
        (cvtFF (fmtOf fcvt_ff_f.ty.toNat) (fmtOf (fcvt_ff_f.c.toNat % 8)) (Form.mode fcvt_ff_f (s1.laneAt i1 n))
        ((s1.laneAt i1 n).fopnd (fcvt_ff_f.c.toNat % 8) fcvt_ff_f.a.toNat)).2 &&&
        (s1.laneAt i1 n).fenable =
        0) :=
  ⟨canIssue (by decide +kernel), by decide +kernel⟩

/-! Witnesses of NearestEven. -/

theorem witness_nearest :
    0 < 1 :=
  by decide +kernel

/-! Witnesses of SpecialFunctionIssue. -/

theorem witness_sfu :
    (Instr.rcp f3, Op.rcp, 0) ∈
        [(Instr.rcp f3, Op.rcp, 0), (Instr.rsq f3, Op.rsq, 1), (Instr.ex2 f3, Op.ex2, 2), (Instr.lg2 f3, Op.lg2, 3),
        (Instr.sin f3, Op.sin, 4), (Instr.cos f3, Op.cos, 5), (Instr.tanh f3, Op.tanh, 6)]
      ∧ CanIssue s1 i1 c1 f3.guard (Form.use Op.rcp f3)
      ∧ (s1.core i1.key.die i1.key.core).sfuEntries < 32
      ∧ (∀ n ∈ s1.executing i1 f3.guard, (s1.laneAt i1 n).fenable = 0) :=
  ⟨by simp, canIssue (by decide +kernel), by decide +kernel⟩

theorem witness_sfu_cos :
    (Instr.cos f3, Op.cos, 5) ∈
        [(Instr.rcp f3, Op.rcp, 0), (Instr.rsq f3, Op.rsq, 1), (Instr.ex2 f3, Op.ex2, 2), (Instr.lg2 f3, Op.lg2, 3),
        (Instr.sin f3, Op.sin, 4), (Instr.cos f3, Op.cos, 5), (Instr.tanh f3, Op.tanh, 6)]
      ∧ CanIssue s1 i1 c1 f3.guard (Form.use Op.cos f3)
      ∧ (s1.core i1.key.die i1.key.core).sfuEntries < 32
      ∧ (∀ n ∈ s1.executing i1 f3.guard, (s1.laneAt i1 n).fenable = 0) :=
  ⟨by simp, canIssue (by decide +kernel), by decide +kernel⟩

def lg : Lane := { v := [(2, 0x2000), (3, 0), (4, 0x12345678), (5, 0x9ABCDEF0), (6, 1), (7, 2)], wic := 3 }
def m0 : State := { one lg with mem := [(0x2000, 0x11), (0x2001, 0x22), (0x2003, 0x44), owner] }
def mc : Cohort := cohortOf m0 user
def fm : Form := { d := 8, a := 2, b := 4, c := 0, ext := true, xm := true, bsel := true, w2 := 0 }
/-- An image in format 0 whose lane 0 is live and holds 5. -/
def mf : State := { m0 with mem := [(0x2008, 1), (0x2010, 5), owner] }
def loc0 (_ : Nat) : Loc := { pa := 0x2000, va := 0x2000 }
/-- Scratch page 5 of the group at index 0. -/
def pg : ScratchPage := { id := 5, gang := 7, role := 0, member := 0, index := 0 }
def sc0 : State := { m0 with cores := [((0, 0), { tlb := [tle], pages := [pg] })] }
def lx (n : Nat) : Lane := { v := [(2, [0x3F800000, 0x4B800000, 0x3F800000, 0xCB800000, 0x40400000, 0x3F000000, 0x41100000, 0x3E800000].getD n 0), (4, [7, 3, 9, 3, 5, 3, 3, 8].getD n 0)], p := if n = 6 then 0 else 2 }
def x0 : State := world user ((List.range 8).map fun n => (n, lx n))
def xc : Cohort := cohortOf x0 user
def xi : Issue := iss user 0xFF
def fsh : Form := { d := 14, a := 4, ext := true, w2 := 0x112, lit := some 0xBF }

/-! Witnesses of SpecialFunctionRetires. -/

def sfuRetire_f := ({ one { pend := [⟨9, 3, 1, []⟩], pc := 0 } with cores := [((0, 0), { tlb := [tle], sfu := [⟨⟨user, 0⟩, 9, 5, 1⟩, ⟨⟨user, 0⟩, 10, 6, 0⟩] })] })
theorem witness_sfuRetire :
    (sfuRetire_f.core 0 0).sfu =
        [({ key := ({ coh := user, lane := 0 } : LaneKey), id := 9, value := 5, flags := 1 } : SfuResult),
        ({ key := ({ coh := user, lane := 0 } : LaneKey), id := 10, value := 6, flags := 0 } : SfuResult)]
      ∧ (∀ x ∈ [({ key := ({ coh := user, lane := 0 } : LaneKey), id := 10, value := 6, flags := 0 } : SfuResult)],
        x.id ≠ ({ key := ({ coh := user, lane := 0 } : LaneKey), id := 9, value := 5, flags := 1 } : SfuResult).id) :=
  by decide +kernel

/-- The hypotheses of CrossLaneRounds at these lanes. -/
def crossMeets (x : Instr) (o : Op) (f : Form) : Prop :=
  let m := f.lit.getD (BitVec.allOnes 64)
  let arrives (n : Nat) : Arrival :=
    { op := o, form := f, bytes := xi.bytes, word := xi.word, guard := true, a := arrivalA o f (x0.laneAt xi n), b := (x0.laneAt xi n).reg (f.bField o), mode := Form.mode f (x0.laneAt xi n) }
  let cs := ((xi.lanes.filter fun n => m.getLsbD n).filter fun n => (x0.laneAt xi n).passes f.guard).map fun n => (n, arrives n)
  (x, o) ∈ [(.xshfl f, .xshfl), (.xvote f, .xvote), (.xred f, .xred), (.xminidx f, .xminidx), (.xscan f, .xscan), (.xmatch f, .xmatch)]
    ∧ CanIssue x0 xi xc f.guard (f.use o) ∧ xc.active = true
    ∧ (∀ n, m.getLsbD n = true → (xc.lane? n).isSome = true → xi.mask.getLsbD n = true)
    ∧ (∀ n, xi.mask.getLsbD n = true → (xc.lane? n).isSome = true)
    ∧ (∀ n l (k2 : W64), xc.lane? n = some l → l.status ≠ .parked 6 k2)
    ∧ ∀ y ∈ cs, (crossResult o f cs y.1 (arrives y.1)).flags &&& (x0.laneAt xi y.1).fenable = 0

/-! Witnesses of CrossLaneRounds. -/

def xred_f : Form := { d := 10, a := 2, ext := true, gv := true, gp := 1, w2 := 6 }
theorem witness_xred :
    crossMeets (.xred xred_f) .xred xred_f :=
  ⟨by simp, canIssue (by decide +kernel), by decide +kernel, of_mask (by decide +kernel), of_mask (by decide +kernel),
    lane_not_parked (by decide +kernel) 6, by decide +kernel⟩

theorem witness_xshfl :
    crossMeets (.xshfl fsh) .xshfl fsh :=
  ⟨by simp, canIssue (by decide +kernel), by decide +kernel, of_mask (by decide +kernel), of_mask (by decide +kernel),
    lane_not_parked (by decide +kernel) 6, by decide +kernel⟩

def xminidx_f := ({fsh with ty := 1, w2 := 0})
theorem witness_xminidx :
    crossMeets (.xminidx xminidx_f) .xminidx xminidx_f :=
  ⟨by simp, canIssue (by decide +kernel), by decide +kernel, of_mask (by decide +kernel), of_mask (by decide +kernel),
    lane_not_parked (by decide +kernel) 6, by decide +kernel⟩

def xvote_f := ({fsh with a := 1, w2 := 3})
theorem witness_xvote :
    crossMeets (.xvote xvote_f) .xvote xvote_f :=
  ⟨by simp, canIssue (by decide +kernel), by decide +kernel, of_mask (by decide +kernel), of_mask (by decide +kernel),
    lane_not_parked (by decide +kernel) 6, by decide +kernel⟩

def xvote2_f := ({fsh with a := 1, w2 := 0, d := 3})
theorem witness_xvote2 :
    crossMeets (.xvote xvote2_f) .xvote xvote2_f :=
  ⟨by simp, canIssue (by decide +kernel), by decide +kernel, of_mask (by decide +kernel), of_mask (by decide +kernel),
    lane_not_parked (by decide +kernel) 6, by decide +kernel⟩

def xscan_f := ({fsh with a := 2, w2 := 6})
theorem witness_xscan :
    crossMeets (.xscan xscan_f) .xscan xscan_f :=
  ⟨by simp, canIssue (by decide +kernel), by decide +kernel, of_mask (by decide +kernel), of_mask (by decide +kernel),
    lane_not_parked (by decide +kernel) 6, by decide +kernel⟩

def xmatch_f := ({fsh with w2 := 0})
theorem witness_xmatch :
    crossMeets (.xmatch xmatch_f) .xmatch xmatch_f :=
  ⟨by simp, canIssue (by decide +kernel), by decide +kernel, of_mask (by decide +kernel), of_mask (by decide +kernel),
    lane_not_parked (by decide +kernel) 6, by decide +kernel⟩

/-! Witnesses of LoadIssue. -/

theorem witness_ld :
    ((Instr.ld fm, Op.ld, 1) ∈ [(Instr.ld fm, Op.ld, if fm.xm = true then 1 else 0), (Instr.ldr fm, Op.ldr, 2)])
      ∧ CanAccess m0 i1 mc Op.ld fm 1 Acc.load loc0 :=
  ⟨by decide, canAccess (by decide +kernel)⟩

def ld128_f := ({fm with ty := 2})
theorem witness_ld128 :
    ((Instr.ld ld128_f, Op.ld, 1) ∈
        [(Instr.ld ld128_f, Op.ld, if ld128_f.xm = true then 1 else 0), (Instr.ldr ld128_f, Op.ldr, 2)])
      ∧ CanAccess m0 i1 mc Op.ld ld128_f 1 Acc.load loc0 :=
  ⟨by decide, canAccess (by decide +kernel)⟩

def ldscr_f := ({fm with xm := false, a := 3})
def ldscr_f2 : Loc := { pa := scratchLoc 5 0, va := 0 }
theorem witness_ldscr :
    ((Instr.ld ldscr_f, Op.ld, 0) ∈
        [(Instr.ld ldscr_f, Op.ld, if ldscr_f.xm = true then 1 else 0), (Instr.ldr ldscr_f, Op.ldr, 2)])
      ∧ (CanAccess sc0 i1 (cohortOf sc0 user) Op.ld ldscr_f 0 Acc.load fun _ => ldscr_f2) :=
  ⟨by decide, canAccess (by decide +kernel)⟩

/-! Witnesses of StoreIssue. -/

theorem witness_st :
    ((Instr.st fm, Op.st, 1, Acc.store) ∈
        [(Instr.st fm, Op.st, if fm.xm = true then 1 else 0, Acc.store), (Instr.str fm, Op.str, 2, Acc.store),
        (Instr.ared fm, Op.ared, if fm.xm = true then 1 else 0, Acc.reduction)])
      ∧ CanAccess m0 i1 mc Op.st fm 1 Acc.store loc0 :=
  ⟨by decide, canAccess (by decide +kernel)⟩

theorem witness_ared :
    ((Instr.ared fm, Op.ared, 1, Acc.reduction) ∈
        [(Instr.st fm, Op.st, if fm.xm = true then 1 else 0, Acc.store), (Instr.str fm, Op.str, 2, Acc.store),
        (Instr.ared fm, Op.ared, if fm.xm = true then 1 else 0, Acc.reduction)])
      ∧ CanAccess m0 i1 mc Op.ared fm 1 Acc.reduction loc0 :=
  ⟨by decide, canAccess (by decide +kernel)⟩

/-! Witnesses of AtomicIssue. -/

theorem witness_atom :
    (Instr.atom fm, Op.atom) ∈ [(Instr.atom fm, Op.atom), (Instr.acas fm, Op.acas)]
      ∧ (CanAccess m0 i1 mc Op.atom fm (if fm.xm = true then 1 else 0) Acc.atomic loc0) :=
  ⟨by decide, canAccess (by decide +kernel)⟩

def acas_f := ({fm with c := 6, ty := 1})
theorem witness_acas :
    (Instr.acas acas_f, Op.acas) ∈ [(Instr.atom acas_f, Op.atom), (Instr.acas acas_f, Op.acas)]
      ∧ (CanAccess m0 i1 mc Op.acas acas_f (if acas_f.xm = true then 1 else 0) Acc.atomic loc0) :=
  ⟨by decide, canAccess (by decide +kernel)⟩

/-! Witnesses of FenceCompletes. -/

theorem witness_pref :
    CanIssue m0 i1 mc fm.guard (Form.use Op.pref fm) :=
  canIssue (by decide +kernel)

def fence_f := ({fm with rs := 3, w2 := 1})
theorem witness_fence :
    CanIssue m0 i1 mc fence_f.guard ({} : RegUse)
      ∧ (∀ n ∈ m0.executing i1 fence_f.guard,
        m0.fenceReady (i1.lane n) fence_f.rs.toNat (pathsOf (BitVec.toNat fence_f.w2)) = true ∧ (m0.laneAt i1 n).fenceFx = []) :=
  ⟨canIssue (by decide +kernel), by decide +kernel⟩

/-! Witnesses of SpillAndFill. -/

def fill_f := ({ fm with d := 9 })
theorem witness_fill :
    CanIssue mf i1 mc fill_f.guard (Form.use Op.fill fill_f)
      ∧ mf.executing i1 fill_f.guard = [0]
      ∧ (mf.watchHit i1 false
        (if fill_f.xm = true then
        List.map
        (fun (m : Nat) => (m, memAddr fill_f (mf.laneAt i1 0), imageSize (ofBytes (List.take 1 (mf.home 8192 16))))) [0]
        else []) =
        Hit.none)
      ∧ (mf.scoreStall i1.key (if fill_f.xm = true then 1 else 0) (BitVec.toNat (memAddr fill_f (mf.laneAt i1 0)))
        (imageSize (ofBytes (List.take 1 (mf.home 8192 16)))) false =
        false)
      ∧ BitVec.toNat (memAddr fill_f (mf.laneAt i1 0)) % 16 = 0
      ∧ (mf.readNow (i1.lane 0) (if fill_f.xm = true then 1 else 0) (memAddr fill_f (mf.laneAt i1 0)) 16 =
        (NowRead.bytes (mf.home 8192 16) [], mf))
      ∧ (mf.readNow (i1.lane 0) (if fill_f.xm = true then 1 else 0) (memAddr fill_f (mf.laneAt i1 0))
        (imageSize (ofBytes (List.take 1 (mf.home 8192 16)))) =
        (NowRead.bytes (mf.home 8192 272) [], mf))
      ∧ ofBytes (List.take 1 (mf.home 8192 272)) ≤ 4
      ∧ ofBytes (List.take 7 (List.drop 1 (mf.home 8192 272))) = 0 :=
  ⟨canIssue (by decide +kernel), by decide +kernel⟩

theorem witness_spill :
    CanIssue m0 i1 mc fm.guard (Form.use Op.spill fm)
      ∧ m0.executing i1 fm.guard = [0]
      ∧ (∀ x ∈ mc.lanes, x.2.pending (Form.bField Op.spill fm) = false)
      ∧ (m0.watchHit i1 true
        (if fm.xm = true then
        List.map (fun (n : Nat) => (n, memAddr fm (m0.laneAt i1 0), (mc.image (Form.bField Op.spill fm)).length)) [0]
        else []) =
        Hit.none)
      ∧ (m0.scoreStall i1.key (if fm.xm = true then 1 else 0) (BitVec.toNat (memAddr fm (m0.laneAt i1 0)))
        (mc.image (Form.bField Op.spill fm)).length true =
        false)
      ∧ BitVec.toNat (memAddr fm (m0.laneAt i1 0)) % 16 = 0
      ∧ (m0.findPieces (i1.lane 0) (if fm.xm = true then 1 else 0) Acc.store (BitVec.toNat (memAddr fm (m0.laneAt i1 0)))
        (piecesOf (BitVec.toNat (memAddr fm (m0.laneAt i1 0))) (mc.image (Form.bField Op.spill fm)).length) =
        (m0,
        List.map (fun (x : Nat × Nat × Loc) => (x.1, x.2.1, Found.at x.2.2))
        (List.map (fun (p : Nat × Nat) => (p.1 - 8192, p.2, ({ pa := p.1, va := p.1 } : Loc)))
        (piecesOf 8192 (mc.image 4).length)))) :=
  ⟨canIssue (by decide +kernel), by decide +kernel⟩

def ld0 : Load := { id := 3, src := ⟨user, 0⟩, pc := 0x1000, va := 0x2000, pa := 0x2000, ty := 1, ext := 0, first := 8, acq := false, scope := 0 }
def ml : State := { m0 with loads := [ld0], nextId := 4, cohorts := [(user, coh [(0, { lg with pend := [⟨3, 8, 2, []⟩] })])] }
def wr0 : Write := { id := 3, src := ⟨user, 0⟩, gang := 7, path := .lsu, wic := 1, pc := 0x1000, va := 0x2001, pa := 0x2001, data := [0x55, 0, 0x77] }
def mw : State := { m0 with writes := [wr0], nextId := 4 }
def mwr : State := { m0 with writes := [{ wr0 with pa := 0x2000, data := [1,1,0,0], red := some (0, 0) }], nextId := 4 }
def at0 : Atomic := { id := 3, src := ⟨user, 0⟩, gang := 7, pc := 0x1000, prio := 0x80, va := 0x2000, pa := 0x2000, wide := false, op := 0, b := 1, cmp := none, first := 8, acq := false, scope := 0, wic := 1 }
def ma : State := { m0 with atomics := [at0], nextId := 4, cohorts := [(user, coh [(0, { lg with pend := [⟨3, 8, 1, []⟩] })])] }
def ma2 : State := { ma with atomics := [{ at0 with cmp := some 0x44002211, b := 0 }] }
def lc : Lane := { v := [(2, 0x4000), (3, 0), (4, 0x2000), (5, 0), (6, 0x3000), (7, 0), (10, 0x20), (11, 2), (12, 0x20), (13, 0x40)], wic := 3 }
def mcp : State := { one lc with mem := [(0x2000, 0x11), owner] }
def fcp : Form := { d := 8, a := 2, b := 4, c := 6, ext := true, ty := 3, w2 := 32 }
def jb : Job := { id := 9, frz := false, key := ⟨user, 0⟩, fibre := 0, pid := 1, gang := 7, role := 0, member := 0, ticket := 4, word := 0x3000, pc := 0x1000, dstSpace := 1, srcSpace := 1, dst := 0x4000, src := 0x2000, rowBytes := 16, todo := [0], count := 1 }
def mj : State := { mcp with jobs := [jb] }
def jb2 : Job := { jb with todo := [], got := [(0, List.replicate 16 7)] }
def jb3 : Job := { jb with todo := [] }
def jb4 : Job := { jb with todo := [], complete := true }
def xw : Xlt := { pa := 0x3000, level := 3, pte := 0xDF }
def lw : Lane := { v := [(2, 0x2000), (3, 0), (4, 0x11), (5, 0)] }
def mtk : State := { one lw with mem := [(0x2000, 0x11), owner] }
def mtk' : State := { one lw with mem := [(0x2000, 0x10), owner] }
def ftk : Form := { d := 1, a := 2, b := 4, ext := true }

/-! Witnesses of LoadReturns. -/

theorem witness_ldret :
    ld0 ∈ ml.loads
      ∧ (∀ y ∈ ml.loads, y.id = ld0.id → y = ld0)
      ∧ ml.loadDue ld0 = true
      ∧ ml.awake ld0.src.coh.die = true
      ∧ ml.homeAwake ld0.pa ld0.src.coh ld0.stash true = true
      ∧ ml.homeRefuses ld0.src.coh.die ld0.gang ld0.pa = false
      ∧ ml.badAt ld0.pa ld0.size = false :=
  ⟨by decide, by decide +kernel⟩

/-! Witnesses of WritesApply. -/

theorem witness_wrhome :
    mw.memOk
      ∧ ((List.map (fun (x : (Nat × Nat) × Byte) => x.1) mw.views).Nodup)
      ∧ mw.write? wr0.id = some wr0
      ∧ mw.dirtyGood
      ∧ mw.homeDue wr0 (lagOf wr0 [5]) = true
      ∧ mw.writeAwake wr0 (lagOf wr0 [5]) = true
      ∧ mw.homeRefuses wr0.src.coh.die wr0.gang wr0.pa = false
      ∧ mw.frzCount wr0.pa = 0
      ∧ (wr0.red.isSome = true → mw.badAt wr0.pa wr0.size = false) :=
  ⟨by show Memory.wf _ = true; decide +kernel, by decide, by decide +kernel⟩

def wrred_f := ({ wr0 with pa := 0x2000, data := [1,1,0,0], red := some (0, 0) })
theorem witness_wrred :
    mwr.memOk
      ∧ ((List.map (fun (x : (Nat × Nat) × Byte) => x.1) mwr.views).Nodup)
      ∧ mwr.write? wrred_f.id = some wrred_f
      ∧ mwr.dirtyGood
      ∧ mwr.homeDue wrred_f (lagOf wrred_f []) = true
      ∧ mwr.writeAwake wrred_f (lagOf wrred_f []) = true
      ∧ mwr.homeRefuses wrred_f.src.coh.die wrred_f.gang wrred_f.pa = false
      ∧ mwr.frzCount wrred_f.pa = 0
      ∧ (wrred_f.red.isSome = true → mwr.badAt wrred_f.pa wrred_f.size = false) :=
  ⟨by show Memory.wf _ = true; decide +kernel, by decide, by decide +kernel⟩

/-- A store to host memory, whose order no home fixes for other observers. -/
def whost : Write := { wr0 with pa := 2 ^ 55 + 0x2001 }
def mwh : State := { m0 with writes := [whost], nextId := 4 }
theorem witness_wrobs :
    mwh.memOk
      ∧ ((List.map (fun (x : (Nat × Nat) × Byte) => x.1) mwh.views).Nodup)
      ∧ mwh.write? whost.id = some whost
      ∧ mwh.dirtyGood
      ∧ mayLag whost 1 = true
      ∧ 0 < whost.size
      ∧ whost.pa + whost.size ≤ scratchBase
      ∧ mwh.observerDue whost 1 = true
      ∧ observerAwake mwh 1 = true
      ∧ whost.fenced = none
      ∧ whost.home = false
      ∧ 1 ≤ Config.hostObserver :=
  ⟨by show Memory.wf _ = true; decide +kernel, by decide, by decide +kernel⟩

/-! Witnesses of AtomicsPerform. -/

theorem witness_atomp :
    ma.memOk
      ∧ at0 ∈ ma.atomics
      ∧ (∀ y ∈ ma.atomics, y.id = at0.id → y = at0)
      ∧ ma.atomicDue at0 = true
      ∧ ma.dirtyGood
      ∧ ma.awake at0.src.coh.die = true
      ∧ ma.homeAwake at0.pa at0.src.coh at0.stash false = true
      ∧ ma.homeRefuses at0.src.coh.die at0.gang at0.pa = false
      ∧ ma.badAt at0.pa at0.size = false
      ∧ ma.frzCount at0.pa = 0 :=
  ⟨by show Memory.wf _ = true; decide +kernel, by decide, by decide +kernel⟩

def atomc_f := ({ at0 with cmp := some 0x44002211, b := 0 })
theorem witness_atomc :
    ma2.memOk
      ∧ atomc_f ∈ ma2.atomics
      ∧ (∀ y ∈ ma2.atomics, y.id = atomc_f.id → y = atomc_f)
      ∧ ma2.atomicDue atomc_f = true
      ∧ ma2.dirtyGood
      ∧ ma2.awake atomc_f.src.coh.die = true
      ∧ ma2.homeAwake atomc_f.pa atomc_f.src.coh atomc_f.stash false = true
      ∧ ma2.homeRefuses atomc_f.src.coh.die atomc_f.gang atomc_f.pa = false
      ∧ ma2.badAt atomc_f.pa atomc_f.size = false
      ∧ ma2.frzCount atomc_f.pa = 0 :=
  ⟨by show Memory.wf _ = true; decide +kernel, by decide, by decide +kernel⟩

/-! Witnesses of CopiesRun. -/

theorem witness_cpy :
    (Instr.cpy fcp, Op.cpy) ∈ [(Instr.cpy fcp, Op.cpy), (Instr.cpy2d fcp, Op.cpy2d)]
      ∧ CanIssue mcp i1 (cohortOf mcp user) fcp.guard (Form.use Op.cpy fcp)
      ∧ (Op.cpy = Op.cpy2d → (copyArgs Op.cpy fcp (mcp.laneAt i1 0)).shape.ok = true)
      ∧ (cohortOf mcp user).stall = none
      ∧ mcp.executing i1 fcp.guard = [0]
      ∧ BitVec.toNat (copyArgs Op.cpy fcp (mcp.laneAt i1 0)).dst % 16 = 0
      ∧ BitVec.toNat (copyArgs Op.cpy fcp (mcp.laneAt i1 0)).src % 16 = 0
      ∧ BitVec.toNat (copyArgs Op.cpy fcp (mcp.laneAt i1 0)).word % 8 = 0
      ∧ mcp.wordOk (i1.lane 0) (copyArgs Op.cpy fcp (mcp.laneAt i1 0)).word = (Reached.at xw, mcp)
      ∧ (mcp.laneAt i1 0).tickets.length < 32
      ∧ mcp.rangesFit (mcp.copyRanges i1.key fcp.ty.toNat mcp.nextId (copyArgs Op.cpy fcp (mcp.laneAt i1 0))) = true :=
  ⟨by decide, canIssue (by decide +kernel), by simp, by decide +kernel⟩

def cpy2d_f := ({fcp with w2 := 10 })
def cpy2d_f2 := ({fcp with w2 := 10})
theorem witness_cpy2d :
    (Instr.cpy2d cpy2d_f2, Op.cpy2d) ∈ [(Instr.cpy cpy2d_f, Op.cpy), (Instr.cpy2d cpy2d_f, Op.cpy2d)]
      ∧ CanIssue mcp i1 (cohortOf mcp user) cpy2d_f.guard (Form.use Op.cpy2d cpy2d_f)
      ∧ (cohortOf mcp user).stall = none
      ∧ mcp.executing i1 cpy2d_f.guard = [0]
      ∧ (Op.cpy2d = Op.cpy2d → (copyArgs Op.cpy2d cpy2d_f (mcp.laneAt i1 0)).shape.ok = true)
      ∧ BitVec.toNat (copyArgs Op.cpy2d cpy2d_f (mcp.laneAt i1 0)).dst % 16 = 0
      ∧ BitVec.toNat (copyArgs Op.cpy2d cpy2d_f (mcp.laneAt i1 0)).src % 16 = 0
      ∧ BitVec.toNat (copyArgs Op.cpy2d cpy2d_f (mcp.laneAt i1 0)).word % 8 = 0
      ∧ mcp.wordOk (i1.lane 0) (copyArgs Op.cpy2d cpy2d_f (mcp.laneAt i1 0)).word = (Reached.at xw, mcp)
      ∧ (mcp.laneAt i1 0).tickets.length < 32
      ∧ mcp.rangesFit (mcp.copyRanges i1.key cpy2d_f.ty.toNat mcp.nextId (copyArgs Op.cpy2d cpy2d_f (mcp.laneAt i1 0))) =
        true :=
  ⟨by decide, canIssue (by decide +kernel), by decide +kernel⟩

def cpyrd_f : Loc := { pa := 0x2000, va := 0x2000 }
theorem witness_cpyrd :
    (List.find? (fun (y : Job) => decide (y.id = jb.id) && !y.frz) mj.jobs = some jb)
      ∧ mj.awake jb.key.coh.die = true
      ∧ jb.waiting = false
      ∧ jb.complete = false
      ∧ jb.got = []
      ∧ jb.todo = [0]
      ∧ mj.jobFind jb jb.srcSpace (jb.srcAt 0) Acc.copyRead = (Found.at cpyrd_f, mj)
      ∧ mj.homeAwake cpyrd_f.pa jb.key.coh cpyrd_f.stash true = true
      ∧ mj.homeRefuses jb.key.coh.die jb.gang cpyrd_f.pa = false
      ∧ mj.badAt cpyrd_f.pa 16 = false :=
  by decide +kernel

def cpywr_f := ({ mj with jobs := [jb2] })
def cpywr_f2 : Loc := { pa := 0x4000, va := 0x4000 }
theorem witness_cpywr :
    (List.find? (fun (y : Job) => decide (y.id = jb2.id) && !y.frz) cpywr_f.jobs = some jb2)
      ∧ cpywr_f.awake jb2.key.coh.die = true
      ∧ jb2.waiting = false
      ∧ jb2.complete = false
      ∧ jb2.got = [(0, List.replicate 16 7)]
      ∧ cpywr_f.jobFind jb2 jb2.dstSpace (jb2.dstAt 0) Acc.copyWrite = (Found.at cpywr_f2, cpywr_f)
      ∧ (List.replicate 16 7 : List Byte).length = 16 :=
  by decide +kernel

def cpydone_f := ({ mj with jobs := [jb3] })
theorem witness_cpydone :
    (List.find? (fun (y : Job) => decide (y.id = jb3.id) && !y.frz) cpydone_f.jobs = some jb3)
      ∧ cpydone_f.awake jb3.key.coh.die = true
      ∧ jb3.waiting = false
      ∧ jb3.complete = false
      ∧ jb3.got = []
      ∧ jb3.todo = []
      ∧ cpydone_f.copyPerformed jb3 = true :=
  by decide +kernel

/-! Witnesses of CompletionWordsAndWaits. -/

def cword_f := ({ mj with jobs := [jb4] })
theorem witness_cword :
    cword_f.memOk
      ∧ (Instr.copyComplete 9 =
        if jb4.frz = false then Instr.copyComplete jb4.id
        else if jb4.thaw = true then Instr.thawCollectComplete jb4.id else Instr.freezeComplete jb4.id)
      ∧ (jb4.thaw = true → jb4.granules.all cword_f.granuleAwake = true ∧ cword_f.noOutside)
      ∧ (List.filter (fun (y : Job) => decide (y.id = jb4.id)) cword_f.jobs = [jb4])
      ∧ jb4.complete = true
      ∧ jb4.waiting = false
      ∧ cword_f.awake jb4.key.coh.die = true
      ∧ cword_f.dirtyGood
      ∧ cword_f.wordTurn jb4 = true
      ∧ cword_f.wordFollows jb4 = true
      ∧ cword_f.reach jb4.key.coh.die noCore jb4.priv (BitVec.ofNat 64 jb4.word) Acc.atomic = (Reached.at xw, cword_f)
      ∧ cword_f.homeAwake xw.pa jb4.key.coh none false = true
      ∧ cword_f.collecting xw.pa = false
      ∧ cword_f.frzCount xw.pa = 0
      ∧ cword_f.homeRefuses jb4.key.coh.die jb4.gang xw.pa = false :=
  ⟨by show Memory.wf _ = true; decide +kernel, by rfl, fun h => (by decide : jb4.thaw ≠ true).elim h, by decide, by decide +kernel⟩

def fword_f := ({ mj with jobs := [{jb4 with frz := true, bad := true}] })
def fword_f2 := ({jb4 with frz := true, bad := true})
theorem witness_fword :
    fword_f.memOk
      ∧ (Instr.freezeComplete 9 =
        if fword_f2.frz = false then Instr.copyComplete fword_f2.id
        else if fword_f2.thaw = true then Instr.thawCollectComplete fword_f2.id else Instr.freezeComplete fword_f2.id)
      ∧ (fword_f2.thaw = true → fword_f2.granules.all fword_f.granuleAwake = true ∧ fword_f.noOutside)
      ∧ (List.filter (fun (y : Job) => decide (y.id = fword_f2.id)) fword_f.jobs = [fword_f2])
      ∧ fword_f2.complete = true
      ∧ fword_f2.waiting = false
      ∧ fword_f.awake fword_f2.key.coh.die = true
      ∧ fword_f.dirtyGood
      ∧ fword_f.wordTurn fword_f2 = true
      ∧ fword_f.wordFollows fword_f2 = true
      ∧ fword_f.reach fword_f2.key.coh.die noCore fword_f2.priv (BitVec.ofNat 64 fword_f2.word) Acc.atomic = (Reached.at xw, fword_f)
      ∧ fword_f.homeAwake xw.pa fword_f2.key.coh none false = true
      ∧ fword_f.collecting xw.pa = false
      ∧ fword_f.frzCount xw.pa = 0
      ∧ fword_f.homeRefuses fword_f2.key.coh.die fword_f2.gang xw.pa = false :=
  ⟨by show Memory.wf _ = true; decide +kernel, by rfl, fun h => (by decide : fword_f2.thaw ≠ true).elim h, by decide, by decide +kernel⟩

theorem witness_cwait :
    (CanIssue mtk i1 (cohortOf mtk user) ftk.guard (Form.use Op.cwait ftk) ∧
        mtk.executing i1 ftk.guard = [0] ∧
        BitVec.toNat ((mtk.laneAt i1 0).regPair ftk.a.toNat) % 8 = 0 ∧
        mtk.readNow (i1.lane 0) 1 ((mtk.laneAt i1 0).regPair ftk.a.toNat) 8 =
        (NowRead.bytes [17, 0, 0, 0, 0, 0, 0, 0] [], mtk) ∧
        mtk.watchHit i1 false [(0, (mtk.laneAt i1 0).regPair ftk.a.toNat, 8)] = Hit.none ∧
        (∀ y ∈ mtk.loads, y.src ≠ i1.lane 0) ∧
        (∀ y ∈ mtk.atomics, y.src ≠ i1.lane 0) ∧
        (∀ y ∈ mtk.qwaits, y.key ≠ i1.lane 0) ∧ ∀ w ∈ mtk.writes, mtk.ownWrite (i1.lane 0) .lsu w = true → w.red = none)
      ∧ (mtk.lane? (i1.lane 0)).isSome = true
      ∧ BitVec.toNat ((mtk.laneAt i1 0).regPair (Form.bField Op.cwait ftk)) ≤ ofBytes [17, 0, 0, 0, 0, 0, 0, 0] % 2 ^ 63
      ∧ (ofBytes [17, 0, 0, 0, 0, 0, 0, 0]).testBit 63 = false :=
  ⟨by exact ⟨canIssue (by decide +kernel), by decide +kernel⟩, by decide +kernel⟩

theorem witness_cwaitp :
    (CanIssue mtk' i1 (cohortOf mtk' user) ftk.guard (Form.use Op.cwait ftk) ∧
        mtk'.executing i1 ftk.guard = [0] ∧
        BitVec.toNat ((mtk'.laneAt i1 0).regPair ftk.a.toNat) % 8 = 0 ∧
        mtk'.readNow (i1.lane 0) 1 ((mtk'.laneAt i1 0).regPair ftk.a.toNat) 8 =
        (NowRead.bytes [16, 0, 0, 0, 0, 0, 0, 0] [], mtk') ∧
        mtk'.watchHit i1 false [(0, (mtk'.laneAt i1 0).regPair ftk.a.toNat, 8)] = Hit.none ∧
        (∀ y ∈ mtk'.loads, y.src ≠ i1.lane 0) ∧
        (∀ y ∈ mtk'.atomics, y.src ≠ i1.lane 0) ∧
        (∀ y ∈ mtk'.qwaits, y.key ≠ i1.lane 0) ∧ ∀ w ∈ mtk'.writes, mtk'.ownWrite (i1.lane 0) .lsu w = true → w.red = none)
      ∧ (mtk'.lane? (i1.lane 0)).isSome = true
      ∧ (¬BitVec.toNat ((mtk'.laneAt i1 0).regPair (Form.bField Op.cwait ftk)) ≤ ofBytes [16, 0, 0, 0, 0, 0, 0, 0] % 2 ^ 63) :=
  ⟨by exact ⟨canIssue (by decide +kernel), by decide +kernel⟩, by decide +kernel⟩

theorem witness_twait :
    (CanIssue mtk i1 (cohortOf mtk user) ftk.guard (Form.use Op.twait ftk) ∧
        mtk.executing i1 ftk.guard = [0] ∧
        BitVec.toNat ((mtk.laneAt i1 0).regPair ftk.a.toNat) % 8 = 0 ∧
        mtk.readNow (i1.lane 0) 1 ((mtk.laneAt i1 0).regPair ftk.a.toNat) 8 =
        (NowRead.bytes [17, 0, 0, 0, 0, 0, 0, 0] [], mtk) ∧
        mtk.watchHit i1 false [(0, (mtk.laneAt i1 0).regPair ftk.a.toNat, 8)] = Hit.none ∧
        (∀ y ∈ mtk.loads, y.src ≠ i1.lane 0) ∧
        (∀ y ∈ mtk.atomics, y.src ≠ i1.lane 0) ∧
        (∀ y ∈ mtk.qwaits, y.key ≠ i1.lane 0) ∧ ∀ w ∈ mtk.writes, mtk.ownWrite (i1.lane 0) .lsu w = true → w.red = none)
      ∧ (mtk.lane? (i1.lane 0)).isSome = true
      ∧ BitVec.toNat ((mtk.laneAt i1 0).regPair (Form.bField Op.twait ftk)) ≤ ofBytes [17, 0, 0, 0, 0, 0, 0, 0] % 2 ^ 63 :=
  ⟨by exact ⟨canIssue (by decide +kernel), by decide +kernel⟩, by decide +kernel⟩

theorem witness_twaitp :
    (CanIssue mtk' i1 (cohortOf mtk' user) ftk.guard (Form.use Op.twait ftk) ∧
        mtk'.executing i1 ftk.guard = [0] ∧
        BitVec.toNat ((mtk'.laneAt i1 0).regPair ftk.a.toNat) % 8 = 0 ∧
        mtk'.readNow (i1.lane 0) 1 ((mtk'.laneAt i1 0).regPair ftk.a.toNat) 8 =
        (NowRead.bytes [16, 0, 0, 0, 0, 0, 0, 0] [], mtk') ∧
        mtk'.watchHit i1 false [(0, (mtk'.laneAt i1 0).regPair ftk.a.toNat, 8)] = Hit.none ∧
        (∀ y ∈ mtk'.loads, y.src ≠ i1.lane 0) ∧
        (∀ y ∈ mtk'.atomics, y.src ≠ i1.lane 0) ∧
        (∀ y ∈ mtk'.qwaits, y.key ≠ i1.lane 0) ∧ ∀ w ∈ mtk'.writes, mtk'.ownWrite (i1.lane 0) .lsu w = true → w.red = none)
      ∧ (mtk'.lane? (i1.lane 0)).isSome = true
      ∧ (¬BitVec.toNat ((mtk'.laneAt i1 0).regPair (Form.bField Op.twait ftk)) ≤ ofBytes [16, 0, 0, 0, 0, 0, 0, 0] % 2 ^ 63) :=
  ⟨by exact ⟨canIssue (by decide +kernel), by decide +kernel⟩, by decide +kernel⟩

theorem witness_ctest :
    (CanIssue mtk i1 (cohortOf mtk user) ftk.guard (Form.use Op.ctest ftk) ∧
        mtk.executing i1 ftk.guard = [0] ∧
        BitVec.toNat ((mtk.laneAt i1 0).regPair ftk.a.toNat) % 8 = 0 ∧
        mtk.readNow (i1.lane 0) 1 ((mtk.laneAt i1 0).regPair ftk.a.toNat) 8 =
        (NowRead.bytes [17, 0, 0, 0, 0, 0, 0, 0] [], mtk) ∧
        mtk.watchHit i1 false [(0, (mtk.laneAt i1 0).regPair ftk.a.toNat, 8)] = Hit.none ∧
        (∀ y ∈ mtk.loads, y.src ≠ i1.lane 0) ∧
        (∀ y ∈ mtk.atomics, y.src ≠ i1.lane 0) ∧
        (∀ y ∈ mtk.qwaits, y.key ≠ i1.lane 0) ∧ ∀ w ∈ mtk.writes, mtk.ownWrite (i1.lane 0) .lsu w = true → w.red = none)
      ∧ (mtk.lane? (i1.lane 0)).isSome = true :=
  ⟨by exact ⟨canIssue (by decide +kernel), by decide +kernel⟩, by decide +kernel⟩

theorem witness_ftest :
    (CanIssue mtk' i1 (cohortOf mtk' user) ftk.guard (Form.use Op.ftest ftk) ∧
        mtk'.executing i1 ftk.guard = [0] ∧
        BitVec.toNat ((mtk'.laneAt i1 0).regPair ftk.a.toNat) % 8 = 0 ∧
        mtk'.readNow (i1.lane 0) 1 ((mtk'.laneAt i1 0).regPair ftk.a.toNat) 8 =
        (NowRead.bytes [16, 0, 0, 0, 0, 0, 0, 0] [], mtk') ∧
        mtk'.watchHit i1 false [(0, (mtk'.laneAt i1 0).regPair ftk.a.toNat, 8)] = Hit.none ∧
        (∀ y ∈ mtk'.loads, y.src ≠ i1.lane 0) ∧
        (∀ y ∈ mtk'.atomics, y.src ≠ i1.lane 0) ∧
        (∀ y ∈ mtk'.qwaits, y.key ≠ i1.lane 0) ∧ ∀ w ∈ mtk'.writes, mtk'.ownWrite (i1.lane 0) .lsu w = true → w.red = none)
      ∧ (mtk'.lane? (i1.lane 0)).isSome = true :=
  ⟨by exact ⟨canIssue (by decide +kernel), by decide +kernel⟩, by decide +kernel⟩

def hxs : HeapCtx := ⟨⟨super, 0⟩, true, 7, 0⟩
def hx : HeapCtx := ⟨⟨user, 0⟩, false, 7, 0⟩
/-- The state after a frame-heap action, and its answer. -/
def ran {α : Type} (m : HeapM α) (s : State) : State := match m s with | .ok (_, t) => t | .error _ => s
def got {α : Type} (d : α) (m : HeapM α) (s : State) : α := match m s with | .ok (a, _) => a | .error _ => d
def withLane (s : State) (f : Lane → Lane) : State := { s.modLane ⟨user, 0⟩ f with issue := s.issue }
/-- A fibre with its start frame. -/
def h0 : State :=
  let s := { one { v := [(2, 0x4000), (3, 0)] } with cores := [((0, 0), { tlb := [tle] })] }
  withLane (ran (startStack hx 0) s) fun l => { l with sp := (got (0, 0) (startStack hx 0) s).1 }
def l0 : Lane := (h0.lane? ⟨user, 0⟩).getD {}
/-- It has installed a handler at 0x5000. -/
def h1 : State := withLane (ran (installFrame hx l0 0x5000 0x40 0xFF) h0) fun l => { l with chain := got 0 (installFrame hx l0 0x5000 0x40 0xFF) h0 }
def l1 : Lane := (h1.lane? ⟨user, 0⟩).getD {}
/-- And called. -/
def h2 : State := withLane (ran (callFrame hx l1 64 0x6000 0x40) h1) fun l => { l with sp := got 0 (callFrame hx l1 64 0x6000 0x40) h1 }
def l2 : Lane := (h2.lane? ⟨user, 0⟩).getD {}
def eff0 : Effect := { tag := 0x40, k2 := 0x4000, k3 := 0, cpc := some 0x100C, xpc := 0x1000 }
def fper : Form := { top := 0x20, b := 2, ext := true }
/-- Form with the high bits of the first word: PRI, then the fields of a branch. -/
def fcall : Form := { top := 0x20, a := 0x01, d := 0, ext := true, w2 := 4 }
def sp0 : State := { m0 with cores := [((0, 0), { tlb := [tle], pages := [pg, { pg with id := 6, index := 1, pinned := false }] })] }
def sp1 : State := { sp0 with cores := [((0, 0), { tlb := [tle], pages := [{ pg with stash := some 0x4000, sectors := [⟨0, 0x4000, true, false, true⟩] }, { pg with id := 6, index := 1, pinned := false }] })] }
def pgs : ScratchPage := { pg with stash := some 0x4000, sectors := [⟨0, 0x4000, true, false, true⟩] }
def fpg : Form := { a := 3, b := 8, ext := true, w2 := 1 }
def lfz : Lane := { v := [(2, 0x10000), (3, 0), (4, 0x20000), (5, 0), (6, 0x3000), (7, 0)] }
/-- The freeze counts of each die have memory of their own (19 R409). -/
def mfz : State :=
  { one lfz with
    dies := (List.range 16).map fun d => (d, { dieOf with dcr := (offFRZMAPBASE, BitVec.ofNat 64 (2 ^ 40 * d + 2 ^ 20)) :: dieOf.dcr }) }
def ffz : Form := { d := 8, a := 2, b := 4, c := 6, ext := true, rs := 2 }
def mth : State := { mfz with mem := [owner, (0x100001, 1), (0x100002, 1)] }
def jfz : Job := { jb with frz := true, granules := [1, 2], before := [3], scope := 2 }

/-! Witnesses of ScratchPages. -/

def pin_f := ({ pg with id := 6, index := 1, pinned := false })
theorem witness_pin :
    sp0.memOk
      ∧ CanIssue sp0 i1 (cohortOf sp0 user) fpg.guard (Form.use Op.pin fpg)
      ∧ sp0.executing i1 fpg.guard = [0]
      ∧ sp0.pagesFrom i1 (cohortOf sp0 user) (BitVec.toNat ((sp0.laneAt i1 0).reg fpg.a.toNat))
        (BitVec.toNat fpg.w2 % 64 + 1) =
        some [pg, pin_f] :=
  ⟨by show Memory.wf _ = true; decide +kernel, canIssue (by decide +kernel), by decide +kernel⟩

def unpin_f := ({ pg with id := 6, index := 1, pinned := false })
theorem witness_unpin :
    sp0.memOk
      ∧ CanIssue sp0 i1 (cohortOf sp0 user) fpg.guard (Form.use Op.unpin fpg)
      ∧ sp0.executing i1 fpg.guard = [0]
      ∧ sp0.pagesFrom i1 (cohortOf sp0 user) (BitVec.toNat ((sp0.laneAt i1 0).reg fpg.a.toNat))
        (BitVec.toNat fpg.w2 % 64 + 1) =
        some [pg, unpin_f] :=
  ⟨by show Memory.wf _ = true; decide +kernel, canIssue (by decide +kernel), by decide +kernel⟩

theorem witness_swb :
    sp1.memOk
      ∧ CanIssue sp1 i1 (cohortOf sp1 user) fpg.guard (Form.use Op.swb fpg)
      ∧ sp1.executing i1 fpg.guard = [0]
      ∧ sp1.pageFor i1 (cohortOf sp1 user) (BitVec.toNat ((sp1.laneAt i1 0).reg fpg.a.toNat)) = some pgs
      ∧ pgs.stash.isSome = true
      ∧ sp1.homesAwake (0, 0) pgs = true
      ∧ (∀ w ∈ sp1.stashWrites (0, 0) pgs, w.home = true)
      ∧ sp1.dirtyBad pgs = none :=
  ⟨by show Memory.wf _ = true; decide +kernel, canIssue (by decide +kernel), by decide +kernel⟩

theorem witness_unstash :
    sp1.memOk
      ∧ CanIssue sp1 i1 (cohortOf sp1 user) fpg.guard (Form.use Op.unstash fpg)
      ∧ sp1.executing i1 fpg.guard = [0]
      ∧ sp1.pageFor i1 (cohortOf sp1 user) (BitVec.toNat ((sp1.laneAt i1 0).reg fpg.a.toNat)) = some pgs
      ∧ pgs.stash.isSome = true
      ∧ sp1.homesAwake (0, 0) pgs = true
      ∧ (∀ w ∈ sp1.stashWrites (0, 0) pgs, w.home = true)
      ∧ sp1.dirtyBad pgs = none :=
  ⟨by show Memory.wf _ = true; decide +kernel, canIssue (by decide +kernel), by decide +kernel⟩

theorem witness_stash :
    sp0.memOk
      ∧ CanIssue sp0 i1 (cohortOf sp0 user) fpg.guard (Form.use Op.stash fpg)
      ∧ sp0.executing i1 fpg.guard = [0]
      ∧ sp0.pageFor i1 (cohortOf sp0 user) (BitVec.toNat ((sp0.laneAt i1 0).reg fpg.a.toNat)) = some pg
      ∧ pg.stash = none
      ∧ BitVec.toNat ((sp0.laneAt i1 0).regPair (Form.bField Op.stash fpg)) % 16384 = 0
      ∧ sp0.rangeThaws i1.key.die (cohortOf sp0 user).priv (BitVec.toNat ((sp0.laneAt i1 0).regPair (Form.bField Op.stash fpg))) = false :=
  ⟨by show Memory.wf _ = true; decide +kernel, canIssue (by decide +kernel), by decide +kernel⟩

def pfill_f : Xlt := { pa := 0x4180, level := 3, pte := 0xDF }
theorem witness_pfill :
    sp1.findPage pgs.id = some ((0, 0), pgs)
      ∧ sp1.awake 0 = true
      ∧ pgs.stash = some 16384
      ∧ 3 < 128
      ∧ pgs.physical = true
      ∧ pgs.absent = []
      ∧ (∀ y ∈ pgs.sectors, y.idx ≠ 3)
      ∧ sp1.reach 0 0 pgs.priv (pgs.globalAt (128 * 3)) Acc.stashFill = (Reached.at pfill_f, sp1) :=
  by decide +kernel

theorem witness_recall :
    sp1.findPage pgs.id = some ((0, 0), pgs)
      ∧ sp1.awake 0 = true
      ∧ ({ idx := 0, pa := 16384, writable := true, frozen := false, dirty := true } : StashSector) ∈ pgs.sectors
      ∧ (∀ y ∈ pgs.sectors,
        y.idx = ({ idx := 0, pa := 16384, writable := true, frozen := false, dirty := true } : StashSector).idx →
        y = ({ idx := 0, pa := 16384, writable := true, frozen := false, dirty := true } : StashSector))
      ∧ sp1.homesAwake (0, 0) pgs = true
      ∧ sp1.dirtyGood
      ∧ (∀ w ∈ sp1.writes, w.stash = some (0, 0) → w.home = false → overlap w.pa w.size 16384 128 = false) :=
  by decide +kernel

def evict_f := ({ pg with id := 6, index := 1, pinned := false })
theorem witness_evict :
    sp0.findPage evict_f.id = some ((0, 0), evict_f)
      ∧ sp0.awake 0 = true
      ∧ evict_f.physical = true
      ∧ evict_f.pinned = false
      ∧ (sp0.core 0 0).covers evict_f = false
      ∧ sp0.homesAwake (0, 0) evict_f = true
      ∧ (∀ w ∈ sp0.stashWrites (0, 0) evict_f, w.home = true)
      ∧ sp0.dirtyBad evict_f = none :=
  by decide +kernel

theorem witness_refill :
    sp0.findPage pg.id = some ((0, 0), pg)
      ∧ sp0.awake 0 = true
      ∧ pg.physical = true :=
  by decide +kernel

/-! Witnesses of FreezesAndThaws. -/

/-- Granules 1 and 2 share their count bytes with no other granule. -/
theorem counts_apart (s : State) (k : ∀ d < 16, s.dcrBits d offFRZMAPBASE 56 20 = 2 ^ 20 * d + 1) :
    ∀ g ∈ [1, 2], ∀ h, isDevicePa (h * 65536) = true → s.frzByte (h * 65536) = s.frzByte (g * 65536) → h = g := by
  intro g m h v e
  have f : s.frzByte (g * 65536) = 2 ^ 20 + g := by
    have := k 0 (by decide)
    simp at m
    rcases m with rfl | rfl <;> simp [State.frzByte, homeDie, bits, granuleBytes, Nat.shiftRight_eq_div_pow, this]
  rw [f] at e
  simp only [isDevicePa, decide_eq_true_eq] at v
  have d := k (homeDie (h * 65536)) (by simp only [homeDie, bits]; omega)
  simp only [State.frzByte, d] at e
  simp only [homeDie, bits, granuleBytes, Nat.shiftRight_eq_div_pow] at e
  simp at m
  omega

theorem witness_freeze :
    (Instr.freeze ffz, Op.freeze, false) ∈ [(Instr.freeze ffz, Op.freeze, false), (Instr.thaw ffz, Op.thaw, true)]
      ∧ CanIssue mfz i1 (cohortOf mfz user) ffz.guard (Form.use Op.freeze ffz)
      ∧ mfz.memOk
      ∧ (∀ g ∈ [1, 2], ∀ h, isDevicePa (h * 65536) = true → mfz.frzByte (h * 65536) = mfz.frzByte (g * 65536) → h = g)
      ∧ (∀ d, (mfz.die d).frzTable.length + [1, 2].length ≤ 4096)
      ∧ (cohortOf mfz user).stall = none
      ∧ mfz.executing i1 ffz.guard = [0]
      ∧ mfz.dirtyGood
      ∧ 0 < BitVec.toNat ((mfz.laneAt i1 0).regPair (Form.bField Op.freeze ffz))
      ∧ BitVec.toNat ((mfz.laneAt i1 0).regPair (Form.bField Op.freeze ffz)) % 65536 = 0
      ∧ BitVec.toNat ((mfz.laneAt i1 0).regPair (Form.bField Op.freeze ffz)) ≤ 2 ^ 40
      ∧ BitVec.toNat ((mfz.laneAt i1 0).regPair ffz.a.toNat) % 65536 = 0
      ∧ BitVec.toNat ((mfz.laneAt i1 0).regPair ffz.c.toNat) % 8 = 0
      ∧ mfz.granulesOf i1.key (cohortOf mfz user) (BitVec.toNat ((mfz.laneAt i1 0).regPair ffz.a.toNat))
        (BitVec.toNat ((mfz.laneAt i1 0).regPair (Form.bField Op.freeze ffz))) = (Except.ok [1, 2], mfz)
      ∧ mfz.wordOk (i1.lane 0) ((mfz.laneAt i1 0).regPair ffz.c.toNat) = (Reached.at xw, mfz)
      ∧ (mfz.fenceReady (i1.lane 0) ffz.rs.toNat [Path.lsu, Path.frz] = true)
      ∧ (mfz.laneAt i1 0).fenceFx = []
      ∧ (mfz.laneAt i1 0).tickets.length < 32
      ∧ [1, 2].Nodup
      ∧ (∀ g ∈ [1, 2], isDevicePa (g * 65536) = true ∧ mfz.granuleAwake g = true)
      ∧ (∀ g ∈ [1, 2], mfz.frzCount (g * 65536) < 255 ∧ mfz.collecting (g * 65536) = false ∧ ∀ a ∈ mfz.atomics, a.pa / 65536 = g → a.taken = false) :=
  ⟨by decide, canIssue (by decide +kernel), by show Memory.wf _ = true; decide +kernel, counts_apart mfz (by decide +kernel), die_all (P := fun x => x.frzTable.length + 2 ≤ 4096) (by decide) (by decide +kernel), by decide +kernel⟩

theorem witness_thaw :
    (Instr.thaw ffz, Op.thaw, true) ∈ [(Instr.freeze ffz, Op.freeze, false), (Instr.thaw ffz, Op.thaw, true)]
      ∧ CanIssue mth i1 (cohortOf mth user) ffz.guard (Form.use Op.thaw ffz)
      ∧ mth.memOk
      ∧ (∀ g ∈ [1, 2], ∀ h, isDevicePa (h * 65536) = true → mth.frzByte (h * 65536) = mth.frzByte (g * 65536) → h = g)
      ∧ (cohortOf mth user).stall = none
      ∧ mth.executing i1 ffz.guard = [0]
      ∧ mth.dirtyGood
      ∧ 0 < BitVec.toNat ((mth.laneAt i1 0).regPair (Form.bField Op.thaw ffz))
      ∧ BitVec.toNat ((mth.laneAt i1 0).regPair (Form.bField Op.thaw ffz)) % 65536 = 0
      ∧ BitVec.toNat ((mth.laneAt i1 0).regPair (Form.bField Op.thaw ffz)) ≤ 2 ^ 40
      ∧ BitVec.toNat ((mth.laneAt i1 0).regPair ffz.a.toNat) % 65536 = 0
      ∧ BitVec.toNat ((mth.laneAt i1 0).regPair ffz.c.toNat) % 8 = 0
      ∧ mth.granulesOf i1.key (cohortOf mth user) (BitVec.toNat ((mth.laneAt i1 0).regPair ffz.a.toNat))
        (BitVec.toNat ((mth.laneAt i1 0).regPair (Form.bField Op.thaw ffz))) = (Except.ok [1, 2], mth)
      ∧ mth.wordOk (i1.lane 0) ((mth.laneAt i1 0).regPair ffz.c.toNat) = (Reached.at xw, mth)
      ∧ (mth.fenceReady (i1.lane 0) ffz.rs.toNat [Path.lsu] = true)
      ∧ (mth.laneAt i1 0).fenceFx = []
      ∧ (mth.laneAt i1 0).tickets.length < 32
      ∧ [1, 2].Nodup
      ∧ (∀ g ∈ [1, 2], isDevicePa (g * 65536) = true ∧ mth.granuleAwake g = true)
      ∧ (∀ g ∈ [1, 2], 0 < mth.frzCount (g * 65536)) :=
  ⟨by decide, canIssue (by decide +kernel), by show Memory.wf _ = true; decide +kernel, counts_apart mth (by decide +kernel), by decide +kernel⟩

def frzdone_f := ({ mj with jobs := [jfz] })
theorem witness_frzdone :
    (List.filter (fun (y : Job) => decide (y.id = jfz.id)) frzdone_f.jobs = [jfz])
      ∧ jfz.frz = true
      ∧ jfz.waiting = false
      ∧ jfz.complete = false
      ∧ frzdone_f.awake jfz.key.coh.die = true
      ∧ jfz.thaw = false
      ∧ (∀ w ∈ frzdone_f.writes, jfz.before.contains w.id = true → w.performedAt jfz.scope jfz.key.coh = true) :=
  by decide +kernel

def thawdone_f := ({ mj with jobs := [{ jfz with thaw := true }], dies := [(0, { dieOf with frzTable := [⟨0, 2, 0, 6⟩] })] })
def thawdone_f2 := ({ jfz with thaw := true })
theorem witness_thawdone :
    (List.filter (fun (y : Job) => decide (y.id = thawdone_f2.id)) thawdone_f.jobs = [thawdone_f2])
      ∧ thawdone_f2.frz = true
      ∧ thawdone_f2.waiting = false
      ∧ thawdone_f2.complete = false
      ∧ thawdone_f.awake thawdone_f2.key.coh.die = true
      ∧ thawdone_f2.thaw = true
      ∧ thawdone_f2.granules.all thawdone_f.granuleAwake = true
      ∧ thawdone_f.dirtyGood
      ∧ thawdone_f.noOutside :=
  ⟨by decide, by decide, by decide, by decide, by decide +kernel, by decide, by decide +kernel, by decide +kernel, no_outside (by decide +kernel)⟩

/-! Witnesses of BranchTargets. -/

def bra_f : Form := { top := 0x20, a := 0x70, d := 0x7F }
theorem witness_bra :
    CanIssue s1 i1 c1 bra_f.guard (Form.use Op.bra bra_f) :=
  canIssue (by decide +kernel)

def bral_f : Form := { top := 0x20, ext := true, w2 := 0xFFFFFFF0, gv := true, gp := 1 }
theorem witness_bral :
    CanIssue s1 i1 c1 bral_f.guard (Form.use Op.braLong bral_f) :=
  canIssue (by decide +kernel)

def brp_f : Form := { top := 0x30, a := 0x0C, d := 3 }
theorem witness_brp :
    CanIssue s1 i1 c1 brp_f.guard (Form.use Op.brp brp_f) :=
  canIssue (by decide +kernel)

def brpl_f : Form := { top := 0x30, a := 0x08, ext := true, w2 := 7 }
theorem witness_brpl :
    CanIssue s1 i1 c1 brpl_f.guard (Form.use Op.brpLong brpl_f) :=
  canIssue (by decide +kernel)

def jmpr_f : Form := { a := 2, b := 6, ext := true }
theorem witness_jmpr :
    CanIssue m0 i1 mc jmpr_f.guard (Form.use Op.jmpr jmpr_f)
      ∧ (∀ n ∈ m0.executing i1 jmpr_f.guard,
        have target := (m0.laneAt i1 n).regPair jmpr_f.a.toNat;
        BitVec.toNat target % 4 = 0 ∧ if mc.priv = true then BitVec.toNat target < 2 ^ 56 else canonical target = true) :=
  ⟨canIssue (by decide +kernel), by decide +kernel⟩

/-! Witnesses of CallsAndReturns. -/

theorem witness_call :
    CanIssue h0 i1 (cohortOf h0 user) fcall.guard (Form.use Op.call fcall)
      ∧ h0.executing i1 fcall.guard = [0]
      ∧ h0.heapReady (i1.lane 0) = true
      ∧ (h0.lane? (i1.lane 0)).isSome = true
      ∧ callFrame (h0.heapCtx (i1.lane 0)) (h0.laneAt i1 0) (16 * bits fcall.hi.toNat 12 5)
        (i1.nextPc (cohortOf h0 user).priv) i1.prio h0 =
        Except.ok (got 0 (callFrame hx l0 64 4108 128) h0, ran (callFrame hx l0 64 4108 128) h0) :=
  ⟨canIssue (by decide +kernel), by decide +kernel⟩

def callr_f : Form := { a := 2, c := 4, b := 9, ext := true }
theorem witness_callr :
    CanIssue h0 i1 (cohortOf h0 user) callr_f.guard (Form.use Op.callr callr_f)
      ∧ h0.executing i1 callr_f.guard = [0]
      ∧ h0.heapReady (i1.lane 0) = true
      ∧ (h0.lane? (i1.lane 0)).isSome = true
      ∧ callFrame (h0.heapCtx (i1.lane 0)) (h0.laneAt i1 0) (16 * callr_f.c.toNat) (i1.nextPc (cohortOf h0 user).priv)
        i1.prio h0 =
        Except.ok (got 0 (callFrame hx l0 64 4108 128) h0, ran (callFrame hx l0 64 4108 128) h0)
      ∧ BitVec.toNat ((h0.laneAt i1 0).regPair callr_f.a.toNat) % 4 = 0
      ∧ (if (cohortOf h0 user).priv = true then BitVec.toNat ((h0.laneAt i1 0).regPair callr_f.a.toNat) < 2 ^ 56
else canonical ((h0.laneAt i1 0).regPair callr_f.a.toNat) = true) :=
  ⟨canIssue (by decide +kernel), by decide +kernel⟩

def ret_f : Frame := { csp := l1.sp, kind := 0, rpc := 0x6000, rprio := 0x40 }
theorem witness_ret :
    CanIssue h2 i1 (cohortOf h2 user) ({} : Form).guard (Form.use Op.ret ({} : Form))
      ∧ (∀ k ∈ (cohortOf h2 user).lanes, ∀ (k2 : W64), k.2.status ≠ LaneStatus.parked 6 k2)
      ∧ h2.executing i1 ({} : Form).guard = [0]
      ∧ h2.heapReady (i1.lane 0) = true
      ∧ (h2.lane? (i1.lane 0)).isSome = true
      ∧ retKind (h2.heapCtx (i1.lane 0)) (h2.laneAt i1 0).sp h2 = Except.ok ((RetKind.plain, ret_f), h2)
      ∧ unlink (h2.heapCtx (i1.lane 0)) (h2.laneAt i1 0).sp (h2.laneAt i1 0).chain (walkFuel h2) h2 =
        Except.ok (l2.chain, h2)
      ∧ popFrame (h2.heapCtx (i1.lane 0)) (h2.laneAt i1 0).sp h2 = Except.ok ((), ran (popFrame hx l2.sp) h2) :=
  ⟨canIssue (by decide +kernel), by exact lanes_not_parked (by decide +kernel) 6, by decide +kernel⟩

theorem witness_frame :
    (sup ({} : Lane)).memOk
      ∧ hxs.priv = true
      ∧ ({ csp := 16, kind := 2, rpc := 4096, rprio := 64 } : Frame).csp < 2 ^ 57
      ∧ ({ csp := 16, kind := 2, rpc := 4096, rprio := 64 } : Frame).kind < 4
      ∧ ({ csp := 16, kind := 2, rpc := 4096, rprio := 64 } : Frame).rpc % 4 = 0
      ∧ ({ csp := 16, kind := 2, rpc := 4096, rprio := 64 } : Frame).rpc < 2 ^ 57
      ∧ (sup ({} : Lane)).badAt 589856 16 = false
      ∧ writeFrame hxs 589856
        ({ csp := 16, kind := 2, rpc := 4096, rprio := 64 } : Frame) (sup ({} : Lane)) =
        Except.ok
        ((),
        ran
        (writeFrame hxs 589856
        ({ csp := 16, kind := 2, rpc := 4096, rprio := 64 } : Frame))
        (sup ({} : Lane))) :=
  ⟨by show Memory.wf _ = true; decide +kernel, by decide +kernel⟩

/-! Witnesses of HandlerInstructions. -/

def install_f : Form := { top := 0x20, a := 0x3F, d := 0x60, ext := true, w2 := 4 }
theorem witness_install :
    CanIssue h0 i1 (cohortOf h0 user) install_f.guard (Form.use Op.install install_f)
      ∧ h0.executing i1 install_f.guard = [0]
      ∧ h0.heapReady (i1.lane 0) = true
      ∧ (h0.lane? (i1.lane 0)).isSome = true
      ∧ installFrame (h0.heapCtx (i1.lane 0)) (h0.laneAt i1 0)
        (((i1.pc : Int) + 4 * sextNat (BitVec.toNat install_f.w2) 32) % 2 ^ 57).toNat
        (BitVec.ofNat 8 (bits install_f.hi.toNat 20 13)) (BitVec.ofNat 8 (bits install_f.hi.toNat 12 5)) h0 =
        Except.ok (got 0 (installFrame hx l0 4112 64 255) h0, ran (installFrame hx l0 4112 64 255) h0) :=
  ⟨canIssue (by decide +kernel), by decide +kernel⟩

theorem witness_uninst :
    CanIssue h1 i1 (cohortOf h1 user) ({} : Form).guard (Form.use Op.uninst ({} : Form))
      ∧ h1.executing i1 ({} : Form).guard = [0]
      ∧ h1.heapReady (i1.lane 0) = true
      ∧ (h1.lane? (i1.lane 0)).isSome = true
      ∧ uninstFrame (h1.heapCtx (i1.lane 0)) (h1.laneAt i1 0) h1 = Except.ok (some 0, ran (popFrame hx l1.chain) h1) :=
  ⟨canIssue (by decide +kernel), by decide +kernel⟩

def contq_f : Form := { a := 2, d := 1 }
theorem witness_contq :
    CanIssue h1 i1 (cohortOf h1 user) contq_f.guard (Form.use Op.contq contq_f)
      ∧ h1.executing i1 contq_f.guard = [0]
      ∧ h1.heapReady (i1.lane 0) = true
      ∧ (h1.lane? (i1.lane 0)).isSome = true
      ∧ HeapCtx.within { h1.heapCtx (i1.lane 0) with priv := false } h1
        (handleSeg ((h1.laneAt i1 0).regPair contq_f.a.toNat)) =
        false :=
  ⟨canIssue (by decide +kernel), by decide +kernel⟩

/-- A supervisor fibre with its start frame, in a segment of the physical heap; then with a handler. -/
def v0 : State :=
  let s := sup { v := [(2, 0x4000), (3, 0)] }
  let s1 := ran (startStack hxs 0) s
  { s1.modLane ⟨super, 0⟩ (fun l => { l with sp := (got (0, 0) (startStack hxs 0) s).1 }) with issue := s.issue }
def vi : Issue := iss super 1
def vl (s : State) : Lane := s.laneAt vi 0
def vseg : Nat := segOf (vl v0).sp
def vhdr (s : State) : SegHdr := got {} (readHdr hxs vseg) s
def v1 : State :=
  { (ran (installFrame hxs (vl v0) 0x5000 0x40 0xFF) v0).modLane ⟨super, 0⟩ (fun l => { l with chain := got 0 (installFrame hxs (vl v0) 0x5000 0x40 0xFF) v0 }) with
    issue := v0.issue }

/-- What HandlerInstructions asks of a supervisor's segment. -/
def segMeets (s : State) : Prop :=
  (s.heapCtx (vi.lane 0)).priv = true ∧ vseg % 512 = 0 ∧ vseg + 512 ≤ s.memTop (s.heapCtx (vi.lane 0)).die
    ∧ (isDevicePa vseg = true → s.awake (homeDie vseg) = true)
    ∧ s.badAt vseg 512 = false ∧ s.collecting vseg = false ∧ s.frzCount vseg = 0 ∧ (s.frzByte vseg < vseg ∨ vseg + 512 ≤ s.frzByte vseg)
    ∧ readHdr (s.heapCtx (vi.lane 0)) vseg s = .ok (vhdr s, s) ∧ (vhdr s).split = false ∧ (vl s).sp < 2 ^ 57 ∧ (vl s).chain % 16 = 0
    ∧ (vl s).chain < 2 ^ 57 ∧ s.heapReady (vi.lane 0) = true ∧ (s.lane? (vi.lane 0)).isSome = true

theorem witness_install_sup :
    CanIssue v0 vi (cohortOf v0 super) install_f.guard (Form.use Op.install install_f)
      ∧ v0.memOk
      ∧ v0.executing vi install_f.guard = [0]
      ∧ segMeets v0
      ∧ segOf (vl v0).sp = vseg ∧ (vhdr v0).top % 16 = 0 ∧ (vhdr v0).top + 32 ≤ 512 ∧ vi.pc % 4 = 0 :=
  ⟨canIssue (by decide +kernel), by show Memory.wf _ = true; decide +kernel, by decide +kernel, by unfold segMeets; decide +kernel, by decide +kernel⟩

theorem witness_uninst_sup :
    CanIssue v1 vi (cohortOf v1 super) ({} : Form).guard (Form.use Op.uninst ({} : Form))
      ∧ v1.memOk
      ∧ v1.executing vi ({} : Form).guard = [0]
      ∧ segMeets v1
      ∧ (vl v1).chain ≠ 0 ∧ segOf (vl v1).chain = vseg ∧ (vl v1).chain % 512 ≠ 32 ∧ 32 ≤ (vl v1).chain % 512
      ∧ (vhdr v1).top = (vl v1).chain % 512 + 32
      ∧ readFrame (v1.heapCtx (vi.lane 0)) (vl v1).chain v1 = .ok (⟨(vl v1).sp, 1, 0, 0⟩, v1)
      ∧ readHandler (v1.heapCtx (vi.lane 0)) (vl v1).chain v1 = .ok (⟨0, 0xFF, 0x5000, 0x40⟩, v1) :=
  ⟨canIssue (by decide +kernel), by show Memory.wf _ = true; decide +kernel, by decide +kernel, by unfold segMeets; decide +kernel, by decide +kernel⟩

/-- Captured by the handler, which stands in the fibre's place and holds the handle. -/
def cap : Option (Lane × W64) := got none (captureFibre hx { l2 with prio := 0x80, pc := 0x1000 } eff0 0x100C) h2
def capL : Lane := (cap.getD ({}, 0)).1
def capK : W64 := (cap.getD ({}, 0)).2
def h3 : State := withLane (ran (captureFibre hx { l2 with prio := 0x80, pc := 0x1000 } eff0 0x100C) h2) fun _ =>
  { capL with prio := 0x80, pc := 0, v := [(2, capK.setWidth 32), (3, (capK >>> 32).setWidth 32), (4, 9), (5, 0)] }
def l3 : Lane := (h3.lane? ⟨user, 0⟩).getD {}
def cont0 : ContView := match got (.error 0) (openCont hx capK) h3 with
  | .ok v => v
  | .error _ => { desc := ContRec.decode 0, segs := [], body := [], bad := none }
def fres : Form := { a := 2, b := 4, ext := true }
def le : Lane := { v := [(2, 0x100000), (3, 0)] }

/-! Witnesses of HandlerInstructions. -/

def contq2_f : Form := { a := 2, d := 1 }
theorem witness_contq2 :
    CanIssue h3 i1 (cohortOf h3 user) contq2_f.guard (Form.use Op.contq contq2_f)
      ∧ h3.executing i1 contq2_f.guard = [0]
      ∧ h3.heapReady (i1.lane 0) = true
      ∧ (h3.lane? (i1.lane 0)).isSome = true
      ∧ HeapCtx.within { h3.heapCtx (i1.lane 0) with priv := false } h3
        (handleSeg ((h3.laneAt i1 0).regPair contq2_f.a.toNat)) =
        true
      ∧ (h3.readNow (i1.lane 0) 1 (va57 (handleSeg ((h3.laneAt i1 0).regPair contq2_f.a.toNat))) 96 =
        (NowRead.bytes
        (match h3.readNow ({ coh := user, lane := 0 } : LaneKey) 1 (va57 (handleSeg capK)) 96 with
        | (NowRead.bytes bs _, _) => bs
        | _ => [])
        [],
        h3)) :=
  ⟨canIssue (by decide +kernel), by decide +kernel⟩

def drop_f : Form := { a := 2 }
theorem witness_drop :
    CanIssue h3 i1 (cohortOf h3 user) drop_f.guard (Form.use Op.drop drop_f)
      ∧ h3.executing i1 drop_f.guard = [0]
      ∧ h3.heapReady (i1.lane 0) = true
      ∧ (h3.lane? (i1.lane 0)).isSome = true
      ∧ openCont (h3.heapCtx (i1.lane 0)) ((h3.laneAt i1 0).regPair drop_f.a.toNat) h3 = Except.ok (Except.ok cont0, h3)
      ∧ cont0.bad = none
      ∧ dropHeap (h3.heapCtx (i1.lane 0)) ((h3.laneAt i1 0).regPair drop_f.a.toNat) cont0 h3 =
        Except.ok ((), ran (dropHeap hx capK cont0) h3) :=
  ⟨canIssue (by decide +kernel), by decide +kernel⟩

/-! Witnesses of CapturesAndResumes. -/

theorem witness_resume :
    CanIssue h3 i1 (cohortOf h3 user) fres.guard (Form.use Op.resume fres)
      ∧ (∀ y ∈ (cohortOf h3 user).lanes, ∀ (k2 : W64), y.2.status ≠ LaneStatus.parked 7 k2)
      ∧ h3.executing i1 fres.guard = [0]
      ∧ h3.heapReady (i1.lane 0) = true
      ∧ (h3.lane? (i1.lane 0)).isSome = true
      ∧ openCont (h3.heapCtx (i1.lane 0)) ((h3.laneAt i1 0).regPair fres.a.toNat) h3 = Except.ok (Except.ok cont0, h3)
      ∧ cont0.bad = none
      ∧ (∀ m ∈ cont0.regs, m < (cohortOf h3 user).peak)
      ∧ badCont (h3.heapCtx (i1.lane 0)) cont0 h3 = Except.ok (none, h3)
      ∧ resumeHeap (h3.heapCtx (i1.lane 0)) ((h3.laneAt i1 0).regPair fres.a.toNat) cont0 (h3.laneAt i1 0) i1.prio
        (i1.nextPc (cohortOf h3 user).priv) h3 =
        Except.ok (got 0 (resumeHeap hx capK cont0 l3 128 4108) h3, ran (resumeHeap hx capK cont0 l3 128 4108) h3)
      ∧ h3.growOk i1.key cont0.regs = true
      ∧ (∀ y ∈ cont0.tickets, y.kind ≠ 4) :=
  ⟨canIssue (by decide +kernel), by exact lanes_not_parked (by decide +kernel) 7, by decide +kernel⟩

def perform_f : Lane := { l2.complete [] with prio := 0x80, pc := 0x1000, arrival := none, want := [], lastReads := [], keeps := [] }
def perform_f2 : Form := { a := 0x20, b := 2, ext := true }
theorem witness_perform :
    CanIssue h2 i1 (cohortOf h2 user) perform_f2.guard (Form.use Op.perform perform_f2)
      ∧ h2.executing i1 perform_f2.guard = [0]
      ∧ i1.lanes = [0]
      ∧ (cohortOf h2 user).priv = false
      ∧ (cohortOf h2 user).halted = false
      ∧ h2.heapReady (i1.lane 0) = true
      ∧ h2.lane? (i1.lane 0) = some (h2.laneAt i1 0)
      ∧ BitVec.ofNat 8 (bits perform_f2.hi.toNat 13 6) ≠ 15
      ∧ BitVec.ofNat 8 (bits perform_f2.hi.toNat 13 6) ≠ 3
      ∧ (h2.laneAt i1 0).tickets = []
      ∧ (h2.laneAt i1 0).arrival = none
      ∧ (∀ r ∈ (h2.core (i1.lane 0).coh.die (i1.lane 0).coh.core).sfu, r.key ≠ i1.lane 0)
      ∧ (∀ q ∈ h2.qwaits, q.key ≠ i1.lane 0)
      ∧ (∀ q ∈ h2.qreqs, q.key ≠ i1.lane 0)
      ∧ (h2.laneAt i1 0).status = LaneStatus.ready
      ∧ (∀ y ∈ (h2.laneAt i1 0).late, y.cls ≠ .own)
      ∧ (∀ op ∈ h2.matOps, op.key = (i1.lane 0).coh → op.octet ≠ (i1.lane 0).lane / 8 ∧ op.owner ≠ (i1.lane 0).lane)
      ∧ captureFibre (h2.heapCtx (i1.lane 0))
        { (h2.laneAt i1 0).complete [] with prio := i1.prio, pc := i1.pc, arrival := none, want := [], lastReads := [], keeps := [] }
        ({ tag := BitVec.ofNat 8 (bits perform_f2.hi.toNat 13 6), k2 := BitVec.ofNat 64 (bRaw Op.perform perform_f2 (h2.laneAt i1 0) true), k3 := 0, cpc := some (i1.nextPc false), xpc := i1.pc } : Effect)
        (i1.nextPc false) h2 =
        Except.ok
        (some (capL, capK), ran (captureFibre (h2.heapCtx ({ coh := user, lane := 0 } : LaneKey)) perform_f eff0 4108) h2) :=
  ⟨canIssue (by decide +kernel), by decide +kernel⟩

/-! Witnesses of FibresStartAndEnd. -/

def spawn_f : Form := { d := 1, a := 2, ext := true, w2 := 16 }
theorem witness_spawn :
    CanIssue h0 i1 (cohortOf h0 user) spawn_f.guard (Form.use Op.spawn spawn_f)
      ∧ h0.executing i1 spawn_f.guard = [0]
      ∧ h0.fenceReady (i1.lane 0) 0 [Path.lsu] = true
      ∧ (h0.laneAt i1 0).fenceFx = []
      ∧ (h0.lane? (i1.lane 0)).isSome = true
      ∧ spawn_f.d.toNat < 8
      ∧ (cohortOf h0 user).emptySlot = some 1
      ∧ BitVec.getLsbD i1.mask 1 = false
      ∧ h0.pair? ({ coh := i1.key, lane := 1 } : LaneKey) = none
      ∧ startStack { h0.heapCtx (i1.lane 0) with fibre := h0.fibres } (h0.rootOf i1.key) h0 =
        Except.ok (got (0, 0) (startStack { hx with fibre := h0.fibres } 0) h0, ran (startStack { hx with fibre := h0.fibres } 0) h0) :=
  ⟨canIssue (by decide +kernel), by decide +kernel⟩

theorem witness_exit :
    CanIssue h0 i1 (cohortOf h0 user) ({} : Form).guard (Form.use Op.exit ({} : Form))
      ∧ h0.executing i1 ({} : Form).guard = [0]
      ∧ i1.lanes = [0]
      ∧ (h0.lane? (i1.lane 0)).isSome = true
      ∧ h0.drainRegs (i1.lane 0) = (true, h0)
      ∧ h0.heapReady (i1.lane 0) = true
      ∧ (List.Pairwise (fun (x1 x2 : Nat) => x1 < x2) (List.map (fun (p : Nat × Lane) => p.1) (cohortOf h0 user).lanes))
      ∧ releaseFrames (h0.heapCtx (i1.lane 0)) (((h0.heapCtx (i1.lane 0))).sharesOf h0 (.fibre (h0.heapCtx (i1.lane 0)).fibre)) h0 =
        Except.ok ((), ran (releaseFrames hx (hx.sharesOf h0 (.fibre 0))) h0)
      ∧ (cohortOf h0 user).lanes.length = 1 :=
  ⟨canIssue (by decide +kernel), by decide +kernel⟩

def h02 : State := { h0 with cohorts := [(user, { coh [(0, l0), (3, {})] with frontier := [⟨0x80, 0x1000, 1, 0⟩, ⟨0x80, 0x2000, 8, 0⟩] })] }

theorem witness_exit2 :
    CanIssue h02 i1 (cohortOf h02 user) ({} : Form).guard (Form.use Op.exit ({} : Form))
      ∧ (∃ (m : Nat), m ≠ 0 ∧ ((cohortOf h02 user).lane? m).isSome = true)
      ∧ (∀ p ∈ (cohortOf h02 user).lanes, ∀ (k2 : W64), p.2.status ≠ LaneStatus.parked 6 k2)
      ∧ h02.executing i1 ({} : Form).guard = [0]
      ∧ i1.lanes = [0]
      ∧ (h02.lane? (i1.lane 0)).isSome = true
      ∧ h02.drainRegs (i1.lane 0) = (true, h02)
      ∧ h02.heapReady (i1.lane 0) = true
      ∧ (List.Pairwise (fun (x1 x2 : Nat) => x1 < x2) (List.map (fun (p : Nat × Lane) => p.1) (cohortOf h02 user).lanes))
      ∧ releaseFrames (h02.heapCtx (i1.lane 0)) (((h02.heapCtx (i1.lane 0))).sharesOf h02 (.fibre (h02.heapCtx (i1.lane 0)).fibre)) h02 =
        Except.ok ((), ran (releaseFrames hx (hx.sharesOf h02 (.fibre 0))) h02) :=
  ⟨canIssue (by decide +kernel), by exact ⟨3, by decide, by decide +kernel⟩, by exact lanes_not_parked (by decide +kernel) 6, by decide +kernel⟩

def postBlock : List (Nat × W32) := (List.range 12).map fun j => (10 + j, if j = 2 then 0x8000 else if j = 0 then 0x4000 else 0)
def mpo : State := one { v := postBlock }
def fpo : Form := { d := 1, b := 10, ext := true }
def mpf : State := { mpo with dies := [(0, { dieOf with posts := [(6, List.replicate 256 0)] })] }
def gg : Gang := { id := 7, pid := 1, grants := [(2, 3)], table := [0x80000009000000C2] }
def lba : Lane := { v := [(2, 0x40000), (3, 0)] }
def mba : State := { one lba with gangs := [gg] }
def fba : Form := { d := 1, c := 3, ext := true, rs := 2, w2 := 2 }
def mba1 : State := { mba with barriers := [⟨1, 7, 2, 0, 3, 5, 1, 2, []⟩] }
def mbw : State := { one { v := [(2, 0xA1800004), (3, 0)] } with gangs := [gg], barriers := [⟨1, 7, 2, 0, 3, 5, 1, 2, []⟩] }
def mla : State := { one { v := [(2, 0x40000), (3, 0), (4, 0xC2000000)] } with gangs := [gg] }
def mlf : State := { mla with dies := [(0, { dieOf with dlq := List.replicate 64 0 })] }
def lq : Lane := { v := [(2, 0x40000), (3, 0)] ++ (List.range 14).map fun j => (10 + j, BitVec.ofNat 32 (j + 1)), wic := 3 }
/-- A queue of two entries at 0x50000, with one entry taken. -/
def queueMem (head tail : Nat) : List Host.Cell :=
  Memory.writeN (Memory.writeN (Memory.writeN [owner] 0x40000 (toBytes (2 ^ 13 * (0x50000 / 64) + 2 ^ 8 * 1 + 2 ^ 5 * 2) 8)) 0x40008 (toBytes tail 8)) 0x40010 (toBytes head 8)
def mq0 : State := { one lq with mem := queueMem 1 2 }
def mqf : State := { one lq with mem := queueMem 1 3 }
def mqe : State := { one lq with mem := queueMem 2 2 }
def mqn : State := { one lq with mem := Memory.writeN (queueMem 1 2) (0x50040) (toBytes (0x1234 + 2 ^ 448 * (1 + 2 ^ 32 * 2)) 64) }
def xq : Xlt := { pa := 0x40000, level := 3, pte := 0xDF }
def xe : Xlt := { pa := 0x50000, level := 3, pte := 0xDF }
def xe1 : Xlt := { pa := 0x50040, level := 3, pte := 0xDF }
def fq : Form := { d := 30, a := 2, b := 10, ext := true }
def fqu : Form := { d := 1, a := 2, b := 10, ext := true }
def fqt : Form := { d := 30, a := 2, c := 3, ext := true }
def qw0 : QWait := { id := 4, key := ⟨user, 0⟩, words := List.replicate 14 7, waits := [], stampWic := 2, prod := ⟨user, 3⟩, scope := 2 }
def mqw : State := { one { lq with pend := [⟨4, 30, 14, []⟩] } with qwaits := [qw0] }
def acc0 : Nat := 4 + 2 ^ 32 * 0x400 + 2 ^ 128 * 8 + 2 ^ 160 * 32 + 2 ^ 192 * 128
def opA : Nat := 3 + 2 ^ 32 * 0x4000 + 2 ^ 128 * 1 + 2 ^ 160 * 512 + 2 ^ 192 * 2048
def opB : Nat := 3 + 2 ^ 32 * 0x10000 + 2 ^ 128 * 1 + 2 ^ 160 * 512 + 2 ^ 192 * 2048
def core0 : Core := { tlb := [tle], pages := (List.range 8).map fun j => { pg with id := 10 + j, index := j }, tensors := [⟨7, 1, opA⟩, ⟨7, 2, opB⟩, ⟨7, 3, acc0⟩] }
def mtd : State := { one lg with mem := Memory.writeN [owner] 0x2000 (toBytes acc0 64), cores := [((0, 0), core0)] }
def fq2 : Form := { d := 8, a := 3, ext := true }
def mmo : State := { world user [(0, { v := [(2, 0x20), (3, 0), (6, 0), (7, 0)] }), (3, { v := [(9, 1)] })] with cores := [((0, 0), core0)] }
def imo : Issue := iss user 9
def fmf : Form := { d := 3, a := 1, b := 2, c := 6, ext := true, w2 := 0x20000 }
def fmz : Form := { d := 3, a := 6, ext := true }
def mop : MatOp := { mmo.matOpOf user (cohortOf mmo user) 0x1000 0 .mmf { fmf with w2 := 0x20000 } 0 0 with id := 9, lanes := [(0, 0), (3, 0)] }
def mst : State := { mmo with matOps := [mop] }

/-! Witnesses of PostAppendsTask. -/

def post_f : Loc := { pa := 0x8000, va := 0x8000 }
theorem witness_post :
    (Instr.post fpo, Op.post, false) ∈ [(Instr.post fpo, Op.post, false), (Instr.postCont fpo, Op.postCont, true)]
      ∧ CanIssue mpo i1 (cohortOf mpo user) fpo.guard (Form.use Op.post fpo)
      ∧ mpo.executing i1 fpo.guard = [0]
      ∧ (false = false → BitVec.toNat ((mpo.laneAt i1 0).regPair (Form.bField Op.post fpo)) % 4 = 0)
      ∧ mpo.findGlobal (i1.lane 0) Acc.load ((mpo.laneAt i1 0).regPair (Form.bField Op.post fpo + 2)) =
        (Found.at post_f, mpo)
      ∧ isDevicePa post_f.pa = true
      ∧ mpo.awake (homeDie post_f.pa) = true
      ∧ (∀ n ∈ [0], mpo.fenceReady (i1.lane n) 3 [Path.lsu] = true ∧ (mpo.laneAt i1 n).fenceFx = []) :=
  ⟨by decide, canIssue (by decide +kernel), by decide +kernel⟩

def postf_f : Loc := { pa := 0x8000, va := 0x8000 }
theorem witness_postf :
    (Instr.postCont fpo, Op.postCont, true) ∈
        [(Instr.post fpo, Op.post, false), (Instr.postCont fpo, Op.postCont, true)]
      ∧ CanIssue mpf i1 (cohortOf mpf user) fpo.guard (Form.use Op.postCont fpo)
      ∧ mpf.executing i1 fpo.guard = [0]
      ∧ (true = false → BitVec.toNat ((mpf.laneAt i1 0).regPair (Form.bField Op.postCont fpo)) % 4 = 0)
      ∧ mpf.findGlobal (i1.lane 0) Acc.load ((mpf.laneAt i1 0).regPair (Form.bField Op.postCont fpo + 2)) =
        (Found.at postf_f, mpf)
      ∧ isDevicePa postf_f.pa = true
      ∧ mpf.awake (homeDie postf_f.pa) = true
      ∧ (∀ n ∈ [0], mpf.fenceReady (i1.lane n) 3 [Path.lsu] = true ∧ (mpf.laneAt i1 n).fenceFx = []) :=
  ⟨by decide, canIssue (by decide +kernel), by decide +kernel⟩

/-! Witnesses of BarrierPhases. -/

theorem witness_bara :
    CanIssue mba i1 (cohortOf mba user) fba.guard (Form.use Op.bara fba)
      ∧ mba.executing i1 fba.guard = [0]
      ∧ (mba.lane? (i1.lane 0)).isSome = true
      ∧ mba.granted i1.key fba.rs.toNat fba.c.toNat = true
      ∧ fba.rs.toNat < 4
      ∧ (mba.barrier (mba.pid i1.key.die) (cohortOf mba user).gang fba.rs.toNat (scopeInst fba.rs.toNat i1.key)
        fba.c.toNat).phase <
        2 ^ 23
      ∧ (mba.fenceReady (i1.lane 0) fba.rs.toNat [Path.lsu] = true ∧ (mba.laneAt i1 0).fenceFx = [])
      ∧ ((if
        (mba.barrier (mba.pid i1.key.die) (cohortOf mba user).gang fba.rs.toNat (scopeInst fba.rs.toNat i1.key)
        fba.c.toNat).arrived =
        0 then
        BitVec.toNat fba.w2
        else
        (mba.barrier (mba.pid i1.key.die) (cohortOf mba user).gang fba.rs.toNat (scopeInst fba.rs.toNat i1.key)
        fba.c.toNat).exp) =
        BitVec.toNat fba.w2)
      ∧ (mba.barrier (mba.pid i1.key.die) (cohortOf mba user).gang fba.rs.toNat (scopeInst fba.rs.toNat i1.key)
        fba.c.toNat).arrived +
        1 ≠
        BitVec.toNat fba.w2 :=
  ⟨canIssue (by decide +kernel), by decide +kernel⟩

theorem witness_bar :
    CanIssue mba i1 (cohortOf mba user) fba.guard (Form.use Op.bar fba)
      ∧ mba.executing i1 fba.guard = [0]
      ∧ (mba.lane? (i1.lane 0)).isSome = true
      ∧ mba.granted i1.key fba.rs.toNat fba.c.toNat = true
      ∧ fba.rs.toNat < 4
      ∧ (mba.barrier (mba.pid i1.key.die) (cohortOf mba user).gang fba.rs.toNat (scopeInst fba.rs.toNat i1.key)
        fba.c.toNat).phase <
        2 ^ 23
      ∧ (mba.fenceReady (i1.lane 0) fba.rs.toNat [Path.lsu] = true ∧ (mba.laneAt i1 0).fenceFx = [])
      ∧ heldToken fba (mba.laneAt i1 0) = none
      ∧ ((if
        (mba.barrier (mba.pid i1.key.die) (cohortOf mba user).gang fba.rs.toNat (scopeInst fba.rs.toNat i1.key)
        fba.c.toNat).arrived =
        0 then
        BitVec.toNat fba.w2
        else
        (mba.barrier (mba.pid i1.key.die) (cohortOf mba user).gang fba.rs.toNat (scopeInst fba.rs.toNat i1.key)
        fba.c.toNat).exp) =
        BitVec.toNat fba.w2)
      ∧ (mba.barrier (mba.pid i1.key.die) (cohortOf mba user).gang fba.rs.toNat (scopeInst fba.rs.toNat i1.key)
        fba.c.toNat).arrived +
        1 ≠
        BitVec.toNat fba.w2 :=
  ⟨canIssue (by decide +kernel), by decide +kernel⟩

theorem witness_barlast :
    CanIssue mba1 i1 (cohortOf mba1 user) fba.guard (Form.use Op.bar fba)
      ∧ mba1.executing i1 fba.guard = [0]
      ∧ (mba1.lane? (i1.lane 0)).isSome = true
      ∧ mba1.granted i1.key fba.rs.toNat fba.c.toNat = true
      ∧ fba.rs.toNat < 4
      ∧ (mba1.barrier (mba1.pid i1.key.die) (cohortOf mba1 user).gang fba.rs.toNat (scopeInst fba.rs.toNat i1.key)
        fba.c.toNat).phase <
        2 ^ 23
      ∧ (mba1.fenceReady (i1.lane 0) fba.rs.toNat [Path.lsu] = true ∧ (mba1.laneAt i1 0).fenceFx = [])
      ∧ heldToken fba (mba1.laneAt i1 0) = none
      ∧ ((if
        (mba1.barrier (mba1.pid i1.key.die) (cohortOf mba1 user).gang fba.rs.toNat (scopeInst fba.rs.toNat i1.key)
        fba.c.toNat).arrived =
        0 then
        BitVec.toNat fba.w2
        else
        (mba1.barrier (mba1.pid i1.key.die) (cohortOf mba1 user).gang fba.rs.toNat (scopeInst fba.rs.toNat i1.key)
        fba.c.toNat).exp) =
        BitVec.toNat fba.w2)
      ∧ (mba1.barrier (mba1.pid i1.key.die) (cohortOf mba1 user).gang fba.rs.toNat (scopeInst fba.rs.toNat i1.key)
        fba.c.toNat).arrived +
        1 =
        BitVec.toNat fba.w2 :=
  ⟨canIssue (by decide +kernel), by decide +kernel⟩

def barw_f := ({ fba with a := 2, c := 3 })
theorem witness_barw :
    CanIssue mbw i1 (cohortOf mbw user) barw_f.guard (Form.use Op.barw barw_f)
      ∧ mbw.executing i1 barw_f.guard = [0]
      ∧ (mbw.lane? (i1.lane 0)).isSome = true
      ∧ mbw.granted i1.key barw_f.rs.toNat barw_f.c.toNat = true
      ∧ barw_f.rs.toNat < 4
      ∧ (mbw.barrier (mbw.pid i1.key.die) (cohortOf mbw user).gang barw_f.rs.toNat (scopeInst barw_f.rs.toNat i1.key)
        barw_f.c.toNat).phase <
        2 ^ 23
      ∧ (mbw.laneAt i1 0).reg barw_f.a.toNat = 2709520388
      ∧ BitVec.getLsbD (2709520388 : W32) 31 = true
      ∧ mbw.granted i1.key (bits (2709520388) 30 28) (bits (2709520388) 27 23) = true
      ∧ (mbw.tokenBarrier i1.key (2709520388)).complete (bits (2709520388) 22 0) = true :=
  ⟨canIssue (by decide +kernel), by decide +kernel⟩

def barw0_f := ({ fba with a := 3, c := 3 })
theorem witness_barw0 :
    CanIssue mba i1 (cohortOf mba user) barw0_f.guard (Form.use Op.barw barw0_f)
      ∧ mba.executing i1 barw0_f.guard = [0]
      ∧ (mba.lane? (i1.lane 0)).isSome = true
      ∧ mba.granted i1.key barw0_f.rs.toNat barw0_f.c.toNat = true
      ∧ barw0_f.rs.toNat < 4
      ∧ (mba.barrier (mba.pid i1.key.die) (cohortOf mba user).gang barw0_f.rs.toNat (scopeInst barw0_f.rs.toNat i1.key)
        barw0_f.c.toNat).phase <
        2 ^ 23
      ∧ (mba.laneAt i1 0).reg barw0_f.a.toNat = 0
      ∧ BitVec.getLsbD (0 : W32) 31 = false :=
  ⟨canIssue (by decide +kernel), by decide +kernel⟩

/-! Witnesses of RequestInstructions. -/

def launch_f : Form := { d := 1, a := 2, ext := true }
theorem witness_launch :
    mla.memOk
      ∧ CanIssue mla i1 (cohortOf mla user) launch_f.guard (Form.use Op.launch launch_f)
      ∧ mla.executing i1 launch_f.guard = [0]
      ∧ (∀ m ∈ [0], mla.fenceReady (i1.lane m) 5 [Path.lsu] = true ∧ (mla.laneAt i1 m).fenceFx = [])
      ∧ BitVec.toNat ((mla.laneAt i1 0).regPair launch_f.a.toNat) % 64 = 0 :=
  ⟨by show Memory.wf _ = true; decide +kernel, canIssue (by decide +kernel), by decide +kernel⟩

def launchf_f : Form := { d := 1, a := 2, ext := true }
theorem witness_launchf :
    mlf.memOk
      ∧ CanIssue mlf i1 (cohortOf mlf user) launchf_f.guard (Form.use Op.launch launchf_f)
      ∧ mlf.executing i1 launchf_f.guard = [0]
      ∧ (∀ m ∈ [0], mlf.fenceReady (i1.lane m) 5 [Path.lsu] = true ∧ (mlf.laneAt i1 m).fenceFx = [])
      ∧ BitVec.toNat ((mlf.laneAt i1 0).regPair launchf_f.a.toNat) % 64 = 0 :=
  ⟨by show Memory.wf _ = true; decide +kernel, canIssue (by decide +kernel), by decide +kernel⟩

def rbind_f : Form := { d := 8, a := 4, ext := true }
theorem witness_rbind :
    mla.memOk
      ∧ CanIssue mla i1 (cohortOf mla user) rbind_f.guard (Form.use Op.rbind rbind_f)
      ∧ mla.executing i1 rbind_f.guard = [0] :=
  ⟨by show Memory.wf _ = true; decide +kernel, canIssue (by decide +kernel), by decide +kernel⟩

def scall_f : Form := { d := 1, a := 2, b := 4, ext := true }
theorem witness_scall :
    mla.memOk
      ∧ CanIssue mla i1 (cohortOf mla user) scall_f.guard (Form.use Op.scall scall_f)
      ∧ mla.executing i1 scall_f.guard = [0]
      ∧ ([] : List Nat) = []
      ∧ i1.key.die < 16
      ∧ i1.key.core < 64
      ∧ i1.key.slot < 16
      ∧ i1.pc < 2 ^ 57
      ∧ (∀ m ∈ [0], mla.fenceReady (i1.lane m) 2 [Path.lsu] = true ∧ (mla.laneAt i1 m).fenceFx = [])
      ∧ BitVec.toNat ((mla.laneAt i1 0).regPair scall_f.a.toNat) % 64 = 0
      ∧ mla.homeAwake (16384 * mla.dcrBits 0 offSRQBASE 56 14 + 64 * (mla.dcrBits 0 offSRQTAIL 31 0 % 256)) i1.key none false = true
      ∧ mla.frzCount (16384 * mla.dcrBits 0 offSRQBASE 56 14 + 64 * (mla.dcrBits 0 offSRQTAIL 31 0 % 256)) = 0
      ∧ (mla.dcrBits 0 offSRQTAIL 31 0 + 2 ^ 32 - mla.dcrBits 0 offSRQHEAD 31 0) % 2 ^ 32 < 256 :=
  ⟨by show Memory.wf _ = true; decide +kernel, canIssue (by decide +kernel), by decide +kernel⟩

/-! Witnesses of QueueOperations. -/

theorem witness_qpushf :
    mqf.memOk
      ∧ CanIssue mqf i1 (cohortOf mqf user) fqu.guard (Form.use Op.qpush fqu)
      ∧ mqf.executing i1 fqu.guard = [0]
      ∧ BitVec.toNat ((mqf.laneAt i1 0).regPair fqu.a.toNat) % 64 = 0
      ∧ mqf.reachFor (i1.lane 0) ((mqf.laneAt i1 0).regPair fqu.a.toNat) = (Reached.at xq, mqf)
      ∧ mqf.badAt xq.pa 64 = false
      ∧ queueOk (mqf.homeNat xq.pa 64) = true
      ∧ mqf.queueStall i1 ((mqf.laneAt i1 0).regPair fqu.a.toNat) (fun y => y.slot y.tail) 0 = false
      ∧ mqf.dirtyGood
      ∧ (mqf.queueAt xq.pa).full = true :=
  ⟨by show Memory.wf _ = true; decide +kernel, canIssue (by decide +kernel), by decide +kernel⟩

theorem witness_qpush :
    mq0.memOk
      ∧ CanIssue mq0 i1 (cohortOf mq0 user) fqu.guard (Form.use Op.qpush fqu)
      ∧ mq0.executing i1 fqu.guard = [0]
      ∧ BitVec.toNat ((mq0.laneAt i1 0).regPair fqu.a.toNat) % 64 = 0
      ∧ mq0.reachFor (i1.lane 0) ((mq0.laneAt i1 0).regPair fqu.a.toNat) = (Reached.at xq, mq0)
      ∧ mq0.badAt xq.pa 64 = false
      ∧ queueOk (mq0.homeNat xq.pa 64) = true
      ∧ mq0.queueStall i1 ((mq0.laneAt i1 0).regPair fqu.a.toNat) (fun y => y.slot y.tail) 0 = false
      ∧ mq0.dirtyGood
      ∧ (mq0.queueAt xq.pa).full = false
      ∧ mq0.queueStuck xq.pa = false
      ∧ mq0.reachFor (i1.lane 0) (va57 ((mq0.queueAt xq.pa).slot (mq0.queueAt xq.pa).tail)) = (Reached.at xe, mq0)
      ∧ bit (mq0.homeNat (xe.pa + 56) 8) 0 = false
      ∧ mq0.queueStuck xe.pa = false
      ∧ (∀ r ∈ mq0.qreqs, r.desc ≠ xq.pa)
      ∧ (xe.pa + 64 ≤ xq.pa ∨ xq.pa + 64 ≤ xe.pa) :=
  ⟨by show Memory.wf _ = true; decide +kernel, canIssue (by decide +kernel), by decide +kernel⟩

def qpop_f := ({ fqt with c := 0 })
theorem witness_qpop :
    mqn.memOk
      ∧ CanIssue mqn i1 (cohortOf mqn user) qpop_f.guard (Form.use Op.qpop qpop_f)
      ∧ mqn.executing i1 qpop_f.guard = [0]
      ∧ (mqn.lane? (i1.lane 0)).isSome = true
      ∧ (BitVec.toNat ((mqn.laneAt i1 0).regPair qpop_f.a.toNat) % 64 = 0 ∧
        mqn.reachFor (i1.lane 0) ((mqn.laneAt i1 0).regPair qpop_f.a.toNat) = (Reached.at xq, mqn) ∧
        mqn.badAt xq.pa 64 = false ∧ queueOk (mqn.homeNat xq.pa 64) = true ∧
        mqn.queueStall i1 ((mqn.laneAt i1 0).regPair fqt.a.toNat) (fun y => y.slot y.head) 0 = false ∧ mqn.dirtyGood)
      ∧ ((mqn.queueAt xq.pa).empty = false ∧
        mqn.owedElsewhere (i1.lane 0) xq.pa = false ∧
        mqn.queueStuck xq.pa = false ∧
        mqn.reachFor (i1.lane 0) (va57 ((mqn.queueAt xq.pa).slot (mqn.queueAt xq.pa).head)) =
        (Reached.at xe1, mqn) ∧
        mqn.queueStuck xe1.pa = false ∧ mqn.badAt xe1.pa 64 = false ∧ (xe1.pa + 64 ≤ xq.pa ∨ xq.pa + 64 ≤ xe1.pa)) :=
  ⟨by show Memory.wf _ = true; decide +kernel, canIssue (by decide +kernel), by decide +kernel⟩

theorem witness_qtry :
    mqn.memOk
      ∧ CanIssue mqn i1 (cohortOf mqn user) fqt.guard (Form.use Op.qtry fqt)
      ∧ mqn.executing i1 fqt.guard = [0]
      ∧ (mqn.lane? (i1.lane 0)).isSome = true
      ∧ (BitVec.toNat ((mqn.laneAt i1 0).regPair fqt.a.toNat) % 64 = 0 ∧
        mqn.reachFor (i1.lane 0) ((mqn.laneAt i1 0).regPair fqt.a.toNat) = (Reached.at xq, mqn) ∧
        mqn.badAt xq.pa 64 = false ∧ queueOk (mqn.homeNat xq.pa 64) = true ∧
        mqn.queueStall i1 ((mqn.laneAt i1 0).regPair fqt.a.toNat) (fun y => y.slot y.head) 0 = false ∧ mqn.dirtyGood)
      ∧ ((mqn.queueAt xq.pa).empty = false ∧
        mqn.owedElsewhere (i1.lane 0) xq.pa = false ∧
        mqn.queueStuck xq.pa = false ∧
        mqn.reachFor (i1.lane 0) (va57 ((mqn.queueAt xq.pa).slot (mqn.queueAt xq.pa).head)) =
        (Reached.at xe1, mqn) ∧
        mqn.queueStuck xe1.pa = false ∧ mqn.badAt xe1.pa 64 = false ∧ (xe1.pa + 64 ≤ xq.pa ∨ xq.pa + 64 ≤ xe1.pa)) :=
  ⟨by show Memory.wf _ = true; decide +kernel, canIssue (by decide +kernel), by decide +kernel⟩

def qpope_f := ({ fqt with c := 0 })
theorem witness_qpope :
    mqe.memOk
      ∧ CanIssue mqe i1 (cohortOf mqe user) qpope_f.guard (Form.use Op.qpop qpope_f)
      ∧ mqe.executing i1 qpope_f.guard = [0]
      ∧ (mqe.lane? (i1.lane 0)).isSome = true
      ∧ (BitVec.toNat ((mqe.laneAt i1 0).regPair qpope_f.a.toNat) % 64 = 0 ∧
        mqe.reachFor (i1.lane 0) ((mqe.laneAt i1 0).regPair qpope_f.a.toNat) = (Reached.at xq, mqe) ∧
        mqe.badAt xq.pa 64 = false ∧ queueOk (mqe.homeNat xq.pa 64) = true ∧
        mqe.queueStall i1 ((mqe.laneAt i1 0).regPair fqt.a.toNat) (fun y => y.slot y.head) 0 = false ∧ mqe.dirtyGood)
      ∧ (mqe.queueAt xq.pa).empty = true
      ∧ (∀ r ∈ mqe.qreqs, r.key ≠ i1.lane 0) :=
  ⟨by show Memory.wf _ = true; decide +kernel, canIssue (by decide +kernel), by decide +kernel⟩

theorem witness_qtrye :
    mqe.memOk
      ∧ CanIssue mqe i1 (cohortOf mqe user) fqt.guard (Form.use Op.qtry fqt)
      ∧ mqe.executing i1 fqt.guard = [0]
      ∧ (mqe.lane? (i1.lane 0)).isSome = true
      ∧ (BitVec.toNat ((mqe.laneAt i1 0).regPair fqt.a.toNat) % 64 = 0 ∧
        mqe.reachFor (i1.lane 0) ((mqe.laneAt i1 0).regPair fqt.a.toNat) = (Reached.at xq, mqe) ∧
        mqe.badAt xq.pa 64 = false ∧ queueOk (mqe.homeNat xq.pa 64) = true ∧
        mqe.queueStall i1 ((mqe.laneAt i1 0).regPair fqt.a.toNat) (fun y => y.slot y.head) 0 = false ∧ mqe.dirtyGood)
      ∧ (mqe.queueAt xq.pa).empty = true :=
  ⟨by show Memory.wf _ = true; decide +kernel, canIssue (by decide +kernel), by decide +kernel⟩

theorem witness_qdone :
    mqw.memOk
      ∧ mqw.executing i1 fqt.guard = [0]
      ∧ (mqw.lane? (i1.lane 0)).isSome = true
      ∧ (List.find? (fun (y : QWait) => decide (y.key = ({ coh := user, lane := 0 } : LaneKey))) mqw.qwaits = some qw0)
      ∧ mqw.awake ({ coh := user, lane := 0 } : LaneKey).coh.die = true
      ∧ mqw.qwaitDue qw0 = true :=
  ⟨by show Memory.wf _ = true; decide +kernel, by decide +kernel⟩

/-! Witnesses of TensorTable. -/

def tdef_f := ({ fm with d := 9 })
theorem witness_tdef :
    CanIssue mtd i1 (cohortOf mtd user) tdef_f.guard (Form.use Op.tdef tdef_f)
      ∧ mtd.executing i1 tdef_f.guard = [0]
      ∧ (mtd.watchHit i1 false
        (if tdef_f.xm = true then List.map (fun (n : Nat) => (n, memAddr tdef_f (mtd.laneAt i1 0), 64)) [0] else []) =
        Hit.none)
      ∧ (mtd.scoreStall i1.key (if tdef_f.xm = true then 1 else 0) (BitVec.toNat (memAddr tdef_f (mtd.laneAt i1 0))) 64
        false =
        false)
      ∧ BitVec.toNat (memAddr tdef_f (mtd.laneAt i1 0)) % 64 = 0
      ∧ (mtd.readNow (i1.lane 0) (if tdef_f.xm = true then 1 else 0) (memAddr tdef_f (mtd.laneAt i1 0)) 64 =
        (NowRead.bytes (mtd.home 8192 64) [], mtd))
      ∧ tensorOk (ofBytes (mtd.home 8192 64)) = true :=
  ⟨canIssue (by decide +kernel), by decide +kernel⟩

def tqry_f : Form := { d := 10, a := 1 }
theorem witness_tqry :
    CanIssue mtd i1 (cohortOf mtd user) tqry_f.guard (Form.use Op.tqry tqry_f)
      ∧ mtd.executing i1 tqry_f.guard = [0] :=
  ⟨canIssue (by decide +kernel), by decide +kernel⟩

def trel_f : Form := { d := 1 }
theorem witness_trel :
    CanIssue mtd i1 (cohortOf mtd user) trel_f.guard ({} : RegUse)
      ∧ mtd.executing i1 trel_f.guard = [0] :=
  ⟨canIssue (by decide +kernel), by decide +kernel⟩

def mwait_f : Form := { d := 1 }
theorem witness_mwait :
    CanIssue mtd i1 (cohortOf mtd user) mwait_f.guard (Form.use Op.mwait mwait_f)
      ∧ mtd.executing i1 mwait_f.guard = [0]
      ∧ (∀ n ∈ [0], mtd.opsOf (i1.lane n) = []) :=
  ⟨canIssue (by decide +kernel), by decide +kernel⟩

def amark_f : Form := { a := 2 }
theorem witness_amark :
    CanIssue mtd i1 (cohortOf mtd user) amark_f.guard (Form.use Op.amark amark_f)
      ∧ mtd.executing i1 amark_f.guard = [0] :=
  ⟨canIssue (by decide +kernel), by decide +kernel⟩

/-! Witnesses of MatrixOperations. -/

theorem witness_mmf :
    (Instr.mmf fmf, Op.mmf) ∈
        [(Instr.mzero fmf, Op.mzero), (Instr.mma fmf, Op.mma), (Instr.mms fmf, Op.mms), (Instr.mmf fmf, Op.mmf),
        (Instr.quant fmf, Op.quant), (Instr.deq fmf, Op.deq), (Instr.spz fmf, Op.spz)]
      ∧ CanIssue mmo imo (cohortOf mmo user) fmf.guard (Form.use Op.mmf fmf)
      ∧ (∀ (n : Nat), BitVec.getLsbD imo.mask n = true ↔ n / 8 = 0 ∧ ((cohortOf mmo user).lane? n).isSome = true)
      ∧ (∀ (n : Nat) (l : Lane) (k2 : W64), (cohortOf mmo user).lane? n = some l → l.status ≠ LaneStatus.parked 6 k2)
      ∧ (cohortOf mmo user).active = true
      ∧ imo.lanes.head? = some 0
      ∧ (mmo.laneAt imo 0).passes fmf.guard = true
      ∧ (mmo.matOpOf imo.key (cohortOf mmo user) imo.pc 0 Op.mmf fmf (arrivalA Op.mmf fmf (mmo.laneAt imo 0))
        (Form.mode fmf (mmo.laneAt imo 0))).ok =
        true :=
  ⟨by decide, canIssue (by decide +kernel), by exact iff_mask (by decide +kernel) (by omega), by exact lane_not_parked (by decide +kernel) 6, by decide +kernel⟩

theorem witness_mzero :
    (Instr.mzero fmz, Op.mzero) ∈
        [(Instr.mzero fmz, Op.mzero), (Instr.mma fmz, Op.mma), (Instr.mms fmz, Op.mms), (Instr.mmf fmz, Op.mmf),
        (Instr.quant fmz, Op.quant), (Instr.deq fmz, Op.deq), (Instr.spz fmz, Op.spz)]
      ∧ CanIssue mmo imo (cohortOf mmo user) fmz.guard (Form.use Op.mzero fmz)
      ∧ (∀ (n : Nat), BitVec.getLsbD imo.mask n = true ↔ n / 8 = 0 ∧ ((cohortOf mmo user).lane? n).isSome = true)
      ∧ (∀ (n : Nat) (l : Lane) (k2 : W64), (cohortOf mmo user).lane? n = some l → l.status ≠ LaneStatus.parked 6 k2)
      ∧ (cohortOf mmo user).active = true
      ∧ imo.lanes.head? = some 0
      ∧ (mmo.laneAt imo 0).passes fmz.guard = true
      ∧ (mmo.matOpOf imo.key (cohortOf mmo user) imo.pc 0 Op.mzero fmz (arrivalA Op.mzero fmz (mmo.laneAt imo 0))
        (Form.mode fmz (mmo.laneAt imo 0))).ok =
        true :=
  ⟨by decide, canIssue (by decide +kernel), by exact iff_mask (by decide +kernel) (by omega), by exact lane_not_parked (by decide +kernel) 6, by decide +kernel⟩

theorem witness_mstep :
    (∀ (c : Cohort),
        mst.cohort? mop.key = some c → ∀ y ∈ c.lanes, ∀ (p : BitVec 8) (e : Effect), y.2.status ≠ LaneStatus.capturing p e)
      ∧ (List.find? (fun (x : MatOp) => decide (x.id = mop.id)) mst.matOps = some mop)
      ∧ mst.passOf mop = [mop]
      ∧ mst.passReady [mop] = true
      ∧ mst.clocked mop.die = true
      ∧ mop.alone = false
      ∧ mop.isProduct = true
      ∧ mop.done + 1 < mop.kn
      ∧ (mst.touchAll mop.die mop.core mop.gang mop.role mop.member
        (sectorNumbers (mop.reads ++ List.map (fun (a : Nat) => (a, 1)) mop.writeAddrs)) =
        (Touch.ok, mst))
      ∧ (∀ a ∈ List.flatMap (fun (r : Nat × Nat) => List.map (fun (x : Nat) => r.1 + x) (List.range r.2)) mop.reads,
        mst.badAt (mst.opLoc mop a) 1 = false)
      ∧ mst.staleBytes mop (mop.reads.flatMap fun r => (List.range r.2).map (r.1 + ·)) = []
      ∧ (∀ a ∈ mop.writeAddrs, mst.opSector mop a = none) :=
  ⟨by intro c h; cases h; exact lanes_not_capturing (by decide +kernel), by decide +kernel⟩

def si : Issue := iss super 1
def lt : Lane := { v := [(2, 0x2000), (3, 0)], trap := { tvec := 0x8000, tpc := 0x1010, tcause := 0x8000020C, tstat := 1 } }
def mt : State := sup lt
def mt0 : State := sup { lt with trap := { lt.trap with tstat := 0 } }
def mdc : State := { sup { v := [(2, 0x100050), (4, 0xFFFFFFFF), (5, 0x12345678)] } with sec := { stage := 9, links := [16, 0, 0, 0] } }
def mdc2 : State := { sup { v := [(2, BitVec.ofNat 32 offSRQHEAD), (4, 0xFFFFFFFF), (5, 0x12345678)] } with sec := { stage := 9, links := [16, 0, 0, 0] } }
def fdc : Form := { d := 6, a := 2, b := 4, ext := true }
theorem plain_dcr (u : State) :
    u.writeDcr (bits ((mdc.laneAt si 0).reg fdc.a.toNat + fdc.w2).toNat 27 24) (bits ((mdc.laneAt si 0).reg fdc.a.toNat + fdc.w2).toNat 23 0) 0x12345678FFFFFFFF
      = u.setDcr (bits ((mdc.laneAt si 0).reg fdc.a.toNat + fdc.w2).toNat 27 24) (bits ((mdc.laneAt si 0).reg fdc.a.toNat + fdc.w2).toNat 23 0)
        (DcrFields.after ⟨0xFFFFFFFF, 0xFFFFFFFF, 0⟩ (u.dcr (bits ((mdc.laneAt si 0).reg fdc.a.toNat + fdc.w2).toNat 27 24)
          (bits ((mdc.laneAt si 0).reg fdc.a.toNat + fdc.w2).toNat 23 0)) 0x12345678FFFFFFFF) := by
  have d : bits ((mdc.laneAt si 0).reg fdc.a.toNat + fdc.w2).toNat 27 24 = 0 := by decide +kernel
  have o : bits ((mdc.laneAt si 0).reg fdc.a.toNat + fdc.w2).toNat 23 0 = 0x100050 := by decide +kernel
  have f : dcrFields 0 0x100050 = some ⟨0xFFFFFFFF, 0xFFFFFFFF, 0⟩ := by decide +kernel
  rw [d, o]
  simp only [State.writeDcr, f]
  rfl
theorem plain_dcr2 (u : State) :
    u.writeDcr (bits ((mdc2.laneAt si 0).reg fdc.a.toNat + fdc.w2).toNat 27 24) (bits ((mdc2.laneAt si 0).reg fdc.a.toNat + fdc.w2).toNat 23 0) 0x12345678FFFFFFFF
      = u.setDcr (bits ((mdc2.laneAt si 0).reg fdc.a.toNat + fdc.w2).toNat 27 24) (bits ((mdc2.laneAt si 0).reg fdc.a.toNat + fdc.w2).toNat 23 0)
        (DcrFields.after ⟨0xFFFFFFFF, 0xFFFFFFFF, 0⟩ (u.dcr (bits ((mdc2.laneAt si 0).reg fdc.a.toNat + fdc.w2).toNat 27 24)
          (bits ((mdc2.laneAt si 0).reg fdc.a.toNat + fdc.w2).toNat 23 0)) 0x12345678FFFFFFFF) := by
  have d : bits ((mdc2.laneAt si 0).reg fdc.a.toNat + fdc.w2).toNat 27 24 = 0 := by decide +kernel
  have o : bits ((mdc2.laneAt si 0).reg fdc.a.toNat + fdc.w2).toNat 23 0 = offSRQHEAD := by decide +kernel
  have f : dcrFields 0 offSRQHEAD = some ⟨0xFFFFFFFF, 0xFFFFFFFF, 0⟩ := by decide +kernel
  rw [d, o]
  simp only [State.writeDcr, f]
  rfl
def tinv : TlbInv := { scope := 2, sel := 1, va := 0, asid := 0, level := 3 }
def mtl : State := sup { v := [(2, 0x5000), (3, 0), (4, 1), (5, 0)] }
def mts : State := sup { v := [(2, 0x5000), (3, 0), (4, 1), (5, 0)], tlbinvs := [tinv] }
def ftl : Form := { a := 2, b := 4, ext := true, rs := 2 }
def fr0 : FaultRec := { rid := 5, cause := 1, acc := 1, path := 0, level := 0, dm := false, cw := 0, va := 0x7000, mask := 1, pc := 0x1000, gang := 7, die := 0, core := 0, slot := 0, tick := 900, pte := 0, waiter := .lanes 3 }
def mfq : State := { sup { v := [(2, 5), (3, 0), (4, 0)] } with dies := [(0, { dieOf with frq := [fr0, { fr0 with rid := 6 }] })] }
def mfe : State := sup { v := [(2, 5), (3, 0), (4, 0)] }
def hold0 : Hold := { id := 3, coh := user, mask := 1, prio := 0x80, pc := 0x1000, waits := false, va := 0x7000, cause := 1 }
def mfo : State := { sup { v := [(2, 5), (3, 0), (4, 0)] } with dies := [(0, { dieOf with out := [fr0] })], holds := [hold0] }
def sl0 : SideLane := { lane := 0, va := 0x7008, data := [1, 2, 3, 4], wic := 4, fibre := 2 }
def se0 : SideEntry := { id := 8, tick := 900, gang := 7, pc := 0x1000, wic := 4, page := 0x7000, psize := 0, state := 1, cause := 0, slot := 0, acc := 2, op := 0, size := 0, seq := 1, rid := 5, fibres := [2], lanes := [sl0] }
def msl : State := { sup { v := [(2, 0x7000), (3, 0), (4, 0x201)] } with
  cores := [((0, 0), { tlb := [tle], sideLog := [se0] })], cohorts := [(super, { coh [(0, { v := [(2, 0x7000), (3, 0), (4, 0x201)] })] with priv := true }), (user, coh [(0, { fibre := 2 })])] }
def bindMem : List Host.Cell := Memory.writeN [owner] 0x2000 (toBytes (2 ^ 64 * 0x3000 + 2 ^ 256 * 9 + 2 ^ 320 * 1 + 2 ^ 334 * 1 + 2 ^ 352 * 4 + 2 ^ 360 * 8 ) 64)
def bindMem3 : List Host.Cell := Memory.writeN bindMem 0x3000 (toBytes (2 ^ 64 * 0x4000) 64)
def mbd : State := { sup { v := [(2, 0x2000), (3, 0), (4, 0)] } with mem := bindMem3 }
def br0 : BindRec := (mbd.readBind 0 0x2000).1
def uc : Cohort := { coh [(0, { v := [(2, 5)] })] with minR := 1, peak := 8 }
def two (l : Lane) (c : Cohort) : State :=
  { sup l with cohorts := [(super, { coh [(0, l)] with priv := true }), (user, c)] }
def mhc : State := { two { v := [(2, 0), (3, 0), (4, 0)] } uc with cores := [((0, 0), { tlb := [tle] })] }
def mhg : State := two { v := [(2, 0), (3, 0), (4, 0)] } { uc with halted := true, active := false }
def mcs : State := two { v := [(2, 0x20000), (3, 0), (4, 0)] } { uc with halted := true, active := false }

/-! Witnesses of TrapsAndReturns. -/

theorem witness_sret :
    CanIssue mt si (cohortOf mt super) ({} : Form).guard (Form.use Op.sret ({} : Form))
      ∧ (cohortOf mt super).priv = true
      ∧ (∀ n ∈ si.lanes,
        (mt.laneAt si n).passes ({} : Form).guard = true ∧ BitVec.getLsbD (mt.laneAt si n).trap.tstat 0 = true) :=
  ⟨canIssue (by decide +kernel), by decide +kernel⟩

def trap_f := ({ lt with trap := { lt.trap with tstat := 0 } })
theorem witness_trap :
    CanIssue mt0 si (cohortOf mt0 super) ({} : Form).guard (Form.use Op.sret ({} : Form))
      ∧ (cohortOf mt0 super).priv = true
      ∧ mt0.executing si ({} : Form).guard = [0]
      ∧ si.lanes = [0]
      ∧ mt0.lane? (si.lane 0) = some trap_f
      ∧ BitVec.getLsbD trap_f.trap.tstat 0 = false
      ∧ (cohortOf mt0 super).halted = false
      ∧ trap_f.arrival = none
      ∧ trap_f.status = LaneStatus.ready
      ∧ (∀ x ∈ trap_f.late, x.cls ≠ .own)
      ∧ (∀ x ∈ mt0.loads, x.src ≠ si.lane 0)
      ∧ (∀ x ∈ mt0.atomics, x.src ≠ si.lane 0)
      ∧ (∀ x ∈ mt0.qwaits, x.key ≠ si.lane 0)
      ∧ (∀ x ∈ (mt0.core si.key.die si.key.core).sfu, x.key ≠ si.lane 0) :=
  ⟨canIssue (by decide +kernel), by decide +kernel⟩

/-! Witnesses of ControlRegisters. -/

theorem witness_dcrr :
    CanIssue mdc si (cohortOf mdc super) fdc.guard (Form.use Op.dcrr fdc)
      ∧ mdc.executing si fdc.guard = [0]
      ∧ bits (BitVec.toNat ((mdc.laneAt si 0).reg fdc.a.toNat + fdc.w2)) 31 28 = 0
      ∧ BitVec.toNat ((mdc.laneAt si 0).reg fdc.a.toNat + fdc.w2) % 8 = 0
      ∧ dcrFields (bits (BitVec.toNat ((mdc.laneAt si 0).reg fdc.a.toNat + fdc.w2)) 27 24)
        (bits (BitVec.toNat ((mdc.laneAt si 0).reg fdc.a.toNat + fdc.w2)) 23 0) =
        some ({ read := 4294967295, write := 4294967295 } : DcrFields)
      ∧ mdc.computedDcr (bits (BitVec.toNat ((mdc.laneAt si 0).reg fdc.a.toNat + fdc.w2)) 27 24)
        (bits (BitVec.toNat ((mdc.laneAt si 0).reg fdc.a.toNat + fdc.w2)) 23 0) =
        none
      ∧ bits (BitVec.toNat ((mdc.laneAt si 0).reg fdc.a.toNat + fdc.w2)) 23 0 ≠ 88
      ∧ bits (BitVec.toNat ((mdc.laneAt si 0).reg fdc.a.toNat + fdc.w2)) 23 0 ≠ 0x60
      ∧ mdc.dcrAwake (bits (BitVec.toNat ((mdc.laneAt si 0).reg fdc.a.toNat + fdc.w2)) 27 24) (bits (BitVec.toNat ((mdc.laneAt si 0).reg fdc.a.toNat + fdc.w2)) 23 0) = true
      ∧ bits (BitVec.toNat ((mdc.laneAt si 0).reg fdc.a.toNat + fdc.w2)) 27 24 < 16 :=
  ⟨canIssue (by decide +kernel), by decide +kernel⟩

theorem witness_dcrw :
    (∀ (u : State),
        u.writeDcr (bits (BitVec.toNat ((mdc.laneAt si 0).reg fdc.a.toNat + fdc.w2)) 27 24)
        (bits (BitVec.toNat ((mdc.laneAt si 0).reg fdc.a.toNat + fdc.w2)) 23 0) 1311768469162688511 =
        u.setDcr (bits (BitVec.toNat ((mdc.laneAt si 0).reg fdc.a.toNat + fdc.w2)) 27 24)
        (bits (BitVec.toNat ((mdc.laneAt si 0).reg fdc.a.toNat + fdc.w2)) 23 0)
        (({ read := 4294967295, write := 4294967295 } : DcrFields).after
        (u.dcr (bits (BitVec.toNat ((mdc.laneAt si 0).reg fdc.a.toNat + fdc.w2)) 27 24)
        (bits (BitVec.toNat ((mdc.laneAt si 0).reg fdc.a.toNat + fdc.w2)) 23 0))
        1311768469162688511))
      ∧ CanIssue mdc si (cohortOf mdc super) fdc.guard (Form.use Op.dcrw fdc)
      ∧ mdc.executing si fdc.guard = [0]
      ∧ bits (BitVec.toNat ((mdc.laneAt si 0).reg fdc.a.toNat + fdc.w2)) 31 28 = 0
      ∧ BitVec.toNat ((mdc.laneAt si 0).reg fdc.a.toNat + fdc.w2) % 8 = 0
      ∧ dcrFields (bits (BitVec.toNat ((mdc.laneAt si 0).reg fdc.a.toNat + fdc.w2)) 27 24)
        (bits (BitVec.toNat ((mdc.laneAt si 0).reg fdc.a.toNat + fdc.w2)) 23 0) =
        some ({ read := 4294967295, write := 4294967295 } : DcrFields)
      ∧ mdc.computedDcr (bits (BitVec.toNat ((mdc.laneAt si 0).reg fdc.a.toNat + fdc.w2)) 27 24)
        (bits (BitVec.toNat ((mdc.laneAt si 0).reg fdc.a.toNat + fdc.w2)) 23 0) =
        none
      ∧ bits (BitVec.toNat ((mdc.laneAt si 0).reg fdc.a.toNat + fdc.w2)) 23 0 ≠ 88
      ∧ bits (BitVec.toNat ((mdc.laneAt si 0).reg fdc.a.toNat + fdc.w2)) 23 0 ≠ 0x60
      ∧ mdc.dcrAwake (bits (BitVec.toNat ((mdc.laneAt si 0).reg fdc.a.toNat + fdc.w2)) 27 24) (bits (BitVec.toNat ((mdc.laneAt si 0).reg fdc.a.toNat + fdc.w2)) 23 0) = true
      ∧ bits (BitVec.toNat ((mdc.laneAt si 0).reg fdc.a.toNat + fdc.w2)) 27 24 < 16
      ∧ 1311768469162688511 = bRaw Op.dcrw fdc (mdc.laneAt si 0) true
      ∧ mdc.fenceReady (si.lane 0) 3 [Path.lsu] = true
      ∧ (mdc.laneAt si 0).fenceFx = []
      ∧ (mdc.lane? (si.lane 0)).isSome = true :=
  ⟨by exact plain_dcr, canIssue (by decide +kernel), by decide +kernel⟩

theorem witness_dcrw2 :
    (∀ (u : State),
        u.writeDcr (bits (BitVec.toNat ((mdc.laneAt si 0).reg fdc.a.toNat + fdc.w2)) 27 24)
        (bits (BitVec.toNat ((mdc.laneAt si 0).reg fdc.a.toNat + fdc.w2)) 23 0) 1311768469162688511 =
        u.setDcr (bits (BitVec.toNat ((mdc.laneAt si 0).reg fdc.a.toNat + fdc.w2)) 27 24)
        (bits (BitVec.toNat ((mdc.laneAt si 0).reg fdc.a.toNat + fdc.w2)) 23 0)
        (({ read := 4294967295, write := 4294967295 } : DcrFields).after
        (u.dcr (bits (BitVec.toNat ((mdc.laneAt si 0).reg fdc.a.toNat + fdc.w2)) 27 24)
        (bits (BitVec.toNat ((mdc.laneAt si 0).reg fdc.a.toNat + fdc.w2)) 23 0))
        1311768469162688511))
      ∧ mdc.executing si fdc.guard = [0]
      ∧ bits (BitVec.toNat ((mdc.laneAt si 0).reg fdc.a.toNat + fdc.w2)) 31 28 = 0
      ∧ BitVec.toNat ((mdc.laneAt si 0).reg fdc.a.toNat + fdc.w2) % 8 = 0
      ∧ dcrFields (bits (BitVec.toNat ((mdc.laneAt si 0).reg fdc.a.toNat + fdc.w2)) 27 24)
        (bits (BitVec.toNat ((mdc.laneAt si 0).reg fdc.a.toNat + fdc.w2)) 23 0) =
        some ({ read := 4294967295, write := 4294967295 } : DcrFields)
      ∧ mdc.computedDcr (bits (BitVec.toNat ((mdc.laneAt si 0).reg fdc.a.toNat + fdc.w2)) 27 24)
        (bits (BitVec.toNat ((mdc.laneAt si 0).reg fdc.a.toNat + fdc.w2)) 23 0) =
        none
      ∧ bits (BitVec.toNat ((mdc.laneAt si 0).reg fdc.a.toNat + fdc.w2)) 23 0 ≠ 88
      ∧ bits (BitVec.toNat ((mdc.laneAt si 0).reg fdc.a.toNat + fdc.w2)) 23 0 ≠ 0x60
      ∧ mdc.dcrAwake (bits (BitVec.toNat ((mdc.laneAt si 0).reg fdc.a.toNat + fdc.w2)) 27 24) (bits (BitVec.toNat ((mdc.laneAt si 0).reg fdc.a.toNat + fdc.w2)) 23 0) = true
      ∧ bits (BitVec.toNat ((mdc.laneAt si 0).reg fdc.a.toNat + fdc.w2)) 27 24 < 16
      ∧ 1311768469162688511 = bRaw Op.dcrw fdc (mdc.laneAt si 0) true
      ∧ mdc.sec.powered = true
      ∧ mdc.hostLinkUp 0 = true
      ∧ barRegister (bits (BitVec.toNat ((mdc.laneAt si 0).reg fdc.a.toNat + fdc.w2)) 23 0) = true :=
  ⟨by exact plain_dcr, by decide +kernel⟩

theorem witness_dcrw3 :
    (∀ (u : State),
        u.writeDcr (bits (BitVec.toNat ((mdc2.laneAt si 0).reg fdc.a.toNat + fdc.w2)) 27 24)
        (bits (BitVec.toNat ((mdc2.laneAt si 0).reg fdc.a.toNat + fdc.w2)) 23 0) 1311768469162688511 =
        u.setDcr (bits (BitVec.toNat ((mdc2.laneAt si 0).reg fdc.a.toNat + fdc.w2)) 27 24)
        (bits (BitVec.toNat ((mdc2.laneAt si 0).reg fdc.a.toNat + fdc.w2)) 23 0)
        (({ read := 4294967295, write := 4294967295 } : DcrFields).after
        (u.dcr (bits (BitVec.toNat ((mdc2.laneAt si 0).reg fdc.a.toNat + fdc.w2)) 27 24)
        (bits (BitVec.toNat ((mdc2.laneAt si 0).reg fdc.a.toNat + fdc.w2)) 23 0))
        1311768469162688511))
      ∧ mdc2.executing si fdc.guard = [0]
      ∧ bits (BitVec.toNat ((mdc2.laneAt si 0).reg fdc.a.toNat + fdc.w2)) 31 28 = 0
      ∧ BitVec.toNat ((mdc2.laneAt si 0).reg fdc.a.toNat + fdc.w2) % 8 = 0
      ∧ dcrFields (bits (BitVec.toNat ((mdc2.laneAt si 0).reg fdc.a.toNat + fdc.w2)) 27 24)
        (bits (BitVec.toNat ((mdc2.laneAt si 0).reg fdc.a.toNat + fdc.w2)) 23 0) =
        some ({ read := 4294967295, write := 4294967295 } : DcrFields)
      ∧ mdc2.computedDcr (bits (BitVec.toNat ((mdc2.laneAt si 0).reg fdc.a.toNat + fdc.w2)) 27 24)
        (bits (BitVec.toNat ((mdc2.laneAt si 0).reg fdc.a.toNat + fdc.w2)) 23 0) =
        none
      ∧ bits (BitVec.toNat ((mdc2.laneAt si 0).reg fdc.a.toNat + fdc.w2)) 23 0 ≠ 88
      ∧ bits (BitVec.toNat ((mdc2.laneAt si 0).reg fdc.a.toNat + fdc.w2)) 23 0 ≠ 0x60
      ∧ mdc2.dcrAwake (bits (BitVec.toNat ((mdc2.laneAt si 0).reg fdc.a.toNat + fdc.w2)) 27 24) (bits (BitVec.toNat ((mdc2.laneAt si 0).reg fdc.a.toNat + fdc.w2)) 23 0) = true
      ∧ bits (BitVec.toNat ((mdc2.laneAt si 0).reg fdc.a.toNat + fdc.w2)) 27 24 < 16
      ∧ 1311768469162688511 = bRaw Op.dcrw fdc (mdc2.laneAt si 0) true
      ∧ mdc2.sec.powered = true ∧ mdc2.hostLinkUp 0 = true
      ∧ barRegister (bits (BitVec.toNat ((mdc2.laneAt si 0).reg fdc.a.toNat + fdc.w2)) 23 0) = false :=
  ⟨by exact plain_dcr2, by decide +kernel⟩

/-! Witnesses of TranslationRemoval. -/

def tlbinv_f : Lane := { v := [(2, 0x5000), (3, 0), (4, 1), (5, 0)] }
theorem witness_tlbinv :
    CanIssue mtl si (cohortOf mtl super) ftl.guard (Form.use Op.tlbinv ftl)
      ∧ mtl.executing si ftl.guard = [0]
      ∧ mtl.lane? (si.lane 0) = some tlbinv_f
      ∧ bRaw Op.tlbinv ftl tlbinv_f false / 4 % 2 ^ 14 = 0 :=
  ⟨canIssue (by decide +kernel), by decide +kernel⟩

def tlbsync_f : Lane := { v := [(2, 0x5000), (3, 0), (4, 1), (5, 0)], tlbinvs := [tinv] }
theorem witness_tlbsync :
    CanIssue mts si (cohortOf mts super) ftl.guard (Form.use Op.tlbsync ftl)
      ∧ mts.executing si ftl.guard = [0]
      ∧ mts.lane? (si.lane 0) = some tlbsync_f
      ∧ (tlbsync_f.arrival = none ∧
        (∀ w ∈ mts.writes, w.home = true) ∧
        mts.loads = [] ∧ mts.atomics = [] ∧ ∀ y ∈ mts.cores, ∀ p ∈ y.2.pages, p.stash = none)
      ∧ ftl.xm = false :=
  ⟨canIssue (by decide +kernel), by decide +kernel⟩

def tlbsynca_f := ({ ftl with xm := true })
def tlbsynca_f2 : Lane := { v := [(2, 0x5000), (3, 0), (4, 1), (5, 0)], tlbinvs := [tinv] }
theorem witness_tlbsynca :
    CanIssue mts si (cohortOf mts super) tlbsynca_f.guard (Form.use Op.tlbsync tlbsynca_f)
      ∧ mts.executing si tlbsynca_f.guard = [0]
      ∧ mts.lane? (si.lane 0) = some tlbsynca_f2
      ∧ (tlbsynca_f2.arrival = none ∧
        (∀ w ∈ mts.writes, w.home = true) ∧
        mts.loads = [] ∧ mts.atomics = [] ∧ ∀ y ∈ mts.cores, ∀ p ∈ y.2.pages, p.stash = none)
      ∧ tlbsynca_f.xm = true
      ∧ mts.fenceReady (si.lane 0) 5 [Path.lsu] = true
      ∧ tlbsynca_f2.fenceFx = []
      ∧ BitVec.toNat (tlbsynca_f2.regPair tlbsynca_f.a.toNat) % 8 = 0
      ∧ mts.physOk si.key.die (BitVec.toNat (tlbsynca_f2.regPair tlbsynca_f.a.toNat)) = true :=
  ⟨canIssue (by decide +kernel), by decide +kernel⟩

/-! Witnesses of FaultServiceAndQueue. -/

def frqpop_f : Form := { d := 20 }
def frqpop_f2 : Lane := { v := [(2, 5), (3, 0), (4, 0)] }
def frqpop_f3 := ({ fr0 with rid := 6 })
theorem witness_frqpop :
    CanIssue mfq si (cohortOf mfq super) frqpop_f.guard (Form.use Op.frqpop frqpop_f)
      ∧ mfq.executing si frqpop_f.guard = [0]
      ∧ mfq.lane? (si.lane 0) = some frqpop_f2
      ∧ (mfq.die si.key.die).frq = [fr0, frqpop_f3]
      ∧ mfq.faultWaiters si.key.die = [] :=
  ⟨canIssue (by decide +kernel), by decide +kernel⟩

def frqtry_f : Form := { d := 20, c := 2, ext := true }
def frqtry_f2 : Lane := { v := [(2, 5), (3, 0), (4, 0)] }
def frqtry_f3 := ({ fr0 with rid := 6 })
theorem witness_frqtry :
    CanIssue mfq si (cohortOf mfq super) frqtry_f.guard (Form.use Op.frqpopTry frqtry_f)
      ∧ mfq.executing si frqtry_f.guard = [0]
      ∧ mfq.lane? (si.lane 0) = some frqtry_f2
      ∧ (mfq.die si.key.die).frq = [fr0, frqtry_f3]
      ∧ mfq.faultWaiters si.key.die = [] :=
  ⟨canIssue (by decide +kernel), by decide +kernel⟩

def frqpope_f : Form := { d := 20 }
def frqpope_f2 : Lane := { v := [(2, 5), (3, 0), (4, 0)] }
theorem witness_frqpope :
    CanIssue mfe si (cohortOf mfe super) frqpope_f.guard (Form.use Op.frqpop frqpope_f)
      ∧ mfe.executing si frqpope_f.guard = [0]
      ∧ mfe.lane? (si.lane 0) = some frqpope_f2
      ∧ (mfe.die si.key.die).frq = [] :=
  ⟨canIssue (by decide +kernel), by decide +kernel⟩

def frqtrye_f : Form := { d := 20, c := 2, ext := true }
def frqtrye_f2 : Lane := { v := [(2, 5), (3, 0), (4, 0)] }
theorem witness_frqtrye :
    CanIssue mfe si (cohortOf mfe super) frqtrye_f.guard (Form.use Op.frqpopTry frqtrye_f)
      ∧ mfe.executing si frqtrye_f.guard = [0]
      ∧ mfe.lane? (si.lane 0) = some frqtrye_f2
      ∧ (mfe.die si.key.die).frq = [] :=
  ⟨canIssue (by decide +kernel), by decide +kernel⟩

def mapdone_f : Form := { a := 2, b := 4, ext := true }
def mapdone_f2 : Lane := { v := [(2, 5), (3, 0), (4, 0)] }
theorem witness_mapdone :
    CanIssue mfo si (cohortOf mfo super) mapdone_f.guard (Form.use Op.mapdone mapdone_f)
      ∧ mfo.executing si mapdone_f.guard = [0]
      ∧ mfo.lane? (si.lane 0) = some mapdone_f2
      ∧ (List.find? (fun (y : FaultRec) => decide (y.rid = mapdone_f2.reg mapdone_f.a.toNat) && !y.oneWay) ((mfo.die si.key.die).frq ++ (mfo.die si.key.die).out) =
        some fr0)
      ∧ bRaw Op.mapdone mapdone_f mapdone_f2 false = 0
      ∧ fr0.cause ≠ 4
      ∧ fr0.cause ≠ 6
      ∧ fr0.cause ≠ 7
      ∧ fr0.waiter = Waiter.lanes 3
      ∧ (mfo.core si.key.die fr0.core).sideLog = [] :=
  ⟨canIssue (by decide +kernel), by decide +kernel⟩

def slogrun0_f : Form := { a := 2, b := 4, ext := true }
def slogrun0_f2 : Lane := { v := [(2, 5), (3, 0), (4, 0)] }
theorem witness_slogrun0 :
    CanIssue mfo si (cohortOf mfo super) slogrun0_f.guard (Form.use Op.slogrun slogrun0_f)
      ∧ mfo.executing si slogrun0_f.guard = [0]
      ∧ mfo.lane? (si.lane 0) = some slogrun0_f2
      ∧ slogrun0_f2.arrival = none
      ∧ bRaw Op.slogrun slogrun0_f slogrun0_f2 false / 2 % 2 ^ 7 = 0
      ∧ bRaw Op.slogrun slogrun0_f slogrun0_f2 false / 2 ^ 16 % 2 ^ 16 = 0
      ∧ (∀ k < 48,
        ∀ e ∈ (mfo.core si.key.die k).sideLog,
        e.holds (BitVec.toNat (slogrun0_f2.regPair slogrun0_f.a.toNat)) = false) :=
  ⟨canIssue (by decide +kernel), by decide +kernel⟩

def slogrun_f : Form := { a := 2, b := 4, ext := true }
def slogrun_f2 : Lane := { v := [(2, 0x7000), (3, 0), (4, 0x201)] }
theorem witness_slogrun :
    CanIssue msl si (cohortOf msl super) slogrun_f.guard (Form.use Op.slogrun slogrun_f)
      ∧ msl.executing si slogrun_f.guard = [0]
      ∧ msl.lane? (si.lane 0) = some slogrun_f2
      ∧ slogrun_f2.arrival = none
      ∧ bRaw Op.slogrun slogrun_f slogrun_f2 false / 2 % 2 ^ 7 = 0
      ∧ bRaw Op.slogrun slogrun_f slogrun_f2 false / 2 ^ 16 % 2 ^ 16 = 0
      ∧ 0 < 48
      ∧ (msl.core si.key.die 0).sideLog = [se0]
      ∧ (∀ m < 48,
        m ≠ 0 →
        ∀ x ∈ (msl.core si.key.die m).sideLog,
        x.holds (BitVec.toNat (slogrun_f2.regPair slogrun_f.a.toNat)) = false)
      ∧ se0.holds (BitVec.toNat (slogrun_f2.regPair slogrun_f.a.toNat)) = true
      ∧ se0.state = 1
      ∧ bRaw Op.slogrun slogrun_f slogrun_f2 false % 2 = 1
      ∧ se0.lanes ≠ []
      ∧ (∀ x ∈ se0.lanes,
        msl.fibreIs ({ coh := ({ die := si.key.die, core := 0, slot := se0.slot } : CohKey), lane := x.lane } : LaneKey) x.fibre =
        true) :=
  ⟨canIssue (by decide +kernel), by decide +kernel⟩

/-! Witnesses of CohortInstructions. -/

def bindw_f : Form := { d := 1, a := 2, ext := true }
def bindw_f2 : Lane := { v := [(2, 0x2000), (3, 0), (4, 0)] }
theorem witness_bindw :
    CanIssue mbd si (cohortOf mbd super) bindw_f.guard (Form.use Op.bindw bindw_f)
      ∧ mbd.executing si bindw_f.guard = [0]
      ∧ mbd.lane? (si.lane 0) = some bindw_f2
      ∧ bindw_f.d.toNat < 8
      ∧ BitVec.toNat (bindw_f2.regPair bindw_f.a.toNat) % 64 = 0
      ∧ mbd.readChain si.key.die chainLimit (BitVec.toNat (bindw_f2.regPair bindw_f.a.toNat)) = [br0]
      ∧ br0.start = StartKind.empty
      ∧ br0.first = false
      ∧ superSlot br0.key = false
      ∧ mbd.bindOk (mbd.pid si.key.die) [br0] br0 = true
      ∧ mbd.admits (mbd.pid si.key.die) [] [br0] br0 = true
      ∧ mbd.ckState (mbd.pid si.key.die) = 0 :=
  ⟨canIssue (by decide +kernel), by decide +kernel⟩

def haltc_f : Form := { a := 2 }
def haltc_f2 : Lane := { v := [(2, 0), (3, 0), (4, 0)] }
theorem witness_haltc :
    (mhc.cohort? user = some uc ∧
        user ≠ si.key ∧
        uc.priv = false ∧
        uc.stall = none ∧
        (∀ p ∈ uc.lanes, ∀ (q : BitVec 8) (e : Effect), p.2.status ≠ LaneStatus.capturing q e) ∧
        List.Pairwise (fun (x1 x2 : Nat) => x1 < x2) (List.map (fun (p : Nat × Lane) => p.1) uc.lanes) ∧
        (∀ y ∈ mhc.loads, y.src.coh ≠ user) ∧
        (∀ y ∈ mhc.atomics, y.src.coh ≠ user) ∧
        (∀ y ∈ mhc.qwaits, y.key.coh ≠ user) ∧
        (∀ y ∈ (mhc.core user.die user.core).sfu, y.key.coh ≠ user) ∧ ∀ y ∈ mhc.matOps, y.key ≠ user)
      ∧ CanIssue mhc si (cohortOf mhc super) haltc_f.guard (Form.use Op.haltc haltc_f)
      ∧ mhc.executing si haltc_f.guard = [0]
      ∧ mhc.lane? (si.lane 0) = some haltc_f2
      ∧ haltc_f2.reg haltc_f.a.toNat = BitVec.ofNat 32 (user.slot + 16 * user.core + 1024 * user.die)
      ∧ user.slot < 16
      ∧ user.core < 48
      ∧ user.die < 16
      ∧ superSlot user = false
      ∧ uc.halted = false :=
  ⟨by exact ⟨by decide +kernel, by decide +kernel, by decide +kernel, by decide +kernel, lanes_not_capturing (by decide +kernel),
    by decide +kernel⟩, canIssue (by decide +kernel), by decide +kernel⟩

def haltgo_f : Form := { a := 2 }
def haltgo_f2 : Lane := { v := [(2, 0), (3, 0), (4, 0)] }
def haltgo_f3 := ({ uc with halted := true, active := false })
theorem witness_haltgo :
    (mhg.cohort? user = some haltgo_f3 ∧
        user ≠ si.key ∧
        haltgo_f3.priv = false ∧
        haltgo_f3.stall = none ∧
        (∀ p ∈ haltgo_f3.lanes, ∀ (q : BitVec 8) (e : Effect), p.2.status ≠ LaneStatus.capturing q e) ∧
        List.Pairwise (fun (x1 x2 : Nat) => x1 < x2) (List.map (fun (p : Nat × Lane) => p.1) haltgo_f3.lanes) ∧
        (∀ y ∈ mhg.loads, y.src.coh ≠ user) ∧
        (∀ y ∈ mhg.atomics, y.src.coh ≠ user) ∧
        (∀ y ∈ mhg.qwaits, y.key.coh ≠ user) ∧
        (∀ y ∈ (mhg.core user.die user.core).sfu, y.key.coh ≠ user) ∧ ∀ y ∈ mhg.matOps, y.key ≠ user)
      ∧ CanIssue mhg si (cohortOf mhg super) haltgo_f.guard (Form.use Op.haltcGo haltgo_f)
      ∧ mhg.executing si haltgo_f.guard = [0]
      ∧ mhg.lane? (si.lane 0) = some haltgo_f2
      ∧ haltgo_f2.reg haltgo_f.a.toNat = BitVec.ofNat 32 (user.slot + 16 * user.core + 1024 * user.die)
      ∧ user.slot < 16
      ∧ user.core < 48
      ∧ user.die < 16
      ∧ superSlot user = false
      ∧ haltgo_f3.halted = true
      ∧ (∀ p ∈ haltgo_f3.lanes, p.2.preemptDue = false ∧ p.2.limitDue = false ∧ ∀ y ∈ p.2.tickets, y.kind ≠ 4) :=
  ⟨by exact ⟨by decide +kernel, by decide +kernel, by decide +kernel, by decide +kernel, lanes_not_capturing (by decide +kernel),
    by decide +kernel⟩, canIssue (by decide +kernel), by decide +kernel⟩

def cimgs_f : Form := { d := 1, a := 2, b := 4, ext := true }
def cimgs_f2 : Lane := { v := [(2, 0x20000), (3, 0), (4, 0)] }
def cimgs_f3 := ({ uc with halted := true, active := false })
theorem witness_cimgs :
    (mcs.cohort? user = some cimgs_f3 ∧
        user ≠ si.key ∧
        cimgs_f3.priv = false ∧
        cimgs_f3.stall = none ∧
        (∀ p ∈ cimgs_f3.lanes, ∀ (q : BitVec 8) (e : Effect), p.2.status ≠ LaneStatus.capturing q e) ∧
        List.Pairwise (fun (x1 x2 : Nat) => x1 < x2) (List.map (fun (p : Nat × Lane) => p.1) cimgs_f3.lanes) ∧
        (∀ y ∈ mcs.loads, y.src.coh ≠ user) ∧
        (∀ y ∈ mcs.atomics, y.src.coh ≠ user) ∧
        (∀ y ∈ mcs.qwaits, y.key.coh ≠ user) ∧
        (∀ y ∈ (mcs.core user.die user.core).sfu, y.key.coh ≠ user) ∧ ∀ y ∈ mcs.matOps, y.key ≠ user)
      ∧ CanIssue mcs si (cohortOf mcs super) cimgs_f.guard (Form.use Op.cimgs cimgs_f)
      ∧ mcs.executing si cimgs_f.guard = [0]
      ∧ mcs.lane? (si.lane 0) = some cimgs_f2
      ∧ bRaw Op.cimgs cimgs_f cimgs_f2 false = user.slot + 16 * user.core + 1024 * user.die
      ∧ user.slot < 16
      ∧ user.core < 48
      ∧ user.die < 16
      ∧ superSlot user = false
      ∧ cimgs_f.d.toNat < 8
      ∧ BitVec.toNat (cimgs_f2.regPair cimgs_f.a.toNat) % 64 = 0
      ∧ cimgs_f3.halted = true
      ∧ cimgs_f3.halting = false
      ∧ (∀ p ∈ cimgs_f3.lanes, p.2.arrival = none ∧ p.2.want = [] ∧ p.2.lastReads = [] ∧ p.2.tickets = [] ∧ p.2.obs = [])
      ∧ (∀ w ∈ mcs.writes, w.src.coh ≠ user)
      ∧ mcs.physOk si.key.die (BitVec.toNat (cimgs_f2.regPair cimgs_f.a.toNat)) = true
      ∧ mcs.physOk si.key.die (BitVec.toNat (cimgs_f2.regPair cimgs_f.a.toNat) + cimgs_f3.imageBytes.length - 1) = true :=
  ⟨by exact ⟨by decide +kernel, by decide +kernel, by decide +kernel, by decide +kernel, lanes_not_capturing (by decide +kernel),
    by decide +kernel⟩, canIssue (by decide +kernel), by decide +kernel⟩

def dw : State := { one {} with dies := [(0, { dieOf with frWait := [fr0, { fr0 with va := 0x9000 }], rid := 0xFFFFFFFF })] }
def dto : State := { one {} with dies := [(0, { dieOf with frq := [{ fr0 with waiter := .lanes 3 }] })], tick := 200000000, holds := [hold0] }
def dto1 : State := { dto with cohorts := [(user, coh [(0, { status := .held 3 })])] }
def hl : State := { one {} with cohorts := [(user, { coh [(0, { status := .held 3, v := [(1, 2)] })] with frontier := [] })], holds := [{ hold0 with resolved := true }] }
def sr : State := { one {} with cores := [((0, 0), { tlb := [tle], sideLog := [{ se0 with state := 2 }] })] }
def wwh : Hold := { hold0 with word := some 0x6000 }
def ww0 : State := { one {} with holds := [wwh] }
def ww1 : State := { ww0 with mem := [(0x6000, 1), owner] }
def xww : Xlt := { pa := 0x6000, level := 3, pte := 0xDF }
def irq1 : State := { one {} with dies := [(0, { dieOf with irq := [5, 9] })] }
def hot1 : State := { one {} with dies := [(0, { dieOf with hot := [⟨3, 1, 50, 50⟩, ⟨4, 1, 7, 9⟩], dcr := (offHOT, 0x006400000000 + 1) :: dieOf.dcr })] }
def hs : State := { one {} with sec := { stage := 9, links := [1, 0, 0, 0] } }
def hsf : State := { hs with mem := [owner, (0x100000, 1)] }
def hwr : Write := { wr0 with pa := 0x2001, home := true, left := [Config.hostObserver] }
def hsn : State := { one {} with writes := [hwr] }
def fl0 : Flit := { crc := 0, payload := [], len := 0, type := 2, part := 0, srcPkg := 0, dstPkg := 0, srcDie := 0, dstDie := 1, rsvHi := 0, ack := 7, seq := 3, vc := 0, rsvLo := 0 }
def lk0 : Link := { up := true, expect := 3, since := 0, unacked := [({ fl0 with seq := 7 }, 7)] }
def fst : State := { one {} with links := [(.bridge 0 1, lk0)], tick := 5000 }

/-! Witnesses of FaultServiceAndQueue. -/

def frec_f := ({ fr0 with va := 0x9000 })
theorem witness_frec :
    (dw.die 0).frWait = [fr0, frec_f]
      ∧ dw.awake 0 = true
      ∧ (dw.die 0).frq.length + (dw.die 0).out.length < 1024 :=
  by decide +kernel

def ftime_f := ({ fr0 with waiter := .lanes 3 })
theorem witness_ftime :
    (List.find? (fun (x : FaultRec) => decide (x.rid = ftime_f.rid) && !x.oneWay)
        ((dto1.die 0).frq ++ (dto1.die 0).out) =
        some ftime_f)
      ∧ dto1.awake 0 = true
      ∧ 100000000 + ((dto1.die 0).stopTicks - ftime_f.stops) ≤ dto1.tick - ftime_f.tick
      ∧ ftime_f.waiter = .lanes hold0.id
      ∧ dto1.holds.find? (fun x => x.id = hold0.id) = some hold0
      ∧ dto1.holdLanesOf hold0 = [⟨user, 0⟩]
      ∧ dto1.cohort? user = some (cohortOf dto1 user)
      ∧ (cohortOf dto1 user).priv = false :=
  by decide +kernel

def hreplay_f := ({ hold0 with resolved := true })
def hreplay_f2 : Lane := { status := .held 3, v := [(1, 2)] }
theorem witness_hreplay :
    (List.filter (fun (x : Hold) => decide (x.id = hreplay_f.id)) hl.holds = [hreplay_f])
      ∧ hl.awake hreplay_f.coh.die = true
      ∧ hreplay_f.resolved = true
      ∧ hreplay_f.noRecord = false
      ∧ (∀ e ∈ (hl.core hreplay_f.coh.die hreplay_f.coh.core).sideLog, e.state ≠ 2)
      ∧ hl.cohort? hreplay_f.coh = some (cohortOf hl user)
      ∧ hreplay_f.mask = 1#64 <<< 0
      ∧ 0 < 64
      ∧ hl.lane? ({ coh := hreplay_f.coh, lane := 0 } : LaneKey) = some hreplay_f2
      ∧ hreplay_f2.status = LaneStatus.held hreplay_f.id
      ∧ hl.pair? ({ coh := hreplay_f.coh, lane := 0 } : LaneKey) = none :=
  by decide +kernel

def sreplay_f := ({ se0 with state := 2 })
def sreplay_f2 : Xlt := { pa := 0x7008, level := 3, pte := 0xDF }
theorem witness_sreplay :
    (sr.core 0 0).sideLog = [sreplay_f]
      ∧ sreplay_f.state = 2
      ∧ sreplay_f.lanes = [sl0]
      ∧ sl0.sent = false
      ∧ sl0.data ≠ []
      ∧ sr.awake 0 = true
      ∧ (sr.translate 0 0 (BitVec.ofNat 64 sl0.va) (if sreplay_f.acc = 4 then Acc.reduction else Acc.store) = (Except.ok sreplay_f2, sr)) :=
  by decide +kernel

theorem witness_watch0 :
    (List.filter (fun (x : Hold) => decide (x.id = wwh.id)) ww0.holds = [wwh])
      ∧ wwh.word = some 24576
      ∧ 24576 % 8 = 0
      ∧ ww0.awake wwh.coh.die = true
      ∧ ww0.translate wwh.coh.die noCore (24576#64) Acc.load = (Except.ok xww, ww0)
      ∧ ww0.homeAwake xww.pa ⟨wwh.coh.die, 0, 0⟩ none true = true
      ∧ ww0.badAt xww.pa 8 = false
      ∧ ww0.homeNat xww.pa 8 = 0 :=
  by decide +kernel

theorem witness_watch1 :
    (List.filter (fun (x : Hold) => decide (x.id = wwh.id)) ww1.holds = [wwh])
      ∧ wwh.word = some 24576
      ∧ 24576 % 8 = 0
      ∧ ww1.awake wwh.coh.die = true
      ∧ ww1.translate wwh.coh.die noCore (24576#64) Acc.load = (Except.ok xww, ww1)
      ∧ ww1.homeAwake xww.pa ⟨wwh.coh.die, 0, 0⟩ none true = true
      ∧ ww1.badAt xww.pa 8 = false
      ∧ ww1.homeNat xww.pa 8 = 1 :=
  by decide +kernel

/-! Witnesses of HostAndLinks. -/

theorem witness_msi :
    0 < 16
      ∧ (one ({} : Lane)).sec.powered = true
      ∧ 1 ≤ 2047
      ∧ 2047 ≤ 2047 :=
  by decide +kernel

theorem witness_hreq :
    0 < 16
      ∧ (irq1.die 0).irq = [5, 9]
      ∧ irq1.awake 0 = true
      ∧ (irq1.die 0).frq.length + (irq1.die 0).out.length < 1024 :=
  by decide +kernel

theorem witness_hotp :
    0 < 16
      ∧ (List.find?
        (fun (x : Hot) =>
        decide (x.granule = ({ granule := 3, pkg := 1, reads := 50, writes := 50 } : Hot).granule) &&
        decide (x.pkg = ({ granule := 3, pkg := 1, reads := 50, writes := 50 } : Hot).pkg))
        (hot1.die 0).hot =
        some ({ granule := 3, pkg := 1, reads := 50, writes := 50 } : Hot))
      ∧ hot1.awake 0 = true
      ∧ hot1.dcrBits 0 offHOT 47 32 ≠ 0
      ∧ hot1.dcrBits 0 offHOT 47 32 ≤
        ({ granule := 3, pkg := 1, reads := 50, writes := 50 } : Hot).reads +
        ({ granule := 3, pkg := 1, reads := 50, writes := 50 } : Hot).writes :=
  by decide +kernel

def hotd_f := ({ hot1 with tick := 2000 })
theorem witness_hotd :
    0 < 16
      ∧ hotd_f.awake 0 = true
      ∧ 1000 * hotd_f.dcrBits 0 offHOT 15 0 ≤ hotd_f.tick - (hotd_f.die 0).hotTick :=
  by decide +kernel

theorem witness_hw :
    hs.memOk
      ∧ hs.sec.powered = true
      ∧ hs.hostLinkUp 0 = true
      ∧ isDevicePa 8192 = true
      ∧ isHostPa 8192 = false
      ∧ [1, 2, 3] ≠ []
      ∧ 8192 % 64 + [1, 2, 3].length ≤ 64
      ∧ hs.dirtyGood
      ∧ hs.collecting 8192 = false
      ∧ hs.homeAwake 8192 hostKey none false = true
      ∧ hs.ckState (hs.regionOwner 8192) = 0
      ∧ (hs.hostPair (hs.streamOf 0 8192) (homeDie 8192)).give = (hs.hostPair (hs.streamOf 0 8192) (homeDie 8192)).apply
      ∧ hs.regionOwner 8192 ≠ 0
      ∧ hs.regionOwner 8192 ≠ 4095
      ∧ hs.frzCount 8192 = 0
      ∧ hs.noOutside :=
  ⟨by show Memory.wf _ = true; decide +kernel, by decide, by decide, by decide, by decide, by decide, by decide, by decide +kernel, by decide +kernel,
    by decide +kernel, by decide +kernel, by decide +kernel, by decide +kernel, by decide +kernel, by decide +kernel, no_outside (by decide +kernel)⟩

theorem witness_hwf :
    hsf.memOk
      ∧ hsf.sec.powered = true
      ∧ hsf.hostLinkUp 0 = true
      ∧ isDevicePa 8192 = true
      ∧ isHostPa 8192 = false
      ∧ [1, 2, 3] ≠ []
      ∧ 8192 % 64 + [1, 2, 3].length ≤ 64
      ∧ hsf.dirtyGood
      ∧ hsf.collecting 8192 = false
      ∧ hsf.homeAwake 8192 hostKey none false = true
      ∧ hsf.ckState (hsf.regionOwner 8192) = 0
      ∧ (hsf.hostPair (hsf.streamOf 0 8192) (homeDie 8192)).give = (hsf.hostPair (hsf.streamOf 0 8192) (homeDie 8192)).apply
      ∧ hsf.regionOwner 8192 ≠ 0
      ∧ hsf.regionOwner 8192 ≠ 4095
      ∧ hsf.frzCount 8192 ≠ 0
      ∧ hsf.noOutside :=
  ⟨by show Memory.wf _ = true; decide +kernel, by decide, by decide, by decide, by decide, by decide, by decide, by decide +kernel, by decide +kernel,
    by decide +kernel, by decide +kernel, by decide +kernel, by decide +kernel, by decide +kernel, by decide +kernel, no_outside (by decide +kernel)⟩

theorem witness_hr :
    hs.memOk
      ∧ (∃ l < 4, hs.hostLinkUp l = true)
      ∧ hs.sec.powered = true
      ∧ isDevicePa 8192 = true
      ∧ 8192 % 64 + 8 ≤ 64
      ∧ hs.homeAwake 8192 hostKey none true = true :=
  ⟨by show Memory.wf _ = true; decide +kernel, by exact ⟨0, by decide, by decide +kernel⟩, by decide +kernel⟩

/-- A register that BAR0 shows, and one that it does not (21 R417). -/
theorem witness_hrbar :
    hs.memOk
      ∧ (∃ l < 4, hs.hostLinkUp l = true)
      ∧ hs.sec.powered = true
      ∧ ([0x50, 0x58] : List Nat).all (fun off => decide (off < 2 ^ 24) && decide (off % 8 = 0) && hs.dcrAwake 0 off) = true
      ∧ barRegister 0x50 = true ∧ barRegister 0x58 = false :=
  ⟨by show Memory.wf _ = true; decide +kernel, by exact ⟨0, by decide, by decide +kernel⟩, by decide +kernel⟩

theorem witness_snoop :
    hsn.memOk
      ∧ hsn.sec.powered = true
      ∧ hsn.writes = [hwr]
      ∧ hwr.home = true
      ∧ hwr.left = [Config.hostObserver]
      ∧ isDevicePa hwr.pa = true
      ∧ 0 < hwr.size
      ∧ 64 * 128 ≤ hwr.pa
      ∧ hwr.pa + hwr.size ≤ 64 * 128 + 64
      ∧ hsn.observerDue hwr Config.hostObserver = true :=
  ⟨by show Memory.wf _ = true; decide +kernel, by decide +kernel⟩

theorem witness_hdown :
    hs.memOk
      ∧ hs.sec.powered = true
      ∧ 0 < 4 :=
  ⟨by show Memory.wf _ = true; decide +kernel, by decide +kernel⟩

/-- What HostAndLinks asks of a state, the link at which a flit arrives, and whether that link asks for a retrain. -/
def linkMeets (s : State) (k : LinkId) (retrain : Bool) : Prop :=
  s.sec.powered = true ∧ (s.links.map fun x => x.1).Nodup ∧ (s.link k).up = true ∧ (s.link k).queue = [] ∧ (s.link k).retrain = retrain

/-- A link on which a flit can leave. -/
def linkFree (s : State) (q : LinkId) : Prop :=
  (s.link q).up = true ∧ (s.link q).retrain = false ∧ (s.link q).queue = [] ∧ (s.link q).unacked.length < 2047

def brk : LinkId := .bridge 0 1
def sealed (f : Flit) : Flit := { f with crc := crc64 (flitBody f) 1984 0 }

theorem witness_flbad : linkMeets fst brk false ∧ flitOk fl0 = false := by unfold linkMeets; decide +kernel

theorem witness_flnak : linkMeets fst brk false ∧ (fst.link brk).unacked ≠ [] := by unfold linkMeets; decide +kernel

theorem witness_fltmo : linkMeets fst brk false ∧ (fst.link brk).unacked ≠ [] ∧ 2000 ≤ fst.tick - (fst.link brk).since := by
  unfold linkMeets; decide +kernel

def flret_f := ({ fst with links := [(.bridge 0 1, { lk0 with retrain := true })] })
theorem witness_flret : linkMeets flret_f brk true := by unfold linkMeets; decide +kernel

def flq : State := { fst with links := [(brk, { lk0 with unacked := [] }), (.bridge 0 4, { up := true })] }
/-- A good message for the die itself, one out of sequence, and one that goes on to die 4. -/
def flg : Flit := sealed { fl0 with dstDie := 0 }
def flr : Flit := sealed { fl0 with dstDie := 4 }
theorem witness_flgood :
    linkMeets flq brk false
      ∧ flitOk flg = true ∧ flg.type ≠ 0 ∧ flg.type ≠ 1 ∧ (∀ x ∈ (flq.link brk).unacked, x.1.seq ≠ flg.ack)
      ∧ flg.seq = (flq.link brk).expect
      ∧ flg.dstPkg.toNat = flq.package (linkDie brk) ∧ flg.dstDie.toNat = linkDie brk ∧ flg.vc ≠ 5 := by unfold linkMeets; decide +kernel

def flseq : Flit := sealed { fl0 with dstDie := 0, seq := 9 }
theorem witness_flseq :
    linkMeets flq brk false
      ∧ flitOk flseq = true ∧ flseq.type ≠ 0 ∧ flseq.type ≠ 1 ∧ (∀ x ∈ (flq.link brk).unacked, x.1.seq ≠ flseq.ack)
      ∧ flseq.seq ≠ (flq.link brk).expect := by unfold linkMeets; decide +kernel

theorem witness_flroute :
    linkMeets flq brk false
      ∧ flitOk flr = true ∧ flr.type ≠ 0 ∧ flr.type ≠ 1 ∧ (∀ x ∈ (flq.link brk).unacked, x.1.seq ≠ flr.ack)
      ∧ flr.seq = (flq.link brk).expect
      ∧ flr.dstPkg.toNat = flq.package (linkDie brk) ∧ flr.dstDie.toNat ≠ linkDie brk
      ∧ LinkId.bridge (linkDie brk) (nextHop (linkDie brk) flr.dstDie.toNat) ≠ brk
      ∧ linkFree flq (.bridge (linkDie brk) (nextHop (linkDie brk) flr.dstDie.toNat)) := by unfold linkMeets linkFree; decide +kernel

/-- A message for package 9 that reaches the die of its plane's port, whichever plane its hash gives. -/
def flp : Flit := sealed { fl0 with dstPkg := 9 }
def plane (h : Nat) : State :=
  { fst with links := [(.bridge (h / 3) 1, { lk0 with unacked := [] }), (.port h, { up := true })], sec := { fst.sec with ports := BitVec.allOnes 48 } }

theorem plane_meets : ∀ h < 48, linkMeets (plane h) (.bridge (h / 3) 1) false
    ∧ (∀ x ∈ ((plane h).link (.bridge (h / 3) 1)).unacked, x.1.seq ≠ flp.ack)
    ∧ flp.seq = ((plane h).link (.bridge (h / 3) 1)).expect
    ∧ flp.dstPkg.toNat ≠ (plane h).package (h / 3) ∧ (plane h).sec.ports.getLsbD h = true
    ∧ h / 3 = linkDie (.bridge (h / 3) 1) ∧ LinkId.port h ≠ .bridge (h / 3) 1 ∧ linkFree (plane h) (.port h) := by
  unfold linkMeets linkFree; decide +kernel

theorem witness_flplane :
    let h := Config.planeHash flp.dstPkg.toNat (flitLine flp) % 48
    flitOk flp = true ∧ flp.type ≠ 0 ∧ flp.type ≠ 1 ∧ linkMeets (plane h) (.bridge (h / 3) 1) false
      ∧ (∀ x ∈ ((plane h).link (.bridge (h / 3) 1)).unacked, x.1.seq ≠ flp.ack)
      ∧ flp.seq = ((plane h).link (.bridge (h / 3) 1)).expect
      ∧ flp.dstPkg.toNat ≠ (plane h).package (h / 3) ∧ (plane h).sec.ports.getLsbD h = true
      ∧ h / 3 = linkDie (.bridge (h / 3) 1) ∧ LinkId.port h ≠ .bridge (h / 3) 1 ∧ linkFree (plane h) (.port h) :=
  ⟨by decide +kernel, by decide, by decide, plane_meets _ (Nat.mod_lt _ (by decide))⟩

/-- A write of package 3 to a region of partition 1. The specification does not give a message's layout: the bytes are any that ask for the
write of 7 to 0x2000. -/
def flw0 (p : List Byte) : Flit := { fl0 with payload := p, dstDie := 0, part := 1, srcPkg := 3, vc := 5 }
def flw (p : List Byte) : Flit := { flw0 p with crc := flitCrc (flw0 p) }

theorem crc_ok (f : Flit) : flitOk { f with crc := flitCrc f } = true := by simp [flitOk, flitCrc, flitBody]

theorem witness_flremote (p : List Byte) (kind : Config.remoteKind p = 1) (addr : Config.remoteAddr p = 0x2000)
    (data : Config.remoteData p = [7]) :
    let f := flw p
    let pa := Config.remoteAddr f.payload
    linkMeets flq brk false
      ∧ flitOk f = true ∧ f.type ≠ 0 ∧ f.type ≠ 1 ∧ (∀ x ∈ (flq.link brk).unacked, x.1.seq ≠ f.ack) ∧ f.seq = (flq.link brk).expect
      ∧ f.dstPkg.toNat = flq.package (linkDie brk) ∧ f.dstDie.toNat = linkDie brk ∧ f.vc = 5 ∧ Config.remoteKind f.payload = 1
      ∧ flq.noOutside ∧ flq.dirtyGood ∧ flq.memOk ∧ homeDie pa = linkDie brk
      ∧ pa % 1024 + (Config.remoteData f.payload).length ≤ 1024 ∧ f.part.toNat ≠ 0 ∧ flq.regionOwner pa = f.part.toNat
      ∧ flq.frzCount pa = 0 ∧ flq.collecting pa = false ∧ flq.awake (linkDie brk) = true ∧ flq.homeAwake pa hostKey none false = true := by
  have a : Config.remoteAddr (flw p).payload = 0x2000 := addr
  have d : Config.remoteData (flw p).payload = [7] := data
  simp only [a, d]
  exact ⟨by unfold linkMeets; decide +kernel, crc_ok _, by show (2 : BitVec 8) ≠ 0; decide, by show (2 : BitVec 8) ≠ 1; decide,
    by show ∀ x ∈ (flq.link brk).unacked, x.1.seq ≠ 7; decide +kernel, by show (3 : BitVec 12) = _; decide +kernel,
    by show 0 = _; decide +kernel, rfl, rfl, kind, no_outside (by decide +kernel), by decide +kernel, by show Memory.wf _ = true; decide +kernel,
    by decide, by decide, by show 1 ≠ 0; decide, by show _ = 1; decide +kernel, by decide +kernel, by decide +kernel, by decide +kernel, by decide +kernel⟩

def flack_f := ({ fl0 with seq := 7 })
def fla : Flit := sealed { fl0 with type := 0 }
theorem witness_flack :
    linkMeets fst brk false ∧ flitOk fla = true ∧ fla.type = 0 ∧ (fst.link brk).nak = false ∧ (fst.link brk).unacked = [(flack_f, 7)]
      ∧ flack_f.seq = fla.ack := by unfold linkMeets; decide +kernel

def parkPc : W64 := 0x8000000000001000
def bk1 : State := { one lg with dies := [(0, { dieOf with dcr := (offBP 2, parkPc) :: (offBP 2 + 8, 0x100000000) :: dieOf.dcr })] }
def llate : Lane := { trap := { tvec := 0x8000 }, late := [{ tag := 5, k2 := 3, k3 := 0, cpc := some 0x900, xpc := 0x900, cls := .late }] }
def sl1 : State := sup llate
def sb1 : State := { sup { trap := { tvec := 0x8000 } } with dies := [(0, { dieOf with dcr := (offBP 2, parkPc) :: (offBP 2 + 8, 0x400000000) :: dieOf.dcr })] }
def isx : Issue := iss super 1

/-! Witnesses of BoundaryEffects. -/

theorem witness_aged :
    m0.issue = some i1
      ∧ m0.cohort? i1.key = some mc :=
  by decide +kernel

theorem witness_bpark :
    bk1.issue = some i1
      ∧ bk1.cohort? i1.key = some (cohortOf bk1 user)
      ∧ (cohortOf bk1 user).priv = false
      ∧ (∀ n ∈ i1.lanes, (bk1.laneAt i1 n).preemptDue = false ∧ (bk1.laneAt i1 n).limitDue = false)
      ∧ bk1.breakAt i1 (cohortOf bk1 user) = some (2, 1)
      ∧ bk1.parkFree i1.key.die = some 0
      ∧ (bk1.die i1.key.die).parks.length = 4 :=
  by decide +kernel

def latefx_f : Effect := { tag := 5, k2 := 3, k3 := 0, cpc := some 0x900, xpc := 0x900, cls := .late }
theorem witness_latefx :
    sl1.issue = some isx
      ∧ sl1.cohort? isx.key = some (cohortOf sl1 super)
      ∧ (cohortOf sl1 super).priv = true
      ∧ (cohortOf sl1 super).halted = false
      ∧ isx.lanes = [0]
      ∧ sl1.lane? (isx.lane 0) = some llate
      ∧ llate.arrival = none
      ∧ llate.status = LaneStatus.ready
      ∧ (∀ x ∈ llate.late.drop 1, x.cls ≠ .own)
      ∧ BitVec.getLsbD llate.trap.tstat 0 = false
      ∧ (∀ x ∈ sl1.loads, x.src ≠ isx.lane 0)
      ∧ (∀ x ∈ sl1.atomics, x.src ≠ isx.lane 0)
      ∧ (∀ x ∈ sl1.qwaits, x.key ≠ isx.lane 0)
      ∧ (∀ x ∈ (sl1.core isx.key.die isx.key.core).sfu, x.key ≠ isx.lane 0)
      ∧ llate.late = [latefx_f] :=
  by decide +kernel

def bktrap_f : Lane := { trap := { tvec := 0x8000 } }
theorem witness_bktrap :
    sb1.issue = some isx
      ∧ sb1.cohort? isx.key = some (cohortOf sb1 super)
      ∧ (cohortOf sb1 super).priv = true
      ∧ (cohortOf sb1 super).halted = false
      ∧ isx.lanes = [0]
      ∧ sb1.lane? (isx.lane 0) = some bktrap_f
      ∧ bktrap_f.arrival = none
      ∧ bktrap_f.status = LaneStatus.ready
      ∧ (∀ x ∈ bktrap_f.late, x.cls ≠ .own)
      ∧ BitVec.getLsbD bktrap_f.trap.tstat 0 = false
      ∧ (∀ x ∈ sb1.loads, x.src ≠ isx.lane 0)
      ∧ (∀ x ∈ sb1.atomics, x.src ≠ isx.lane 0)
      ∧ (∀ x ∈ sb1.qwaits, x.key ≠ isx.lane 0)
      ∧ (∀ x ∈ (sb1.core isx.key.die isx.key.core).sfu, x.key ≠ isx.lane 0)
      ∧ bktrap_f.preemptDue = false
      ∧ bktrap_f.limitDue = false
      ∧ sb1.breakAt isx (cohortOf sb1 super) = some (2, 0) :=
  by decide +kernel

def arr (o : Op) (a : W64) (p : Option Nat := none) : Arrival := { op := o, form := { d := 8, a := 2 }, bytes := 4, word := 0, guard := true, a := a, b := 0, mode := 0, pend := p }
def pk (l : Lane) : State := { one l with cohorts := [(user, { coh [(0, l)] with frontier := [], gang := 7 })], issue := none }
def spk (l : Lane) : State := { world super [(0, l)] with cohorts := [(super, { coh [(0, l)] with frontier := [], priv := true })], issue := none }
def k0 : LaneKey := ⟨user, 0⟩
def w5l : Lane := { status := .parked 5 0, arrival := some (arr .mwait 0), pc := 0x1000 }
def w5 : State := pk w5l

/-! Witnesses of WakesAndActiveSet. -/

theorem witness_wk5 :
    w5.cohort? k0.coh = some (cohortOf w5 user)
      ∧ w5.lane? k0 = some w5l
      ∧ w5.awake k0.coh.die = true
      ∧ w5.pair? k0 = none
      ∧ w5l.lastReads = []
      ∧ w5l.status = LaneStatus.parked 5 0
      ∧ w5l.arrival = some (arr Op.mwait 0)
      ∧ w5.opsOf k0 = [] :=
  by decide +kernel

def w3l : Lane := { status := .parked 3 0x6000, arrival := some (arr .cwait 1), pc := 0x1000 }
def w3 : State := { pk w3l with mem := [(0x6000, 1), owner] }

theorem witness_wk3 :
    (w3l.status = LaneStatus.parked 3 24576 ∨ w3l.status = LaneStatus.parked 4 24576)
      ∧ w3.cohort? k0.coh = some (cohortOf w3 user)
      ∧ w3.lane? k0 = some w3l
      ∧ w3.awake k0.coh.die = true
      ∧ w3.pair? k0 = none
      ∧ w3l.lastReads = []
      ∧ w3l.arrival = some (arr Op.cwait 1)
      ∧ w3.wordReady k0 24576 (BitVec.toNat (arr Op.cwait 1).a) = true :=
  ⟨by exact .inl rfl, by decide +kernel⟩

def w2l : Lane := { status := .parked 2 0, arrival := some (arr .bar 0x80800000), pc := 0x1000, v := [(8, 0x80800000)] }
def w2 : State := { pk w2l with barriers := [⟨1, 7, 0, 0, 1, 1, 0, 2, []⟩] }

theorem witness_wk2 :
    w2.cohort? k0.coh = some (cohortOf w2 user)
      ∧ w2.lane? k0 = some w2l
      ∧ w2.awake k0.coh.die = true
      ∧ w2.pair? k0 = none
      ∧ w2l.lastReads = []
      ∧ w2l.status = LaneStatus.parked 2 0
      ∧ w2l.arrival = some (arr Op.bar 2155872256)
      ∧ (w2.tokenBarrier k0.coh (BitVec.toNat (arr Op.bar 2155872256).a)).complete
        (bits (BitVec.toNat (arr Op.bar 2155872256).a) 22 0) =
        true :=
  by decide +kernel

def frr : FaultRec := { rid := 3, cause := 1, acc := 0, path := 0, level := 0, dm := false, cw := 0, va := 0x9000, mask := 1, pc := 0x1000, gang := 7, die := 0, core := 0, slot := 0, tick := 5, pte := 0, waiter := .none }
def w0l : Lane := { status := .parked 0 0, arrival := some (arr .frqpop 0 (some 9)), pc := 0x1000, pend := [⟨9, 8, 16, []⟩] }
def w0 : State := { spk w0l with dies := [(0, { dieOf with frq := [frr] })] }
def ks0 : LaneKey := ⟨super, 0⟩

theorem witness_wk0 :
    w0.cohort? ks0.coh = some (cohortOf w0 super)
      ∧ w0.lane? ks0 = some w0l
      ∧ w0.awake ks0.coh.die = true
      ∧ w0.pair? ks0 = none
      ∧ w0l.lastReads = []
      ∧ w0l.status = LaneStatus.parked 0 0
      ∧ w0l.arrival = some (arr Op.frqpop 0 (some 9))
      ∧ (arr Op.frqpop 0 (some 9)).pend = some 9
      ∧ w0.faultWaiters ks0.coh.die = [(9, ks0)]
      ∧ (w0.die ks0.coh.die).frq = [frr] :=
  by decide +kernel

def hA0 : State := withLane (ran (installFrame hx l0 0x5000 0 0) h0) fun l => { l with chain := got 0 (installFrame hx l0 0x5000 0 0) h0 }
def hA : State := withLane (ran (callFrame hx ((hA0.lane? ⟨user, 0⟩).getD {}) 64 0x6000 0x40) hA0) fun l => { l with sp := got 0 (callFrame hx ((hA0.lane? ⟨user, 0⟩).getD {}) 64 0x6000 0x40) hA0 }
def lA : Lane := { (hA.lane? ⟨user, 0⟩).getD {} with status := .parked 3 0x6000, arrival := some (arr .cwait 1), pc := 0x1000, parkedCycles := 258 }
def wait0 : State := { hA with cohorts := [(user, { cohortOf hA user with frontier := [], lanes := [(0, lA)] })], issue := none }
def effA : Effect := { tag := 1, k2 := 0x6000, k3 := hwDetail 3, cpc := some 0x1000, xpc := 0x1000 }
def capA : HeapM (Option (Lane × W64)) := captureFibre (wait0.heapCtx k0) { lA with arrival := none, want := [] } effA 0x1000
def capAR : Lane × W64 := (got none capA wait0).getD ({}, 0)

theorem witness_await :
    wait0.cohort? k0.coh = some (cohortOf wait0 user)
      ∧ wait0.lane? k0 = some lA
      ∧ wait0.awake k0.coh.die = true
      ∧ wait0.pair? k0 = none
      ∧ lA.lastReads = []
      ∧ lA.status = LaneStatus.parked 3 24576
      ∧ (cohortOf wait0 user).priv = false
      ∧ (cohortOf wait0 user).halted = false
      ∧ wait0.groupParked k0.coh (cohortOf wait0 user) = false
      ∧ lA.preemptDue = false
      ∧ 258 ≤ lA.parkedCycles
      ∧ wait0.wakeDue k0 lA = false
      ∧ lA.tickets = []
      ∧ (∀ x ∈ lA.late, x.cls ≠ .own)
      ∧ wait0.heapReady k0 = true
      ∧ (∀ x ∈ wait0.matOps, x.key = k0.coh → x.octet ≠ k0.lane / 8 ∧ x.owner ≠ k0.lane)
      ∧ (∀ x ∈ wait0.qreqs, x.key ≠ k0)
      ∧ (∀ (a : Arrival), lA.arrival = some a → a.pend = none)
      ∧ (∀ x ∈ wait0.loads, x.src ≠ k0)
      ∧ (∀ x ∈ wait0.atomics, x.src ≠ k0)
      ∧ (∀ x ∈ wait0.qwaits, x.key ≠ k0)
      ∧ (∀ x ∈ (wait0.core k0.coh.die k0.coh.core).sfu, x.key ≠ k0)
      ∧ captureFibre (wait0.heapCtx k0)
        { lA with want := [], arrival := none }
        ({ tag := 1, k2 := 24576, k3 := hwDetail 3, cpc := some lA.pc, xpc := lA.pc } : Effect) lA.pc wait0 =
        Except.ok (some (capAR.1, capAR.2), ran capA wait0) :=
  by decide +kernel

def as0 : State := { one lg with cohorts := [(user, { coh [(0, lg)] with active := false })] }
def uk (n : Nat) : CohKey := ⟨0, 0, n⟩
def as1 : State := { one lg with cohorts := (List.range 5).map fun n => (uk n, { coh [(0, lg)] with active := n ≠ 4, activeCycles := if n = 2 then 5000 else 5 }) }

theorem witness_asfree :
    as0.awake 0 = true
      ∧ as0.waiting 0 0 = [(user, cohortOf as0 user)]
      ∧ as0.cohort? user = some (cohortOf as0 user)
      ∧ ((List.filter (fun (x : CohKey × Cohort) => x.2.active) (as0.coreCohorts 0 0)).length < 4) :=
  by decide +kernel

theorem witness_asdisp :
    as1.awake 0 = true
      ∧ as1.waiting 0 0 = [(uk 4, cohortOf as1 (uk 4))]
      ∧ as1.cohort? (uk 4) = some (cohortOf as1 (uk 4))
      ∧ (4 ≤ (List.filter (fun (x : CohKey × Cohort) => x.2.active) (as1.coreCohorts 0 0)).length)
      ∧ (List.filter (fun (x : CohKey × Cohort) => x.2.displaceable)
        (List.filter (fun (x : CohKey × Cohort) => x.2.active) (as1.coreCohorts 0 0)) =
        [(uk 2, cohortOf as1 (uk 2))])
      ∧ as1.cohort? (uk 2) = some (cohortOf as1 (uk 2)) :=
  by decide +kernel

def cw : State := { one lg with cohorts := [], issue := none }
/-- A bind record at 0x2000 with its context at 0x4000 and its binding table at 0. -/
def bindR : Nat := 2 ^ 64 * 0x4000 + 2 ^ 256 * 7 + 2 ^ 336 * 3 + 2 ^ 352 * 1 + 2 ^ 360 * 8
def cb : State := { cw with gangs := [] , mem := (Memory.writeN [owner] 0x2000 (toBytes bindR 64)) }
def rb : BindRec := (cb.readBind 0 0x2000).1

/-! Witnesses of CalendsWork. -/

theorem witness_calbind :
    0 < 16
      ∧ cb.calendsAwake 0 = true
      ∧ cb.readChain 0 chainLimit (64 * bits (8192) 56 6) = [rb]
      ∧ rb.start = StartKind.empty
      ∧ rb.first = false
      ∧ cb.bindOk (cb.pid 0) [rb] rb = true
      ∧ cb.admits (cb.pid 0) [] [rb] rb = true
      ∧ cb.ckState (cb.pid 0) = 0 :=
  by decide +kernel

theorem witness_calpre :
    (∀ p ∈ mc.lanes, ∀ (b : Nat) (x : W64), p.2.status ≠ LaneStatus.parked b x)
      ∧ 0 < 16
      ∧ m0.calendsAwake 0 = true
      ∧ BitVec.getLsbD (0 : W64) 63 = false
      ∧ m0.cohort? ({ die := 0, core := bits (0) 9 4, slot := bits (0) 3 0 } : CohKey) = some mc
      ∧ mc.priv = false
      ∧ (m0.die 0).preempt = none
      ∧ (∀ y ∈ m0.matOps, y.key ≠ ({ die := 0, core := bits (0) 9 4, slot := bits (0) 3 0 } : CohKey)) :=
  ⟨by exact fun p m b => lanes_not_parked (by decide +kernel) b p m, by decide +kernel⟩

def prq : PreemptReq := { target := 0, left := 0, open_ := [user], forced := 0, gangs := [7] }
def dl : State := { m0 with dies := [(0, { dieOf with preempt := some prq })], cohorts := [(user, { coh [(0, { preemptDue := true }), (3, {})] with preempting := true, halted := true, active := false })] }

theorem witness_caldl :
    dl.memOk
      ∧ 0 < 16
      ∧ dl.calendsAwake 0 = true
      ∧ (dl.die 0).preempt = some prq
      ∧ prq.left = 0
      ∧ prq.open_ = [user]
      ∧ prq.forced = 0
      ∧ user.die = 0
      ∧ dl.cohort? user = some (cohortOf dl user)
      ∧ (cohortOf dl user).preempting = true
      ∧ (cohortOf dl user).halted = true
      ∧ (cohortOf dl user).halting = false
      ∧ (List.Pairwise (fun (x1 x2 : Nat) => x1 < x2) (List.map (fun (x : Nat × Lane) => x.1) (cohortOf dl user).lanes))
      ∧ (∀ x ∈ (cohortOf dl user).lanes,
        x.2.arrival = none ∧ x.2.want = [] ∧ x.2.lastReads = [] ∧ x.2.tickets = [] ∧ x.2.obs = [])
      ∧ (∀ w ∈ dl.writes, w.src.coh ≠ user)
      ∧ dl.homeAwake (2 ^ 17 * dl.dcrBits 0 offIMGBASE 56 17) user none false = true
      ∧ dl.frzCount (2 ^ 17 * dl.dcrBits 0 offIMGBASE 56 17) = 0
      ∧ dl.frzCount (2 ^ 17 * dl.dcrBits 0 offIMGBASE 56 17 + 65536) = 0
      ∧ (dl.frzByte (2 ^ 17 * dl.dcrBits 0 offIMGBASE 56 17 + 65536) < 2 ^ 17 * dl.dcrBits 0 offIMGBASE 56 17
        ∨ 2 ^ 17 * dl.dcrBits 0 offIMGBASE 56 17 + 65536 ≤ dl.frzByte (2 ^ 17 * dl.dcrBits 0 offIMGBASE 56 17 + 65536)) :=
  ⟨by show Memory.wf _ = true; decide +kernel, by decide +kernel⟩

def gl : Gang := { id := 7, pid := 1, tlimit := 5, used := 5000 }
def lim : State := { m0 with gangs := [gl] }

theorem witness_callim :
    (∀ y ∈ lim.cohorts, ∀ p ∈ y.2.lanes, ∀ (b : Nat) (x : W64), p.2.status ≠ LaneStatus.parked b x)
      ∧ 0 < 16
      ∧ lim.calendsAwake 0 = true
      ∧ gl ∈ lim.gangs
      ∧ (∀ x ∈ lim.gangs, x.id = gl.id → x = gl)
      ∧ gl.tlimit ≠ 0
      ∧ gl.limitFired = false
      ∧ (∀ y ∈ lim.cohorts, y.2.priv = false → y.2.gang = gl.id → lim.pid y.1.die = gl.pid → lim.awake y.1.die = true)
      ∧ 1000 * gl.tlimit ≤ gl.used :=
  ⟨by intro y hy; rw [show lim.cohorts = [(user, mc)] from rfl, List.mem_singleton] at hy; subst hy; exact fun p m b => lanes_not_parked (by decide +kernel) b p m, by decide +kernel⟩

theorem witness_hlq :
    0 < 16
      ∧ cw.calendsAwake 0 = true
      ∧ (1 % 2 ^ 32 + 2 ^ 32 - cw.dcrBits 0 offHLQHEAD 31 0) % 2 ^ 32 ≤ 2 ^ cw.dcrBits 0 offHLQBASE 4 0 :=
  by decide +kernel

/-- A launch record at 0x3000 with one role at 0x5000: one fibre at 0x8000. -/
def launchR : Nat := 2 ^ 256 * 0 + 0x5000 + 0
def roleR : Nat := 0x8000 + 2 ^ 64 * 1 + 2 ^ 72 * 8 + 2 ^ 80 * 1 + 2 ^ 96 * 1
def lqh : State := { cw with dies := [(0, { dieOf with dlq := [0x3000] })], mem := Memory.writeN (Memory.writeN [owner] 0x3000 (toBytes launchR 64)) 0x5000 (toBytes roleR 32) }
def xl : Xlt := (match lqh.translate 0 noCore 0x3000 .load with | (.ok x, _) => x | _ => { pa := 0, level := 0, pte := 0 })
def xl2 : Xlt := (match lqh.translate 0 noCore 0x3038 .store with | (.ok x, _) => x | _ => { pa := 0, level := 0, pte := 0 })

theorem witness_dlqpop :
    lqh.memOk
      ∧ 0 < 16
      ∧ lqh.calendsAwake 0 = true
      ∧ (lqh.die 0).headOf true = none
      ∧ (lqh.die 0).dlq = [12288]
      ∧ lqh.translate 0 noCore (va57 12288) Acc.load = (Except.ok xl, lqh)
      ∧ lqh.badAt xl.pa 64 = false
      ∧ lqh.translate 0 noCore (va57 (12288 + 56)) Acc.store = (Except.ok xl2, lqh)
      ∧ lqh.frzCount xl2.pa = 0
      ∧ lqh.readRoles 0 (64 * bits (lqh.homeNat xl.pa 64) 56 6) (lqh.homeNat xl.pa 64 % 4 + 1) =
        (some [BitVec.ofNat 256 roleR], lqh) :=
  ⟨by show Memory.wf _ = true; decide +kernel, by decide +kernel⟩

def lhd : LaunchHead := { va := 0x3000, device := true, record := BitVec.ofNat 512 launchR, roles := [BitVec.ofNat 256 roleR], waited := 0, retry := 0 }
def cp : State := { lqh with dies := [(0, { dieOf with heads := [lhd] })], gangs := [], choices := [41, 2, 5] }
def cpu : State := { cp.modDie 0 (fun x => { x with serveDevice := false }) with choices := [5], drawn := cp.drawn + 2 }
def cprs : List BindRec := match cpu.planLaunch 0 42 2 lhd with | .chain rs => rs | _ => []

theorem witness_cpass :
    cpu.commit 0 cprs = (({ result := 1 } : BindResult), (cpu.commit 0 cprs).2)
      ∧ 0 < 16
      ∧ cp.calendsAwake 0 = true
      ∧ cp.pid 0 ≠ 0
      ∧ cp.ckState (cp.pid 0) = 0
      ∧ (∀ k < 12, (cp.die 0).posted k = [])
      ∧ (cp.die 0).requeue = []
      ∧ cp.serveQueueOf 0 = some true
      ∧ (cp.die 0).headOf true = some lhd
      ∧ cp.launchAwake 0 true = true
      ∧ lhd.retry = 0
      ∧ cp.choices = [41, 2, 5]
      ∧ cpu.planLaunch 0 (cpu.freshGang (cpu.pid 0) (41 % (2 ^ 32 - 1) + 1) cpu.gangTries) (2 % 12) lhd = Planned.chain cprs :=
  ⟨by have h : (cpu.commit 0 cprs).1 = ⟨1, 0, 0⟩ := (by decide +kernel); change cpu.commit 0 cprs = (⟨1, 0, 0⟩, (cpu.commit 0 cprs).2); rw [← h], by decide +kernel⟩

def tr0 : BitVec 512 := taskRecord 5 0x8000 3 [] false 7 0 0
def ts0 : State := { cw with dies := [(0, { dieOf with posts := [(1, [tr0])] })], gangs := [] }
def ts1 : State := { ts0 with gangs := [{ id := 7, pid := 1 }] }
def tb1 : BindRec := (ts1.taskBind 0 1 { id := 7, pid := 1 } [tr0]).getD rb

theorem witness_tdrop :
    0 < 16
      ∧ ts0.calendsAwake 0 = true
      ∧ 1 < 12
      ∧ ts0.ckState (ts0.pid 0) = 0
      ∧ numGet (ts0.die 0).postWait 1 = none
      ∧ (ts0.die 0).posted 1 = [tr0]
      ∧ ts0.gang? (ts0.pid 0) (bits tr0.toNat 511 480) = none :=
  by decide +kernel

def tbind_f : Gang := { id := 7, pid := 1 }
theorem witness_tbind :
    ts1.commit 0 [tb1] = (({ result := 1 } : BindResult), (ts1.commit 0 [tb1]).2)
      ∧ 0 < 16
      ∧ ts1.calendsAwake 0 = true
      ∧ 1 < 12
      ∧ ts1.ckState (ts1.pid 0) = 0
      ∧ numGet (ts1.die 0).postWait 1 = none
      ∧ (ts1.die 0).posted 1 = [tr0]
      ∧ ts1.gang? (ts1.pid 0) (bits tr0.toNat 511 480) = some tbind_f
      ∧ ts1.taskBind 0 1 tbind_f (frontTasks (bits tr0.toNat 511 480) [tr0] 64) = some tb1 :=
  ⟨by exact Prod.ext (by decide +kernel) rfl, by decide +kernel⟩

def pw : List (List Nat) := List.replicate 16 ((List.range 16).map fun n => 100 + 20 * n)
def arb : State := { one {} with dies := [(0, { dieOf with dcr := (offENVELOPE, 14000) :: (offDIECTL, 0x120) :: dieOf.dcr })], arbiter := 10000 }

/-! Witnesses of ClocksAndPower. -/

theorem witness_arbiter :
    0 < 16
      ∧ arb.clocked 0 = true
      ∧ 7 ≤ arb.sec.stage
      ∧ arb.sec.stage < 15
      ∧ 10000 ≤ arb.arbiter :=
  by decide +kernel

theorem witness_arbiter2 :
    0 < 16
      ∧ arb.clocked 0 = true
      ∧ 7 ≤ arb.sec.stage
      ∧ arb.sec.stage < 15
      ∧ 10000 ≤ arb.arbiter :=
  by decide +kernel

def rlk : State := { one {} with dies := [(0, { dieOf with relock := some ⟨0, 2, 5⟩ })] }

theorem witness_relock :
    0 < 16
      ∧ (rlk.die 0).relock = some ({ left := 0, next := 2, start := 5 } : Relock)
      ∧ ({ left := 0, next := 2, start := 5 } : Relock).left = 0
      ∧ rlk.clocked 0 = true
      ∧ (rlk.die 0).order = none
      ∧ rlk.noOutside :=
  ⟨by decide, by decide +kernel, by decide, by decide +kernel, by decide +kernel, no_outside (by decide +kernel)⟩

theorem witness_limit :
    0 < 16
      ∧ (one ({} : Lane)).awake 0 = true
      ∧ ((one ({} : Lane)).die 0).limited = false :=
  by decide +kernel

def thermal_f := ({ one {} with dies := [(0, { dieOf with step := 2 })] })
theorem witness_thermal :
    0 < 16
      ∧ thermal_f.sec.powered = true :=
  by decide +kernel

def thermal2_f := ({ one {} with dies := [(0, { dieOf with step := 2, hotClamp := true })] })
theorem witness_thermal2 :
    0 < 16
      ∧ thermal2_f.sec.powered = true :=
  by decide +kernel

def thermal3_f := ({ one {} with dies := [(0, { dieOf with step := 2, hotClamp := true })] })
theorem witness_thermal3 :
    0 < 16
      ∧ thermal3_f.sec.powered = true :=
  by decide +kernel

def pwm : State := { one {} with mem := [(5, 1), owner, (2 ^ 56 + 5, 2)], capsuleSeq := 5, xmssLeaf := 6 }

/-! Witnesses of PowerBootAndReset. -/

theorem witness_ptrip :
    3 < 16 :=
  by decide +kernel

def pon_f := ({ pwm with sec := { powered := false } })
theorem witness_pon :
    pon_f.sec.powered = false :=
  by decide +kernel

def bt (n : Nat) : State := { one {} with sec := { stage := n }, tick := 300000000 }

theorem witness_bfail :
    (bt 4).sec.powered = true
      ∧ (bt 4).sec.stage < 9
      ∧ stageTick ((bt 4).sec.stage + 1) ≤ (bt 4).tick :=
  by decide +kernel

theorem witness_bdone :
    (bt 1).sec.powered = true
      ∧ (bt 1).sec.stage < 9
      ∧ stageTick ((bt 1).sec.stage + 1) ≤ (bt 1).tick
      ∧ (bt 1).sec.stage ∈ [0, 1, 7] :=
  by decide +kernel

theorem witness_bhbm :
    (bt 2).sec.powered = true
      ∧ (bt 2).sec.stage < 9
      ∧ stageTick ((bt 2).sec.stage + 1) ≤ (bt 2).tick
      ∧ (bt 2).sec.stage = 2 :=
  by decide +kernel

theorem witness_bhbm2 :
    (bt 2).sec.powered = true
      ∧ (bt 2).sec.stage < 9
      ∧ stageTick ((bt 2).sec.stage + 1) ≤ (bt 2).tick
      ∧ (bt 2).sec.stage = 2 :=
  by decide +kernel

theorem witness_bports :
    (bt 8).sec.powered = true
      ∧ (bt 8).sec.stage < 9
      ∧ stageTick ((bt 8).sec.stage + 1) ≤ (bt 8).tick
      ∧ (bt 8).sec.stage = 8 :=
  by decide +kernel

theorem witness_imgload :
    (bt 3).sec.powered = true
      ∧ 1 ≤ (bt 3).sec.stage
      ∧ (bt 3).sec.stage ≤ 5
      ∧ (1 = 1 ∨ 1 = 2)
      ∧ [1, 2, 3].length ≤ 4096 :=
  by decide +kernel

theorem witness_reset0 :
    pwm.sec.powered = true
      ∧ pwm.cuts = [] :=
  by decide +kernel

theorem witness_reset1 :
    pwm.sec.powered = true :=
  by decide +kernel

def mg : State := { one {} with cohorts := [], sec := { stage := 9, images := [(1, ⟨5, 1⟩), (2, ⟨6, 2⟩)] }, vault := [{}, { state := 2, seq := 3, size := 0x9000, subj := 1 }, {}, {}], mem := [owner, (vaultAt 1 + 16, 7)] }

/-! Witnesses of ManagementAndLenmus. -/

theorem witness_ident :
    mg.sec.powered = true
      ∧ mg.sec.stage = 9 :=
  by decide +kernel

theorem witness_bootst :
    mg.sec.powered = true
      ∧ mg.sec.stage = 9 :=
  by decide +kernel

theorem witness_attest :
    mg.sec.powered = true
      ∧ mg.sec.stage = 9
      ∧ mg.xmssLeaf < xmssLeaves
      ∧ lookup mg.sec.images 1 = some ({ digest := 5, version := 1 } : Image)
      ∧ lookup mg.sec.images 2 = some ({ digest := 6, version := 2 } : Image) :=
  by decide +kernel

theorem witness_setpart :
    mg.sec.powered = true
      ∧ mg.sec.stage = 9
      ∧ 3 < 16
      ∧ 5 < 4095
      ∧ mg.residentOn 3 = false :=
  by decide +kernel

def setpart3_f := ({ one {} with gangs := [] })
theorem witness_setpart3 :
    setpart3_f.sec.powered = true
      ∧ setpart3_f.sec.stage = 9
      ∧ 0 < 16
      ∧ 5 < 4095
      ∧ setpart3_f.residentOn 0 = true :=
  by decide +kernel

def pol0 : Policy := { key := 1, zeroA := false, zeroH := false, zeroD := true, pMode := 1, cbase := 5, csize := 100 }

theorem witness_setpol :
    mg.sec.powered = true
      ∧ mg.sec.stage = 9
      ∧ 1 ≤ 4
      ∧ 4 < 4095
      ∧ pol0.pMode ≠ 3
      ∧ BitVec.toNat pol0.csize < 2 ^ 55 :=
  by decide +kernel

theorem witness_mdcr :
    mg.sec.powered = true
      ∧ mg.sec.stage = 9
      ∧ 6291456 / 2 ^ 28 = 0
      ∧ bits (6291456) 23 0 = offIDENT
      ∧ mg.dcrAwake (bits (6291456) 27 24) offIDENT = true :=
  by decide +kernel

theorem witness_pwrset :
    mg.sec.powered = true
      ∧ mg.sec.stage = 9
      ∧ 1000 ≤ 1000
      ∧ 1000 ≤ 14000 :=
  by decide +kernel

theorem witness_pwrset2 :
    mg.sec.powered = true
      ∧ mg.sec.stage = 9
      ∧ 1000 ≤ 14000
      ∧ 14000 ≤ 14000 :=
  by decide +kernel

theorem witness_vlist :
    mg.sec.powered = true
      ∧ mg.sec.stage = 9 :=
  by decide +kernel

def vread_f : VaultSlot := { state := 2, seq := 3, size := 0x9000, subj := 1 }
theorem witness_vread :
    mg.sec.powered = true
      ∧ mg.sec.stage = 9
      ∧ 1 < 4
      ∧ mg.vault.getD 1 ({} : VaultSlot) = vread_f
      ∧ vread_f.state = 2
      ∧ vread_f.lost = false
      ∧ 1 ≤ 8
      ∧ 8 ≤ 4096
      ∧ 16 + 8 ≤ vread_f.size :=
  by decide +kernel

def vrel_f : VaultSlot := { state := 2, seq := 3, size := 0x9000, subj := 1 }
theorem witness_vrel :
    mg.sec.powered = true
      ∧ mg.sec.stage = 9
      ∧ 1 < 4
      ∧ mg.vault.getD 1 ({} : VaultSlot) = vrel_f
      ∧ vrel_f.state = 2 :=
  by decide +kernel

theorem witness_lext :
    mg.sec.powered = true :=
  by decide +kernel

theorem witness_lid :
    mg.sec.powered = true :=
  by decide +kernel

theorem witness_lsam :
    mg.sec.powered = true :=
  by decide +kernel

theorem witness_ldcr :
    mg.sec.powered = true
      ∧ 6291456 / 2 ^ 28 = 0
      ∧ bits (6291456) 23 0 = offIDENT
      ∧ mg.dcrAwake (bits (6291456) 27 24) offIDENT = true :=
  by decide +kernel

theorem witness_lsel :
    mg.sec.powered = true :=
  by decide +kernel

theorem witness_lrd :
    mg.sec.powered = true :=
  by decide +kernel

theorem witness_lbyp :
    mg.sec.powered = true
      ∧ (0x7F : BitVec 8) ∉ [0x00, 0x01, 0x02, 0x10, 0x11, 0x12] :=
  by decide +kernel

/-! Witnesses of StopsAndSamples. -/

theorem witness_sarm :
    0 < 16
      ∧ m0.sec.powered = true
      ∧ m0.sol.stopped = false
      ∧ m0.sol.arm = false
      ∧ BitVec.getLsbD (9223372036854775811 : W64) 63 = true :=
  by decide +kernel

def sst : State := { m0 with sol := { stopAt := 900, arm := true, dies := 1 } }
def srs : State := { m0 with sol := { stopAt := 900, arm := true, dies := 1, stopped := true, tick := 950, resuming := true, resumeAt := 990 }, dies := [(0, { dieOf with stopped := true })] }

theorem witness_sstop :
    0 < 16
      ∧ sst.sec.powered = true
      ∧ sst.sol.arm = true
      ∧ (sst.die 0).stopped = false
      ∧ (sst.sol.dies = 0 ∨ sst.sol.dies.getLsbD 0 = true)
      ∧ BitVec.toNat sst.sol.stopAt ≤ sst.tick :=
  by decide +kernel

theorem witness_sres :
    0 < 16
      ∧ srs.sec.powered = true
      ∧ srs.sol.stopped = true :=
  by decide +kernel

theorem witness_sresume :
    0 < 16
      ∧ srs.sol.stopped = true
      ∧ srs.sol.resuming = true
      ∧ BitVec.toNat srs.sol.resumeAt ≤ srs.tick
      ∧ srs.noOutside :=
  ⟨by decide, by decide +kernel, by decide +kernel, by decide +kernel, no_outside (by decide +kernel)⟩

def prk : Park := { bp := 2, gang := 7, core := 0, role := 0, member := 0, slot := 0, prio := 0x80, pc := 0x1000, mask := 1 }
def pgo : State := { m0 with dies := [(0, { dieOf with parks := [none, some prk, none, none] })] }

theorem witness_parkgo :
    0 < 16
      ∧ pgo.calendsAwake 0 = true
      ∧ (pgo.die 0).parks.getD 1 none = some prk
      ∧ pgo.cohort? ({ die := 0, core := prk.core, slot := prk.slot } : CohKey) = some (cohortOf pgo user)
      ∧ prk.holds ({ die := 0, core := prk.core, slot := prk.slot } : CohKey) (cohortOf pgo user) = true
      ∧ (List.find? (fun (y : Entry) => decide (y.prio = prk.prio) && decide (y.pc = prk.pc)) (cohortOf pgo user).frontier =
        some ({ prio := 128, pc := 4096, mask := 1 } : Entry)) :=
  by decide +kernel

def smp : Sample := { tick := 77, pc := 0x1000, mask := 1, slot := 0, gang := 7, level := 2, out := 1, waits := [], holds := [] }
def sms : State := { m0 with cores := [((0, 0), { tlb := [tle], sample := some smp })], dies := [(0, { dieOf with dcr := (offSMPBASE, 0x8000) :: (offSMPSIZE, 0x1000) :: dieOf.dcr, sampled := 65 })] }

theorem witness_sample :
    sms.memOk
      ∧ 0 < 16
      ∧ (sms.core 0 0).sample = some smp
      ∧ sms.awake 0 = true
      ∧ sms.sampleDone 0 0 smp = true
      ∧ 4096 * sms.dcrBits 0 offSMPSIZE 31 12 ≠ 0
      ∧ sms.homeAwake (4096 * sms.dcrBits 0 offSMPBASE 56 12 + 64 * (sms.die 0).sampled % (4096 * sms.dcrBits 0 offSMPSIZE 31 12)) ⟨0, 0, 0⟩ none false = true
      ∧ sms.frzCount (4096 * sms.dcrBits 0 offSMPBASE 56 12 + 64 * (sms.die 0).sampled % (4096 * sms.dcrBits 0 offSMPSIZE 31 12)) = 0
      ∧ smp.out < 4
      ∧ 0 < 64
      ∧ smp.slot < 16
      ∧ smp.level < 256 :=
  ⟨by show Memory.wf _ = true; decide +kernel, by decide +kernel⟩

/-! Witnesses of CutsAndCapsules. -/

theorem witness_cutreq :
    0 < 16
      ∧ m0.calendsAwake 0 = true
      ∧ BitVec.getLsbD (9223372036854775809 : W64) 63 = true
      ∧ m0.cuts = []
      ∧ m0.vault.length = 4
      ∧ (m0.vault.getD 0 ({} : VaultSlot)).state = 0 :=
  by decide +kernel

def cut0 : Cut := { id := 3, t0 := 500, subj := 1, dies := [0], causes := [⟨0x1000, 5, 0, 0, 0, 0⟩], slot := 1, started := true, notified := [] }
def ringA : AlmRing := { recs := [⟨1, 0x10, 5⟩, ⟨1, 0x11, 6⟩], next := 2 }
def cu0 : State := { m0 with cuts := [cut0], vault := [{}, { state := 1 }, {}, {}] }
def cut1 : Cut := { cut0 with notified := [0] }
def cu1 : State := { cu0 with cuts := [cut1] }
def cut2 : Cut := { cut1 with frozen := [0] }
def cu2 : State := { cu0 with cuts := [cut2], cores := [((0, 0), { tlb := [tle], alm := { ringA with frozen := some 900 } })] }
def cut3 : Cut := { cut2 with copied := (List.range 49).map fun k => (0, k), sections := [⟨1, 0, 0, 1, ringA.recs.reverse, 0⟩] }
def cu3 : State := { cu0 with cuts := [cut3] }

theorem witness_cutd :
    (List.filter (fun (x : Cut) => decide (x.id = cut0.id)) cu0.cuts = [cut0])
      ∧ cut0.started = true
      ∧ cut0.isSealed = false
      ∧ 0 < 16
      ∧ cut0.notified.contains 0 = false
      ∧ cu0.awake 0 = true :=
  by decide +kernel

theorem witness_cutfr :
    (List.filter (fun (x : Cut) => decide (x.id = cut1.id)) cu1.cuts = [cut1])
      ∧ cut1.started = true
      ∧ cut1.isSealed = false
      ∧ cut1.dies.contains 0 = true
      ∧ cut1.notified.contains 0 = true
      ∧ cut1.frozen.contains 0 = false
      ∧ cut1.t0 + 256 ≤ cu1.tick
      ∧ cu1.awake 0 = true :=
  by decide +kernel

theorem witness_cutcp :
    (∀ j < 0, cut2.copied.contains (0, j) = true)
      ∧ (List.filter (fun (x : Cut) => decide (x.id = cut2.id)) cu2.cuts = [cut2])
      ∧ cut2.started = true
      ∧ cut2.isSealed = false
      ∧ 0 < 48
      ∧ cut2.frozen.contains 0 = true
      ∧ cut2.copied.contains (0, 0) = false
      ∧ cu2.awake 0 = true :=
  ⟨by intro j hj; omega, by decide +kernel⟩

theorem witness_cutseal :
    cu3.memOk
      ∧ (List.filter (fun (x : Cut) => decide (x.id = cut3.id)) cu3.cuts = [cut3])
      ∧ cut3.started = true
      ∧ cut3.isSealed = false
      ∧ (∀ d ∈ cut3.dies, cut3.copied.contains (d, 48) = true)
      ∧ cu3.sec.powered = true
      ∧ cu3.xmssLeaf < xmssLeaves
      ∧ cut3.slot < cu3.vault.length
      ∧ cut3.causes.length ≤ 8 :=
  ⟨by show Memory.wf _ = true; decide +kernel, by decide +kernel⟩

/-! Witnesses of CheckpointSteps. -/

theorem witness_ckcap :
    (∀ y ∈ m0.cohorts,
        y.2.preempting = false ∧ ∀ p ∈ y.2.lanes, ∀ (b : Nat) (k2 : W64), p.2.status ≠ LaneStatus.parked b k2)
      ∧ m0.ckAwake 0 = true
      ∧ m0.isCkDie 0 = true
      ∧ (m0.ck (m0.pid 0)).state = 0
      ∧ m0.matOps = []
      ∧ (∀ e < 16, (m0.die e).preempt = none) :=
  ⟨by intro y hy; rw [show m0.cohorts = [(user, mc)] from rfl, List.mem_singleton] at hy; subst hy; exact ⟨rfl, fun p m b => lanes_not_parked (by decide +kernel) b p m⟩, by decide +kernel⟩

def ckx : Ck := { state := 1 }
def ckb : State := { m0 with cohorts := [], cks := [(1, ckx)] }
def ckR : Bool × State := (ckb.ckFlush 1).ckWrite 0
/-- An area of size 0 takes no set. -/
theorem ckWrite_zero (s : State) (h : (s.ckArea 0).2 = 0) : (s.ckWrite 0).1 = false := by simp [State.ckWrite, h]

theorem witness_ckq0 :
    (ckb.ckFlush (ckb.pid 0)).ckWrite 0 = (ckR.1, ckR.2)
      ∧ ckR.1 = false
      ∧ ckb.ckAwake 0 = true
      ∧ ckb.isCkDie 0 = true
      ∧ (ckb.ck (ckb.pid 0)).state = 1
      ∧ ckb.ckQuiet (ckb.pid 0) = true :=
  ⟨by rw [show ckb.pid 0 = 1 from (by decide +kernel)]; exact (Prod.eta ckR).symm, by exact ckWrite_zero _ (by decide +kernel), by decide +kernel⟩

def ckto_f := ({ ckb with cks := [(1, { state := 3, waited := 1000000000 })] })
theorem witness_ckto :
    ckto_f.ckAwake 0 = true
      ∧ ckto_f.isCkDie 0 = true
      ∧ (ckto_f.ck (ckto_f.pid 0)).state = 3
      ∧ 1000000000 ≤ (ckto_f.ck (ckto_f.pid 0)).waited :=
  by decide +kernel

def ckrel_f := ({ ckb with cks := [(1, { state := 4, result := 1, epoch := 5 })], gangs := [{ id := 7, pid := 1, images := [⟨0x20000, user, 0, 0, []⟩] }] })
theorem witness_ckrel :
    ckrel_f.ckAwake 0 = true
      ∧ ckrel_f.isCkDie 0 = true
      ∧ (ckrel_f.ck (ckrel_f.pid 0)).state = 4
      ∧ ((List.map (fun (y : Nat × Die) => y.1) ckrel_f.dies).Nodup)
      ∧ ckrel_f.noOutside :=
  ⟨by decide +kernel, by decide +kernel, by decide +kernel, by decide +kernel, no_outside (by decide +kernel)⟩

def ckr0 : State := { ckb with cks := [], gangs := [], dies := [(0, { dieOf with dcr := (offCKAREA, 0x40000001) :: dieOf.dcr })] }
/-- A manifest of one chunk, number 5, stored at 1 MiB of the half at 1 GiB. -/
def ckTable : Nat := 2 ^ 20 * 5 + 2 ^ 192 * 0x100000
def ckHead : Nat := 0x4B435A31 + 2 ^ 72 * 1 + 2 ^ 96 * 3 + 2 ^ 128 * 1 + 2 ^ 192 * 128
def ckMem : List Host.Cell :=
  let m := Memory.writeN [owner] (2 ^ 30 + 64) (toBytes ckTable 64)
  Memory.writeN m (2 ^ 30) (toBytes (ckHead + 2 ^ 256 * ofBytes (shake256 (toBytes ckTable 64) 32)) 64)
def ckr1 : State := { ckr0 with mem := Memory.write ckMem (2 ^ 30 + 0x100000 + 9) 7 }
def ckm : CkManifest := ⟨0, 3, toBytes ckTable 64, true⟩

theorem witness_ckrn :
    ckr0.ckAwake 0 = true
      ∧ ckr0.isCkDie 0 = true
      ∧ ((ckr0.ck (ckr0.pid 0)).state = 0 ∨ (ckr0.ck (ckr0.pid 0)).state = 4)
      ∧ (∀ g ∈ ckr0.gangs, g.pid ≠ ckr0.pid 0)
      ∧ (Instr.ckRestoreOwn 0, ckr0.ckHalf 0 false, some 0) ∈
        [(Instr.ckRestoreOwn 0, ckr0.ckHalf 0 false, some (ckr0.dcrBits 0 offPKGID 11 0)),
        (Instr.ckRestoreSrc 0, ckr0.ckHalf 0 true, none)]
      ∧ ckr0.dcrBits 0 offCKSRC 63 52 = ckr0.dcrBits 0 offPKGID 11 0
      ∧ ckr0.ckManifest 0 (some 0) (ckr0.ckHalf 0 false) = none :=
  by decide +kernel

theorem witness_ckrs :
    ckr0.ckAwake 0 = true
      ∧ ckr0.isCkDie 0 = true
      ∧ ((ckr0.ck (ckr0.pid 0)).state = 0 ∨ (ckr0.ck (ckr0.pid 0)).state = 4)
      ∧ (∀ g ∈ ckr0.gangs, g.pid ≠ ckr0.pid 0)
      ∧ (Instr.ckRestoreSrc 0, ckr0.ckHalf 0 true, none) ∈
        [(Instr.ckRestoreOwn 0, ckr0.ckHalf 0 false, some (ckr0.dcrBits 0 offPKGID 11 0)),
        (Instr.ckRestoreSrc 0, ckr0.ckHalf 0 true, none)]
      ∧ ckr0.dcrBits 0 offCKSRC 63 52 = ckr0.dcrBits 0 offPKGID 11 0
      ∧ ckr0.ckManifest 0 none (ckr0.ckHalf 0 true) = none :=
  by decide +kernel

theorem witness_ckrm :
    ckr1.memOk
      ∧ ckr1.ckAwake 0 = true
      ∧ ckr1.isCkDie 0 = true
      ∧ ((ckr1.ck (ckr1.pid 0)).state = 0 ∨ (ckr1.ck (ckr1.pid 0)).state = 4)
      ∧ (∀ g ∈ ckr1.gangs, g.pid ≠ ckr1.pid 0)
      ∧ (Instr.ckRestoreOwn 0, ckr1.ckHalf 0 false, some 0) ∈
        [(Instr.ckRestoreOwn 0, ckr1.ckHalf 0 false, some (ckr1.dcrBits 0 offPKGID 11 0)),
        (Instr.ckRestoreSrc 0, ckr1.ckHalf 0 true, none)]
      ∧ ckr1.dcrBits 0 offCKSRC 63 52 = ckr1.dcrBits 0 offPKGID 11 0
      ∧ ckr1.ckManifest 0 (some 0) (ckr1.ckHalf 0 false) = some ckm
      ∧ ckm.sound = true
      ∧ ckm.table.length = 64
      ∧ (ckr1.ck (ckr1.pid 0)).blob = none
      ∧ bit (ofBytes ckm.table) 0 = false :=
  ⟨by show Memory.wf _ = true; decide +kernel, by decide +kernel⟩

def code : List Host.Cell := [(0x1000, 0xF0), (0x1001, 7), owner]
def su0 : State := { one {} with mem := code, agenda := [.issue user], issue := none }
def su1 : State := { su0 with agenda := [] }
def ss0 : State := { sup {} with mem := code, agenda := [.issue super], issue := none }
def nop0 : Entry := ⟨0x80, 0x1000, 1, 0⟩
def fetched (s : State) (k : CohKey) (p : Bool) (e a n : Nat) : State := (s.fetchWords k p [0] e a n).2
def ss1 : State := { ss0 with agenda := [] }
def suV : State := su1.takeAtomics user nop0.mask
def ssV : State := ss1.takeAtomics super nop0.mask
def suT : State := fetched suV user false 0x1000 0x1000 1

/-- What StepRunsInstruction asks of a cohort whose turn it is, at its entry of a nop. -/
def turnMeets (u : State) (k : CohKey) : Prop :=
  u.cohort? k = some (cohortOf u k) ∧ u.awake k.die = true ∧ (cohortOf u k).halted = false ∧ (cohortOf u k).active = true
    ∧ (cohortOf u k).stall = none ∧ ((cohortOf u k).priv = false → u.ckState (u.pid k.die) < 4) ∧ u.groupParked k (cohortOf u k) = false
    ∧ (cohortOf u k).frontier ≠ [] ∧ (cohortOf u k).select = some nop0 ∧ u.ahead k = []
    ∧ (u.takeAtomics k nop0.mask).lateFx { nop0 with key := k, bytes := 4, word := 0 } = []
    ∧ (u.takeAtomics k nop0.mask).boundaryFx { nop0 with key := k, bytes := 4, word := 0 } = Hit.none
    ∧ (u.takeAtomics k nop0.mask).heldAlone k nop0.mask = false ∧ (u.takeAtomics k nop0.mask).owesPred k nop0.mask = false

/-! Witnesses of StepRunsInstruction. -/

theorem witness_stepu :
    su0.agenda = [Turn.issue user]
      ∧ turnMeets su1 user
      ∧ suV.fetchWords user (cohortOf su1 user).priv [0] nop0.pc nop0.pc 1 = (Except.ok [2032], suT)
      ∧ suT.fetchWords user (cohortOf su1 user).priv [0] nop0.pc (nop0.pc + 4) ((wordLength 2032 - 4) / 4) = (Except.ok [], suT)
      ∧ decode (List.flatMap wordBytes [2032]) = Except.ok (Instr.nop ({} : Form), []) :=
  ⟨by decide, by unfold turnMeets; decide +kernel, by refine Prod.ext (by decide +kernel) rfl, by refine Prod.ext (by decide +kernel) rfl, by decide +kernel⟩

theorem witness_steps :
    ss0.agenda = [Turn.issue super]
      ∧ turnMeets ss1 super
      ∧ (cohortOf ss1 super).priv = true
      ∧ (Instr.nop ({} : Form)).op.isSome = true
      ∧ (Instr.nop ({} : Form)).wf = true
      ∧ (Instr.nop ({} : Form)).illegalCause (cohortOf ss1 super).peak true = none
      ∧ ssV.viewN (observerOf super) nop0.pc (encode (Instr.nop ({} : Form))).length = encode (Instr.nop ({} : Form))
      ∧ (∀ j, 4 * j < (encode (Instr.nop ({} : Form))).length →
        ssV.physOk super.die (nop0.pc + 4 * j) = true ∧ ssV.badAt (nop0.pc + 4 * j) 4 = false) :=
  ⟨by decide, by unfold turnMeets; decide +kernel, by decide +kernel, by decide +kernel, by decide +kernel, by decide +kernel, by decide +kernel, by
      intro j hj
      have l : (encode (Instr.nop ({} : Form))).length = 4 := by decide +kernel
      have e : j = 0 := by omega
      subst e
      decide +kernel⟩

def stepe_f := ({ su0 with agenda := [.event .powerLoss] })
theorem witness_stepe :
    stepe_f.agenda = [Turn.event Instr.powerLoss]
      ∧ Instr.powerLoss.op = none :=
  by decide +kernel

def stept_f := ({ su0 with agenda := [.elapse 5] })
theorem witness_stept :
    stept_f.agenda = [Turn.elapse 5] :=
  by decide +kernel

/-- Host links 0 and 1 are trained: die 15 is nearer to die 5; die 3 is three hops from both (25 R483). -/
theorem test_host_path :
    let s : State := { State.reset with sec := { links := [16, 8, 0, 0] } }
    s.hostPath 15 = some 1 ∧ s.hostPath 3 = some 0 := by decide

def steps_f := ({ su0 with agenda := [.spoil 5] })
theorem witness_stepspoil :
    steps_f.agenda = [Turn.spoil 5] :=
  by decide +kernel

/-! Further witnesses. -/

/-- Every instruction of these families may issue with the operands of `f3`. -/
theorem witness_families : ∀ o ∈ [Op.iadd, .isub, .ineg, .iabs, .imin, .imax, .lea, .imul, .imulh, .imad, .idiv, .irem, .andOp, .orOp, .xorOp, .andn,
    .notOp, .shl, .shr, .sar, .rotl, .popc, .clz, .ctz, .brev, .bfx, .bfi, .mov, .movl, .sel, .movFromK, .movToK, .fadd, .fsub, .fmul, .ffma, .ffms,
    .fnma, .fdiv, .fsqrt, .frem, .fmin, .fmax, .fminm, .fmaxm, .fabs, .fneg, .fcpys, .fcmp, .fclass, .frnd, .fcvt, .fscale, .flogb, .fdot2,
    .rcp, .rsq, .ex2, .lg2, .sin, .cos, .tanh], CanIssue s1 i1 c1 f3.guard (f3.use o) :=
  fun o m => canIssue ((by decide +kernel : ∀ o ∈ [Op.iadd, .isub, .ineg, .iabs, .imin, .imax, .lea, .imul, .imulh, .imad, .idiv, .irem, .andOp,
    .orOp, .xorOp, .andn, .notOp, .shl, .shr, .sar, .rotl, .popc, .clz, .ctz, .brev, .bfx, .bfi, .mov, .movl, .sel, .movFromK, .movToK, .fadd, .fsub,
    .fmul, .ffma, .ffms, .fnma, .fdiv, .fsqrt, .frem, .fmin, .fmax, .fminm, .fmaxm, .fabs, .fneg, .fcpys, .fcmp, .fclass, .frnd, .fcvt, .fscale,
    .flogb, .fdot2, .rcp, .rsq, .ex2, .lg2, .sin, .cos, .tanh], s1.issue = some i1 ∧ s1.cohort? i1.key = some c1 ∧ s1.mustWait i1 f3.guard (f3.use o) = false
      ∧ s1.growOk i1.key (f3.use o).writes = true) o m)

def arrives (a : W64) : Arrival := { op := .xvote, form := {}, bytes := 4, word := 0, guard := true, a := a, b := 0, mode := 0 }

/-- Contributors of a round, for each function of XVOTE and a shuffle from the lane across (CrossLaneMeanings). -/
theorem witness_contributors :
    let cs : List (Nat × Arrival) := [(0, arrives 5), (63, arrives 0)]
    (cs.map fun x => x.1).Nodup ∧ (∀ x ∈ cs, x.1 < 64) ∧ (∀ m < 4, ({ w2 := BitVec.ofNat 32 m } : Form).w2.toNat % 4 = m)
      ∧ ∃ f : Form, f.w2.getLsbD 4 = true ∧ f.w2.getLsbD 3 = false ∧ f.w2.toNat % 8 = 3 ∧ ∃ x ∈ cs, x.1 = 0 ^^^ bits f.w2.toNat 15 8 := by
  refine ⟨by decide, by decide, by decide, { w2 := 0x3F13 }, by decide, by decide, by decide, (63, arrives 0), by decide, by decide⟩

/-- Well-formed instructions of each length (DecodeAndEncodeAgree). -/
theorem witness_well_formed : ([.nop {}, .movl { d := 6, lit := some 1 }, .iadd { d := 127, a := 2, b := 3, ext := true },
    .fadd { d := 2, a := 4, ext := true, ty := 1, lit := some 0x3FF0000000000000 }] : List Instr).all (fun i => i.op.isSome && i.wf) = true := by
  decide +kernel

/-- A step from a state whose memory has its canonical form (MemoryStaysCanonical). -/
theorem witness_canonical : su0.memOk ∧ ∃ t, step su0 = .next t := by
  refine ⟨by show Memory.wf _ = true; decide +kernel, ?_⟩
  have h : (match step su0 with
    | .next _ => true
    | _ => false) = true := by decide +kernel
  revert h
  cases step su0 with
  | next t => exact fun _ => ⟨t, rfl⟩
  | fault r => exact fun h => nomatch h
  | refused r => exact fun h => nomatch h

/-- Reset lists nothing in memory. -/
theorem test_reset_memory : State.reset.mem = [] ∧ State.reset.tick = 0 := by decide +kernel

/-! What one step leaves. Expected values are those of the specification's examples (09, after R203; 10, after R231 and R243). -/

def stepped (x : Instr) (s : State) : State := match exec x s with
  | .next t => t
  | _ => s

/-- A lane after one instruction. -/
def laneAfter (x : Instr) (s : State) (n : Nat := 0) : Lane := ((stepped x s).lane? ⟨user, n⟩).getD {}

/-- Register 1 and the flags after one instruction of a lane with v2 and v3. -/
def reg1 (x : Instr) (v2 v3 : W32) : W32 × BitVec 5 :=
  let l := laneAfter x (one { v := [(2, v2), (3, v3)] })
  (l.reg 1, l.fflags)

/-- Destination 1, sources 2 and 3, of a type. -/
def ft (ty : BitVec 3) : Form := { a := 2, d := 1, b := 3, ext := true, ty := ty }
def fi (w : W32) : Form := { a := 2, d := 1, ext := true, bsel := true, w2 := w }

theorem test_iadd_saturates : reg1 (.iadd { ft 4 with xm := true }) 0x70 0x20 = (0x7F, 0) := by decide +kernel
theorem test_iadd_wraps : reg1 (.iadd (ft 4)) 0x70 0x20 = (0xFFFFFF90, 0) := by decide +kernel
theorem test_iadd_unsigned : reg1 (.iadd (ft 5)) 0x70 0x20 = (0x90, 0) := by decide +kernel
theorem test_idiv_overflow : reg1 (.idiv (ft 0)) 0x80000000 0xFFFFFFFF = (0x80000000, 0) := by decide +kernel
theorem test_idiv_truncates : reg1 (.idiv (ft 0)) (-7) 2 = (-3, 0) := by decide +kernel
theorem test_irem_sign : reg1 (.irem (ft 0)) (-7) 2 = (-1, 0) := by decide +kernel
theorem test_irem_overflow : reg1 (.irem (ft 0)) 0x80000000 0xFFFFFFFF = (0, 0) := by decide +kernel
theorem test_imulh_unsigned : reg1 (.imulh { ft 1 with b := 2 }) 0xFFFFFFFF 0 = (0xFFFFFFFE, 0) := by decide +kernel
theorem test_imulh_signed : reg1 (.imulh { ft 0 with b := 2 }) 0xFFFFFFFF 0 = (0, 0) := by decide +kernel
theorem test_bfx_extends : reg1 (.bfx (fi 0x0804)) 0xF30 0 = (0xFFFFFFF3, 0) := by decide +kernel
theorem test_bfi_inserts : reg1 (.bfi { fi 0x0804 with c := 3, ty := 1 }) 0xFFFFFFFF 0x12 = (0xFFFFF12F, 0) := by decide +kernel
theorem test_shl_wraps_count : reg1 (.shl { fi 33 with ty := 1 }) 1 0 = (2, 0) := by decide +kernel
theorem test_clz_zero : reg1 (.clz (ft 1)) 0 0 = (32, 0) := by decide +kernel
theorem test_ffma_exact : reg1 (.ffma { ft 0 with b := 2, c := 3 }) 0x3F800001 0xBF800002 = (0x28800000, 0) := by decide +kernel
theorem test_fmul_inexact : reg1 (.fmul { ft 0 with b := 2 }) 0x3F800001 0 = (0x3F800002, 1) := by decide +kernel
theorem test_fcvt_f8e4_overflow : reg1 (.fcvt { ft 4 with b := 0 }) 0x43FA0000 0 = (0x7E, 5) := by decide +kernel
theorem test_fcvt_si32_invalid : reg1 (.fcvt { a := 2, d := 1, ext := true, c := 0x10, rs := 1 }) 0x4F32D05E 0 = (0x7FFFFFFF, 16) := by
  decide +kernel
theorem test_fmin_signalling : reg1 (.fmin (ft 0)) 0x7F800001 0x40000000 = (0x40000000, 16) := by decide +kernel
theorem test_fminm_signalling : reg1 (.fminm (ft 0)) 0x7F800001 0x40000000 = (0x7FC00000, 16) := by decide +kernel
theorem test_fmin_zeros : reg1 (.fmin (ft 0)) 0 0x80000000 = (0x80000000, 0) := by decide +kernel
theorem test_frnd_exact : reg1 (.frnd { ft 0 with b := 0, xm := true }) 0xBF000000 0 = (0x80000000, 1) := by decide +kernel
theorem test_fclass_subnormal : reg1 (.fclass { ft 0 with b := 0 }) 1 0 = (0x20, 0) := by decide +kernel

/-- A register and the flags of a lane after a cross-lane instruction of the example. -/
def crossAfter (x : Instr) (r n : Nat) : W32 × BitVec 5 := ((laneAfter x x0 n).reg r, (laneAfter x x0 n).fflags)

theorem test_xred_tree : (List.range 8).map (crossAfter (.xred xred_f) 10) =
    [(0x40980000, 1), (0x40980000, 1), (0x40980000, 1), (0x40980000, 1), (0x40980000, 1), (0x40980000, 1), (0, 0), (0x40980000, 1)] := by
  decide +kernel
theorem test_xscan_order : (List.range 8).map (crossAfter (.xscan { xred_f with d := 11 }) 11) =
    [(0x3F800000, 0), (0x4B800000, 1), (0x4B800000, 1), (0, 1), (0x40400000, 1), (0x40600000, 1), (0, 0), (0x40700000, 1)] := by
  decide +kernel
theorem test_xminidx_ties : crossAfter (.xminidx { a := 4, d := 12, ext := true, ty := 1, lit := some 0xBF }) 12 7 = (3, 0)
    ∧ crossAfter (.xminidx { a := 4, d := 12, ext := true, ty := 1, lit := some 0xBF }) 13 7 = (1, 0) := by
  decide +kernel
theorem test_xshfl_down : (List.range 8).map (fun n => (crossAfter (.xshfl fsh) 14 n).1) = [3, 9, 3, 5, 3, 3, 0, 8] := by
  decide +kernel

/-! PAIR (08, after R178) and control (09, after R215; 14). -/

def pairAfter (ws : List Nat) : Lane :=
  match decodeTableWord 96 (ws.zipIdx.map fun x => x.1 * 2 ^ (32 * x.2)).sum with
  | some x => laneAfter x (one { v := [(1, 9), (2, 0xF0), (3, 1)] })
  | none => {}
theorem test_pair_halves : let l := pairAfter [0xFF0000F6, 0x00108300, 0x20408080]
    (l.reg 1, l.reg 4) = (0xF1, 0xFFFFFF0F) := by decide +kernel

/-- The pair at which lane 0 stands after an instruction at 0x1000 under priority 0x80. -/
def standsAfter (w : Nat) (l : Lane) : Option (BitVec 8 × Nat) :=
  match decodeTableWord 32 w with
  | some x => (stepped x { one l with issue := some { iss user 1 with bytes := 4 } }).pair? ⟨user, 0⟩
  | none => none
theorem test_icmp_brp : (laneAfter (.icmp { top := 9, a := 1, d := 0x11 }) (one { v := [(1, 3), (9, 4)] })).pred 1 = true
    ∧ standsAfter 0x602019F0 { p := 2 } = some (0x60, 0x100C) ∧ standsAfter 0x602019F0 {} = some (0x80, 0x1004) := by
  decide +kernel
theorem test_bra : standsAfter 0x400018F0 {} = some (0x40, 0x100C) ∧ standsAfter 0x80FFF0F0 {} = some (0x80, 0xFF8) := by
  decide +kernel
theorem test_prio : standsAfter 0x400006F0 {} = some (0x40, 0x1004) := by decide +kernel

end Sys2Proof.Tests
end

section
/-! SUPPORT. Logic, shifts, counts and bit fields write what 09 R194 to R197 say. -/

namespace Sys2Proof.Machine

/-! Counts and reversals of bits. -/

theorem popcountNat_eq_length (x n : Nat) :
    popcountNat x n = ((List.range n).filter fun k => x.testBit k).length := by
  induction n with
  | zero => rfl
  | succ n ih =>
    rw [popcountNat, ih, List.range_succ, List.filter_append, List.length_append, Nat.add_comm]
    cases h : x.testBit n <;> simp [h]

theorem clzNat_eq_log2 (n x : Nat) (hx : x < 2 ^ n) : clzNat x n = if x = 0 then n else n - 1 - x.log2 := by
  induction n with
  | zero =>
    have h0 : x = 0 := by omega
    rw [if_pos h0]; rfl
  | succ n ih =>
    rw [clzNat]
    by_cases hlt : x < 2 ^ n
    · rw [Nat.testBit_lt_two_pow hlt, ih hlt, if_neg Bool.false_ne_true]
      by_cases h0 : x = 0
      · rw [if_pos h0, if_pos h0, Nat.add_comm]
      · have hlog := (Nat.log2_lt h0).mpr hlt
        rw [if_neg h0, if_neg h0]
        omega
    · have h0 : x ≠ 0 := by have := Nat.two_pow_pos n; omega
      have hlog : x.log2 = n := (Nat.log2_eq_iff h0).mpr ⟨by omega, hx⟩
      have htop : x.testBit n = true := hlog ▸ Nat.testBit_log2 h0
      rw [htop, if_neg h0, hlog]
      simp

theorem ctzNat_eq_find (x i n : Nat) :
    ctzNat x i n = (((List.range' i n).find? fun k => x.testBit k).getD (i + n)) := by
  induction n generalizing i with
  | zero => rfl
  | succ n ih =>
    rw [ctzNat, List.range'_succ, List.find?_cons, ih]
    cases x.testBit i
    · simp; congr 1; omega
    · rfl

theorem brevNat_eq_sum (n x m : Nat) :
    brevNat n x m = ((List.range m).map fun k => if x.testBit k then 2 ^ (n - 1 - k) else 0).sum := by
  induction m with
  | zero => rfl
  | succ m ih => rw [brevNat, ih, List.range_succ, List.map_append, List.sum_append, Nat.add_comm]; simp

theorem brevNat_add_le (n x m : Nat) (hm : m ≤ n) : brevNat n x m + 2 ^ (n - m) ≤ 2 ^ n := by
  induction m with
  | zero => simp [brevNat]
  | succ m ih =>
    have hstep : 2 ^ (n - m) = 2 * 2 ^ (n - 1 - m) := by
      rw [← Nat.pow_succ']; congr 1; omega
    have hexp : n - (m + 1) = n - 1 - m := by omega
    have hih := ih (by omega)
    rw [brevNat, hexp]
    split <;> omega

theorem brevNat_lt (n x : Nat) : brevNat n x n < 2 ^ n := by
  have := brevNat_add_le n x n le_rfl
  rw [Nat.sub_self] at this
  omega

/-! Operands and results of a width. -/

theorem Lane.raw_lt (l : Lane) (f : Form) (r : Nat) : l.raw (Form.wide f) r < 2 ^ Form.n f := by
  unfold Lane.raw Form.n
  cases Form.wide f
  · exact (l.reg r).isLt
  · exact (l.regPair r).isLt

theorem notN_lt (n x : Nat) : notN n x < 2 ^ n := by
  have := Nat.two_pow_pos n
  unfold notN
  omega

theorem truncInt_cast (x : Int) (n : Nat) : (truncInt x n : Int) = x % 2 ^ n :=
  Int.toNat_of_nonneg (Int.emod_nonneg _ (by positivity))

theorem truncInt_lt (x : Int) (n : Nat) : truncInt x n < 2 ^ n := by
  have hlt := Int.emod_lt_of_pos x (b := 2 ^ n) (by positivity)
  rw [← truncInt_cast] at hlt
  exact_mod_cast hlt

theorem truncInt_mod (x : Int) {n m : Nat} (h : n ≤ m) : truncInt x m % 2 ^ n = truncInt x n := by
  zify
  rw [truncInt_cast, truncInt_cast, Int.emod_emod_of_dvd _ (pow_dvd_pow 2 h)]

theorem intOf_mod (ty x : Nat) : intOf ty (x % 2 ^ intWidth ty) = intOf ty x := by
  unfold intOf sextNat
  rw [Nat.mod_mod]

theorem intWidth_le_n (f : Form) : intWidth f.ty.toNat ≤ Form.n f := by
  have h : ∀ ty : BitVec 3, intWidth ty.toNat ≤ if (ty.toNat = 2 || ty.toNat = 3 : Bool) then 64 else 32 := by decide
  exact h f.ty

/-- An unsaturated result may first be reduced to any width that holds the type (09 R188). -/
theorem intDeliver_wrap (ty : Nat) (x : Int) {n : Nat} (h : intWidth ty ≤ n) : intDeliver ty false x = intOf ty (truncInt x n) := by
  rw [← intOf_mod ty (truncInt x n), truncInt_mod x h]
  rfl

/-- BFX in terms of the position and the length that operand B holds (09 R197). -/
theorem bfx_eq (ty a b : Nat) :
    bfx ty a b
      = (let x := intOf ty a / 2 ^ (b % 256) % 2 ^ (b / 256 % 256)
         if intSigned ty = true ∧ 0 < b / 256 % 256 then sextNat x.toNat (b / 256 % 256) else x) := by
  unfold bfx
  by_cases h : 0 < b / 256 % 256
  · simp [h, Nat.pos_iff_ne_zero.mp h]
  · simp [Nat.eq_zero_of_not_pos h]

/-- BFI in terms of the field's mask (09 R197). -/
theorem bfi_eq (n a b c : Nat) :
    bfi n a b c
      = (let m := (2 ^ (b / 256 % 256) - 1) * 2 ^ (b % 256) % 2 ^ n
         (a &&& (2 ^ n - 1 - m)) ||| (c * 2 ^ (b % 256) &&& m)) := by
  simp only [bfi, notN, Nat.mod_mod]

theorem rotlN_eq (n a c : Nat) : rotlN n a c = a * 2 ^ c ||| a / 2 ^ (n - c) := by
  rw [rotlN, Nat.shiftLeft_eq, Nat.shiftRight_eq_div_pow]

/-! Instructions whose result is a function of each lane's own registers. -/

section
variable {x : Instr} {o : Op} {f : Form}

theorem writes_of_execRegs {ok : Lane → Prop} {F : Lane → Lane} {G : Issue → Lane → RegOut}
    (hx : ∀ s, exec x s = execRegs o f s G) (hG : ∀ i l, ok l → G i l = .ok (F l, .seq)) : Writes x o f ok F := by
  intro s i c hc hok
  rw [hx]
  exact execRegs_done o f s i c G F hc fun n hn => hG i _ (hok n hn)

theorem writes_logic {g : Nat → Nat → Nat → Nat} {r : Lane → Nat} (hx : ∀ s, exec x s = logic o f s g)
    (hr : ∀ l : Lane, g (l.raw (Form.wide f) f.a.toNat) (bRaw o f l (Form.wide f)) (l.raw (Form.wide f) f.c.toNat) % 2 ^ Form.n f = r l) :
    Writes x o f (fun _ => True) fun l => l.setRaw (Form.wide f) f.d.toNat (r l) :=
  writes_of_execRegs hx fun _ l _ => by simp only [hr l]

theorem writes_shift {g : Nat → Nat → Nat} {r : Lane → Nat} (hx : ∀ s, exec x s = shift o f s g)
    (hr : ∀ l : Lane, g (l.raw (Form.wide f) f.a.toNat) (bRaw o f l false % Form.n f) % 2 ^ Form.n f = r l) :
    Writes x o f (fun _ => True) fun l => l.setRaw (Form.wide f) f.d.toNat (r l) :=
  writes_of_execRegs hx fun _ l _ => by simp only [hr l]

theorem writes_countBits {g : Nat → Nat} {r : Lane → Nat} (hx : ∀ s, exec x s = countBits o f s g)
    (hr : ∀ l : Lane, g (l.raw (Form.wide f) f.a.toNat) = r l) :
    Writes x o f (fun _ => True) fun l => l.setReg f.d.toNat (BitVec.ofNat 32 (r l)) :=
  writes_of_execRegs hx fun _ l _ => by simp only [hr l]

end

/-! The meaning of each instruction (09 R194 to R197). -/

theorem exec_andOp (f : Form) (s : State) : exec (.andOp f) s = execAndOp f s := rfl
theorem exec_orOp (f : Form) (s : State) : exec (.orOp f) s = execOrOp f s := rfl
theorem exec_xorOp (f : Form) (s : State) : exec (.xorOp f) s = execXorOp f s := rfl
theorem exec_andn (f : Form) (s : State) : exec (.andn f) s = execAndn f s := rfl
theorem exec_notOp (f : Form) (s : State) : exec (.notOp f) s = execNotOp f s := rfl
theorem exec_shl (f : Form) (s : State) : exec (.shl f) s = execShl f s := rfl
theorem exec_shr (f : Form) (s : State) : exec (.shr f) s = execShr f s := rfl
theorem exec_sar (f : Form) (s : State) : exec (.sar f) s = execSar f s := rfl
theorem exec_rotl (f : Form) (s : State) : exec (.rotl f) s = execRotl f s := rfl
theorem exec_popc (f : Form) (s : State) : exec (.popc f) s = execPopc f s := rfl
theorem exec_clz (f : Form) (s : State) : exec (.clz f) s = execClz f s := rfl
theorem exec_ctz (f : Form) (s : State) : exec (.ctz f) s = execCtz f s := rfl
theorem exec_brev (f : Form) (s : State) : exec (.brev f) s = execBrev f s := rfl
theorem exec_bfx (f : Form) (s : State) : exec (.bfx f) s = execBfx f s := rfl
theorem exec_bfi (f : Form) (s : State) : exec (.bfi f) s = execBfi f s := rfl

/-- Settles O2: each instruction writes one value per lane, and the arithmetic of 09 R194 to R197 gives that value. -/
theorem logicResults : Obligations.LogicResults := by
  unfold Obligations.LogicResults
  intro f w n a b sh put put32 always
  have ha : ∀ l, a l < 2 ^ n := fun l => l.raw_lt f f.a.toNat
  refine ⟨?and, ?or, ?xor, ?andn, ?not, ?shl, ?shr, ?sar, ?rotl, ?popc, ?clz, ?ctz, ?brev, ?bfx, ?bfi⟩
  case and => exact writes_logic (exec_andOp f) fun _ => rfl
  case or => exact writes_logic (exec_orOp f) fun _ => rfl
  case xor => exact writes_logic (exec_xorOp f) fun _ => rfl
  case andn => exact writes_logic (exec_andn f) fun _ => rfl
  case not => exact writes_logic (exec_notOp f) fun _ => Nat.mod_eq_of_lt (notN_lt _ _)
  case shl => exact writes_shift (exec_shl f) fun _ => by rw [Nat.shiftLeft_eq]
  case shr =>
    refine writes_shift (exec_shr f) fun l => ?_
    rw [Nat.shiftRight_eq_div_pow, Nat.mod_eq_of_lt (ha l), Nat.mod_eq_of_lt ((Nat.div_le_self _ _).trans_lt (ha l))]
  case sar => exact writes_shift (exec_sar f) fun _ => Nat.mod_eq_of_lt (truncInt_lt _ _)
  case rotl => exact writes_shift (exec_rotl f) fun _ => by rw [rotlN_eq]
  case popc => exact writes_countBits (exec_popc f) fun _ => popcountNat_eq_length _ _
  case clz => exact writes_countBits (exec_clz f) fun l => clzNat_eq_log2 _ _ (ha l)
  case ctz => exact writes_countBits (exec_ctz f) fun _ => by rw [ctzNat_eq_find, List.range_eq_range', Nat.zero_add]
  case brev =>
    exact writes_logic (exec_brev f) fun _ => (Nat.mod_eq_of_lt (brevNat_lt _ _)).trans (brevNat_eq_sum _ _ _)
  case bfx =>
    refine writes_of_execRegs (exec_bfx f) fun _ l _ => ?_
    simp only [intDeliver_wrap f.ty.toNat _ (intWidth_le_n f), bfx_eq]
    rfl
  case bfi =>
    refine writes_of_execRegs (exec_bfi f) fun _ l _ => ?_
    simp only [bfi_eq]
    rfl

end Sys2Proof.Machine
end

section
/-! SUPPORT. Branches, JMPR, PRIO and NOP send their lanes where 09 R210 to R212 and R215 say. -/

namespace Sys2Proof.Machine

/-! What noting a branch leaves alone (22 R430, R433). -/

theorem removeKey_insertKey {κ α : Type} [DecidableEq κ] (m : List (κ × α)) (x : κ) (a : α) :
    removeKey (insertKey m x a) x = removeKey m x := by
  induction m with
  | nil => simp [insertKey, removeKey]
  | cons p m ih =>
    obtain ⟨k, v⟩ := p
    by_cases h : k = x
    · simp [insertKey, removeKey, h]
    · simp [insertKey, removeKey, h, ih]

theorem State.die_modDie (s : State) (d d' : Nat) (g : Die → Die) :
    (s.modDie d g).die d' = if d = d' then g (s.die d) else s.die d' := by
  unfold State.die State.modDie
  rw [lookup_insertKey]
  split <;> rfl

theorem RecordsOnly.trans {s t u : State} (h : RecordsOnly s t) (h' : RecordsOnly t u) : RecordsOnly s u := by
  obtain ⟨hrest, hdies, hcores⟩ := h
  obtain ⟨hrest', hdies', hcores'⟩ := h'
  exact ⟨hrest'.trans hrest, fun d => (hdies' d).trans (hdies d), fun d n => (hcores' d n).trans (hcores d n)⟩

theorem RecordsOnly.of_same {s t : State} (hcores : ∀ d n, (t.core d n).rest = (s.core d n).rest) (hrest : t.rest = s.rest) :
    RecordsOnly s t := by
  have hdies : t.rest.dies = s.rest.dies := by rw [hrest]
  refine ⟨by rw [hrest], fun d => ?_, fun d n => by rw [hcores]⟩
  unfold State.die
  rw [show t.dies = s.dies from hdies]

theorem RecordsOnly.idle (s : State) : RecordsOnly s s.idle := .of_same (fun _ _ => rfl) rfl

/-- `t` is `s` with records noted: besides, no cohort has changed, nor the issue in progress. -/
structure Noted (s t : State) : Prop where
  records : RecordsOnly s t
  cohorts : t.cohorts = s.cohorts
  issues : t.issues = s.issues
  issue : t.issue = s.issue

namespace Noted

theorem refl (s : State) : Noted s s := ⟨.of_same (fun _ _ => rfl) rfl, rfl, rfl, rfl⟩

theorem trans {s t u : State} (h : Noted s t) (h' : Noted t u) : Noted s u :=
  ⟨h.records.trans h'.records, h'.cohorts.trans h.cohorts, h'.issues.trans h.issues, h'.issue.trans h.issue⟩

/-- An update of a core's Almanac and its count of branches. -/
theorem modCore (s : State) (d c : Nat) (g : Core → Core)
    (hg : ∀ x, { (g x).rest with branches := 0, alm := {} } = { x.rest with branches := 0, alm := {} }) : Noted s (s.modCore d c g) := by
  refine ⟨⟨rfl, fun _ => rfl, fun d' n => ?_⟩, rfl, rfl, rfl⟩
  rw [State.core_modCore]
  split
  · next h => cases h; exact hg _
  · rfl

theorem countLost (s : State) (d : Nat) (lost : Bool) : Noted s (s.countLost d lost) := by
  unfold State.countLost
  split
  · refine ⟨⟨rfl, fun d' => ?_, fun _ _ => rfl⟩, rfl, rfl, rfl⟩
    rw [State.setDcr, State.die_modDie]
    split
    · next h => cases h; simp only [removeKey_insertKey]
    · rfl
  · exact refl s

theorem almLane (s : State) (k : LaneKey) (type a : Nat) (b : W64) (ext : Option Nat) : Noted s (s.almLane k type a b ext) := by
  unfold State.almLane State.alm
  split
  · exact refl s
  · unfold State.almPut
    refine .trans (modCore _ _ _ _ ?_) (countLost _ _ _)
    exact fun _ => rfl

theorem noteBranch (s : State) (i : Issue) (n : Nat) (p : BitVec 8) (target : Option Nat) : Noted s (s.noteBranch i n p target) := by
  unfold State.noteBranch
  dsimp only
  have hcount := fun b => modCore s i.key.die i.key.core (fun x => { x with branches := b }) fun _ => rfl
  split
  · exact (hcount _).trans (almLane _ _ _ _ _ _)
  · exact hcount _

theorem noteTaken (i : Issue) (r : State × List (Nat × LaneOut)) : ∃ t, Noted r.1 t ∧ noteTaken i r = (t, r.2) := by
  unfold Machine.noteTaken
  cases takenOf r.2 with
  | none => exact ⟨r.1, refl _, rfl⟩
  | some x => exact ⟨_, noteBranch _ _ _ _ _, rfl⟩

end Noted

/-! Instructions that send their lanes to pairs (02 R33, R34). -/

theorem ReserveOnly.records {s t : State} (h : ReserveOnly s t) : RecordsOnly s t := .of_same h.core h.rest

/-- The end of an issue whose lanes have kept their registers and go on at pairs. -/
theorem LanesDone.finish_goesTo {s r : State} {i : Issue} {c : Cohort} (g : Guard) (u : RegUse) (nx : Nat → Next)
    {goesTo : Nat → BitVec 8 × Nat} (L : LanesDone s r i fun _ l => l) (hc : s.cohort? i.key = some c) (hr : RecordsOnly s r)
    (hnx : ∀ n ∈ s.executing i g, (nx n).pair i c.priv = goesTo n) :
    GoesTo s s (r.finish i u ((s.executing i g).map fun n => (n, .go (nx n)))) i c g u (fun _ l => l) goesTo := by
  obtain ⟨I, K, R⟩ := L.finish hc u ((s.executing i g).map fun n => (n, LaneOut.go (nx n)))
    (by intro x hx; obtain ⟨n, _, rfl⟩ := List.mem_map.mp hx; rfl)
  have hlk := lookup_map_self (s.executing i g) fun n => LaneOut.go (nx n)
  have hmem := State.mem_executing s i g
  refine ⟨⟨fun n l hm hl => ?_, fun n hm => ?_, I.otherLanes, I.otherPairs, I.slots, I.count, I.ended⟩, hr.trans (.of_same K R)⟩
  · have hla := State.laneAt_of s i n l hl
    rw [I.lanes n l hm hl, outOf, hlk]
    cases hp : l.passes g
    · have hn : n ∉ s.executing i g := by simp [hmem, hla, hp]
      simp [hn, hp, Lane.settle, Lane.afterAt, Next.pair]
    · have hn : n ∈ s.executing i g := by simp [hmem, hla, hp, hm]
      simp [hn, hp, Lane.settle, Lane.afterAt, hnx n hn]
  · rw [I.pairs n hm, outOf, hlk]
    cases hp : (s.laneAt i n).passes g
    · have hn : n ∉ s.executing i g := by simp [hmem, hp]
      simp [hn, LaneOut.stands, Next.pair]
    · have hn : n ∈ s.executing i g := by simp [hmem, hp, hm]
      simp [hn, LaneOut.stands, hnx n hn]

/-- An issue that notes records at most, and sends each executing lane on at `nx`. -/
theorem State.issueWith_goesTo {s : State} {i : Issue} {c : Cohort} {g : Guard} {u : RegUse}
    {w : State → List Nat → State × List (Nat × LaneOut)} (nx : Nat → Next) {goesTo : Nat → BitVec 8 × Nat} (h : CanIssue s i c g u)
    (hw : ∀ r, r.cohorts = s.cohorts →
      ∃ t, Noted r t ∧ w r (s.executing i g) = (t, (s.executing i g).map fun n => (n, .go (nx n))))
    (hnx : ∀ n ∈ s.executing i g, (nx n).pair i c.priv = goesTo n) :
    GoesTo s s (s.idle.issueWith i g u w) i c g u (fun _ l => l) goesTo := by
  have grown := State.noteGrown_only s.idle i.key u.writes
  obtain ⟨t, N, hrun⟩ := hw _ grown.cohorts
  rw [State.issueWith_run s i c g u w h, hrun]
  split
  · next hex =>
    have idle := (LanesDone.idle s i).finish_goesTo g u nx h.cohort (.idle s) hnx
    rwa [List.isEmpty_iff.mp hex] at idle
  · rw [any_stall_go, if_neg Bool.false_ne_true]
    have L : LanesDone s t i fun _ l => l := (LanesDone.grown s i u.writes).other N.cohorts N.issues (N.issue.trans grown.issue)
    exact L.finish_goesTo g u nx h.cohort ((RecordsOnly.idle s).trans (grown.records.trans N.records)) hnx

theorem State.cohort?_of_cohorts {s r : State} (h : r.cohorts = s.cohorts) (k : CohKey) : r.cohort? k = s.cohort? k := by
  unfold State.cohort?
  rw [h]

theorem State.laneAt_of_cohorts {s r : State} (h : r.cohorts = s.cohorts) (i : Issue) (n : Nat) : r.laneAt i n = s.laneAt i n := by
  unfold State.laneAt State.lane?
  rw [State.cohort?_of_cohorts h]

/-- Lanes that leave the state as it is. -/
theorem runLanes_still {G : State → Nat → State × LaneOut} {out : Nat → LaneOut} {s : State} {ns : List Nat}
    (h : ∀ n ∈ ns, G s n = (s, out n)) : runLanes G ns s = (s, ns.map fun n => (n, out n)) := by
  induction ns with
  | nil => rfl
  | cons n ns ih =>
    rw [List.forall_mem_cons] at h
    simp [runLanes, h.1, ih h.2]

section
variable {s : State} {i : Issue} {c : Cohort} {o : Op} {f : Form} {goesTo : Nat → BitVec 8 × Nat}

theorem execBranch_goesTo {indirect : Bool} {G : Issue → Lane → LaneOut} (nx : Nat → Next) (h : CanIssue s i c f.guard (f.use o))
    (hG : ∀ n, G i (s.laneAt i n) = .go (nx n)) (hnx : ∀ n, (nx n).pair i c.priv = goesTo n) :
    ∃ t, execBranch o f s indirect G = .next t ∧ GoesTo s s t i c f.guard (f.use o) (fun _ l => l) goesTo := by
  refine ⟨_, by unfold execBranch withIssue; rw [h.issue], State.issueWith_goesTo nx h (fun r hr => ?_) fun n _ => hnx n⟩
  simp only [State.laneAt_of_cohorts hr, hG]
  cases takenOf ((s.executing i f.guard).map fun n => (n, LaneOut.go (nx n))) with
  | none => exact ⟨r, .refl r, rfl⟩
  | some x => exact ⟨_, .noteBranch _ _ _ _ _, rfl⟩

/-- An instruction that changes only registers, and none of them, goes on at the next instruction. -/
theorem RegsDone.goesTo_seq {t : State} {g : Guard} {u : RegUse} {F : Nat → Lane → Lane} (h : RegsDone s t i c g u F) :
    GoesTo s s t i c g u F fun _ => (i.prio, i.nextPc c.priv) := by
  obtain ⟨I, K, R⟩ := h
  refine ⟨⟨fun n l hm hl => ?_, fun n hm => ?_, I.otherLanes, I.otherPairs, I.slots, I.count, I.ended⟩, .of_same K R⟩
  · simp only [I.lanes n l hm hl, Lane.after, Lane.afterAt, ite_self]
  · rw [I.pairs n hm, ite_self]

end

/-! Jumps to checked targets (09 R212). -/

/-- The target of JMPR in a lane is aligned, and lies in the range of the mode. -/
def jumpOk (priv : Bool) (target : W64) : Prop :=
  target.toNat % 4 = 0 ∧ if priv then target.toNat < 2 ^ 56 else canonical target = true

theorem jumpCheck_of_ok (i : Issue) {priv : Bool} {target : W64} (h : jumpOk priv target) : jumpCheck i priv target = none := by
  obtain ⟨haligned, hrange⟩ := h
  unfold jumpCheck
  rw [if_neg (not_not.mpr haligned)]
  cases priv with
  | false => rfl
  | true =>
    have hhigh : bits target.toNat 63 56 = 0 := by
      rw [bits, Nat.shiftRight_eq_div_pow, Nat.div_eq_of_lt hrange, Nat.zero_mod]
    simp [hhigh]

/-- Where a checked jump goes. -/
def jumpTo (priv : Bool) (target : W64) : Nat := target.toNat % (if priv then 2 ^ 64 else 2 ^ 57)

theorem jumpOut_of_ok {priv : Bool} (prio : BitVec 8) {target : W64} (h : jumpOk priv target) :
    jumpOut priv prio target = .go (.goesTo prio (jumpTo priv target)) := by
  obtain ⟨-, hrange⟩ := h
  unfold jumpOut jumpTo
  cases priv with
  | false => simp [show canonical target = true from hrange]
  | true => simp [Nat.mod_eq_of_lt target.isLt]

/-- Where JMPR sends a lane whose target is checked. -/
def jmprNext (f : Form) (priv : Bool) (l : Lane) : Next :=
  .goesTo (jumpPrio .jmpr f l) (jumpTo priv (l.regPair f.a.toNat))

theorem wildLanes_jmpr (f : Form) (ns : List Nat) (lane : Nat → Lane) :
    wildLanes (ns.map fun n => (n, .go (jmprNext f false (lane n)))) = [] := by
  unfold wildLanes
  rw [List.filterMap_eq_nil_iff]
  intro x hx
  obtain ⟨n, -, rfl⟩ := List.mem_map.mp hx
  have hlt : jumpTo false ((lane n).regPair f.a.toNat) < 2 ^ 57 := Nat.mod_lt _ (by decide)
  exact if_neg (Nat.not_le.mpr hlt)

theorem holdJumps_of_no_wild (i : Issue) (priv : Bool) (last : List Nat) (r : State × List (Nat × LaneOut))
    (h : priv = false → wildLanes r.2 = []) : holdJumps i priv last r = r := by
  have hwild : (if priv then [] else wildLanes r.2) = [] := by
    cases priv with
    | false => exact h rfl
    | true => rfl
  unfold holdJumps
  simp [hwild, dedup, foldState]

theorem execJmpr_goesTo {s : State} {i : Issue} {c : Cohort} {f : Form} (h : CanIssue s i c f.guard (f.use .jmpr))
    (hok : ∀ n ∈ s.executing i f.guard, jumpOk c.priv ((s.laneAt i n).regPair f.a.toNat)) :
    ∃ t, execJmpr f s = .next t ∧ GoesTo s s t i c f.guard (f.use .jmpr) (fun _ l => l) fun n =>
      (BitVec.ofNat 8 (bRaw .jmpr f (s.laneAt i n) false), jumpTo c.priv ((s.laneAt i n).regPair f.a.toNat)) := by
  refine ⟨_, by unfold execJmpr withIssue; rw [h.issue],
    State.issueWith_goesTo (fun n => jmprNext f c.priv (s.laneAt i n)) h (fun r hr => ?_) fun _ _ => rfl⟩
  have hpriv : r.issuePriv i = c.priv := by rw [State.issuePriv, State.cohort?_of_cohorts hr, h.cohort]
  dsimp only
  rw [hpriv, runLanes_still (out := fun n => .go (jmprNext f c.priv (s.laneAt i n))), holdJumps_of_no_wild]
  · exact Noted.noteTaken i (r, _)
  · intro hp
    rw [hp]
    exact wildLanes_jmpr _ _ _
  · intro n hn
    rw [State.laneAt_of_cohorts hr, jumpCheck_of_ok i (hok n hn), jumpOut_of_ok _ (hok n hn)]
    rfl

theorem execPrio_goesTo {s : State} {i : Issue} {c : Cohort} {f : Form} (h : CanIssue s i c f.guard (f.use .prio)) :
    ∃ t, execPrio f s = .next t ∧ GoesTo s s t i c f.guard (f.use .prio) (fun _ l => l) fun _ => (Form.pri f, i.nextPc c.priv) := by
  refine ⟨_, by unfold execPrio execLanes withIssue; rw [h.issue],
    State.issueWith_goesTo (fun _ => .goesTo (Form.pri f) (i.nextPc c.priv)) h (fun r hr => ⟨r, .refl r, ?_⟩) fun _ _ => rfl⟩
  exact runLanes_still fun n _ => by simp only [State.cohort?_of_cohorts hr, h.cohort]

/-- Where BRP sends a lane (09 R211). -/
def brpNext (f : Form) (l : Lane) (target : Nat) : Next :=
  if l.pred (Form.brpPred f) = !Form.brpSense f then .goesTo (Form.pri f) target else .seq

theorem brpOut_eq (f : Form) (l : Lane) (target : Nat) : brpOut f l target = .go (brpNext f l target) := by
  unfold brpOut brpNext
  split <;> rfl

theorem brpNext_pair (f : Form) (l : Lane) (target : Nat) (i : Issue) (priv : Bool) :
    (brpNext f l target).pair i priv
      = if l.pred (Form.brpPred f) = !Form.brpSense f then (Form.pri f, target) else (i.prio, i.nextPc priv) := by
  unfold brpNext
  split <;> rfl

/-! The meaning of each instruction (09 R210 to R215). -/

theorem exec_bra (f : Form) (s : State) : exec (.bra f) s = execBra f s := rfl
theorem exec_braLong (f : Form) (s : State) : exec (.braLong f) s = execBraLong f s := rfl
theorem exec_brp (f : Form) (s : State) : exec (.brp f) s = execBrp f s := rfl
theorem exec_brpLong (f : Form) (s : State) : exec (.brpLong f) s = execBrpLong f s := rfl
theorem exec_prio (f : Form) (s : State) : exec (.prio f) s = execPrio f s := rfl
theorem exec_nop (f : Form) (s : State) : exec (.nop f) s = execNop f s := rfl
theorem exec_jmpr (f : Form) (s : State) : exec (.jmpr f) s = execJmpr f s := rfl

/-- Settles O29: a control instruction keeps every register of its lanes, sends them to their pairs, and notes a taken branch. -/
theorem branchTargets : Obligations.BranchTargets := by
  unfold Obligations.BranchTargets
  intro s i c f at_ pri seq goes brp
  refine ⟨?bra, ?braLong, ?brp, ?brpLong, ?prio, ?nop, ?word, ?jmpr⟩
  case bra =>
    intro h
    rw [exec_bra]
    exact execBranch_goesTo (fun _ => .goesTo pri _) h (fun _ => rfl) fun _ => rfl
  case braLong =>
    intro h
    rw [exec_braLong]
    exact execBranch_goesTo (fun _ => .goesTo pri _) h (fun _ => rfl) fun _ => rfl
  case brp =>
    intro h
    rw [exec_brp]
    exact execBranch_goesTo (fun n => brpNext f (s.laneAt i n) _) h (fun _ => brpOut_eq _ _ _) fun _ => brpNext_pair _ _ _ _ _
  case brpLong =>
    intro h
    rw [exec_brpLong]
    exact execBranch_goesTo (fun n => brpNext f (s.laneAt i n) _) h (fun _ => brpOut_eq _ _ _) fun _ => brpNext_pair _ _ _ _ _
  case prio =>
    intro h
    rw [exec_prio]
    exact execPrio_goesTo h
  case nop =>
    intro h
    rw [exec_nop]
    obtain ⟨t, ht, hdone⟩ := execRegs_done .nop f s i c (fun _ l => .ok (l, .seq)) (fun l => l) h fun _ _ => rfl
    exact ⟨t, ht, hdone.goesTo_seq⟩
  case word => decide +kernel
  case jmpr =>
    intro hok h
    rw [exec_jmpr]
    exact execJmpr_goesTo h hok

end Sys2Proof.Machine
end

section
/-! SUPPORT. Sign instructions act on sign bits only; FCMP and FCLASS write their conditions and classes (10 R226 to R228). -/

namespace Sys2Proof.Machine

/-! Masks of bits. -/

theorem or_eq_add_of_and_eq_zero {a b : Nat} (h : a &&& b = 0) : a ||| b = a + b := by
  have hlt : a + b < 2 ^ (a + b) := Nat.lt_two_pow_self
  have hbits := BitVec.add_eq_or_of_and_eq_zero (BitVec.ofNat (a + b) a) (BitVec.ofNat (a + b) b) (by rw [← BitVec.ofNat_and, h])
  rw [← BitVec.ofNat_add, ← BitVec.ofNat_or] at hbits
  have hnat := congrArg BitVec.toNat hbits
  rw [BitVec.toNat_ofNat, BitVec.toNat_ofNat, Nat.mod_eq_of_lt hlt,
    Nat.mod_eq_of_lt (Nat.or_lt_two_pow (by omega) (by omega))] at hnat
  exact hnat.symm

theorem testBit_notN (n x k : Nat) : (notN n x).testBit k = (decide (k < n) && !x.testBit k) := by
  have hx : x % 2 ^ n < 2 ^ n := Nat.mod_lt _ (Nat.two_pow_pos n)
  rw [notN, Nat.sub_right_comm, Nat.sub_sub, Nat.testBit_two_pow_sub_succ hx, Nat.testBit_mod_two_pow]
  cases decide (k < n) <;> rfl

theorem and_notN_and (n a b m : Nat) : (a &&& notN n m) &&& (b &&& m) = 0 := by
  refine Nat.eq_of_testBit_eq fun k => ?_
  simp only [Nat.testBit_and, testBit_notN, Nat.zero_testBit]
  cases m.testBit k <;> simp

theorem and_notN_or (n m : Nat) {a : Nat} (h : a < 2 ^ n) : (a &&& notN n m) ||| (a &&& m) = a := by
  refine Nat.eq_of_testBit_eq fun k => ?_
  simp only [Nat.testBit_or, Nat.testBit_and, testBit_notN]
  by_cases hk : k < n
  · cases m.testBit k <;> simp [hk]
  · have hle : a < 2 ^ k := h.trans_le (Nat.pow_le_pow_right two_pos (Nat.le_of_not_lt hk))
    simp [Nat.testBit_lt_two_pow hle]

/-- To clear the bits of a mask is to take them off. -/
theorem and_notN_eq_sub (n m : Nat) {a : Nat} (h : a < 2 ^ n) : a &&& notN n m = a - (a &&& m) := by
  have hsum := or_eq_add_of_and_eq_zero (and_notN_and n a a m)
  rw [and_notN_or n m h] at hsum
  omega

/-- To put the bits of a mask from another number is to take them off, and to add that number's. -/
theorem and_notN_or_and (n m b : Nat) {a : Nat} (h : a < 2 ^ n) :
    (a &&& notN n m) ||| (b &&& m) = a - (a &&& m) + (b &&& m) := by
  rw [or_eq_add_of_and_eq_zero (and_notN_and n a b m), and_notN_eq_sub n m h]

/-! Floating operands (10 R218) and their sign bits (10 R226). -/

theorem fltBits_lt (ty x : Nat) : fltBits ty x < 2 ^ 64 := by
  unfold fltBits
  split <;> omega

theorem Lane.fopnd_lt (l : Lane) (ty r : Nat) : l.fopnd ty r < 2 ^ 64 := fltBits_lt _ _

theorem signBits_eq (ty : Nat) :
    signBits ty = if ty = 6 ∨ ty = 7 then 0x80008000 else 2 ^ ((fmtOf ty).width - 1) := by
  have hwidth : (fmtOf ty).width - 1 = (fmtOf ty).ew + (fmtOf ty).tw := by
    rw [Fmt.width]
    omega
  simp only [signBits, Bool.or_eq_true, decide_eq_true_eq, Fmt.signBit, hwidth]

/-! Instructions whose result comes with flags (10 R219; 05 R99). -/

theorem withFlags_of_disabled (i : Issue) (l : Lane) {fl : BitVec 5} (w : Lane → Lane) (h : fl &&& l.fenable = 0) :
    withFlags i l fl w = .ok (w { l with fflags := l.fflags ||| fl }, .seq) := by
  rw [withFlags, if_neg (not_not.mpr h)]

theorem withFlags_zero (i : Issue) (l : Lane) (w : Lane → Lane) : withFlags i l 0 w = .ok (w l, .seq) := by
  simpa using withFlags_of_disabled i l w (fl := 0) BitVec.zero_and

section
variable {x : Instr} {o : Op} {f : Form}

theorem writes_fltOp_of_no_flags {g r : Lane → Nat} (hx : ∀ s, exec x s = fltOp o f s fun l => (g l, 0)) (hr : ∀ l, g l = r l) :
    Writes x o f (fun _ => True) fun l => l.fwr f.ty.toNat f.d.toNat (r l) :=
  writes_of_execRegs hx fun i l _ => by rw [withFlags_zero, ← hr]

end

/-! Comparison and classes (10 R227, R228). -/

theorem fcmpCond_flag (t : Fmt) (signal : Bool) (cond a b : Nat) :
    (fcmpCond t signal cond a b).2
      = if (fvalue t a).isSnan ∨ (fvalue t b).isSnan ∨ (signal = true ∧ ((fvalue t a).isNan || (fvalue t b).isNan) = true) then flagNV
        else 0 := by
  simp only [fcmpCond, Bool.or_eq_true, Bool.and_eq_true, or_assoc]

/-- The table of R227 as a chain of tests; the model's last row serves OR and every number above it. -/
theorem fcmpCond_holds (t : Fmt) (signal : Bool) (cond a b : Nat) :
    (fcmpCond t signal cond a b).1
      = (let un := (fvalue t a).isNan || (fvalue t b).isNan
         let order := fcompare (fvalue t a) (fvalue t b)
         if cond = 0 then !un && decide (order = 0) else if cond = 1 then un || decide (order ≠ 0)
         else if cond = 2 then !un && decide (order < 0) else if cond = 3 then !un && decide (0 ≤ order)
         else if cond = 4 then !un && decide (order ≤ 0) else if cond = 5 then !un && decide (0 < order)
         else if cond = 6 then un else !un) :=
  match cond with
  | 0 | 1 | 2 | 3 | 4 | 5 | 6 | _ + 7 => rfl

/-- The bit of a value's class (10 R228). -/
def classBit (t : Fmt) : FVal → Nat
  | .inf neg => if neg then 0 else 7
  | .nan signalling => if signalling then 8 else 9
  | .zero neg => if neg then 3 else 4
  | .fin neg m e => if e + bitLen m - 1 < 1 - (t.bias : Int) then (if neg then 2 else 5) else (if neg then 1 else 6)

/-- The class word is one-hot. -/
theorem fclassWord_eq_two_pow (t : Fmt) (a : Nat) : fclassWord t a = 2 ^ classBit t (fvalue t a) := by
  unfold fclassWord
  cases fvalue t a with
  | inf neg => cases neg <;> rfl
  | nan signalling => cases signalling <;> rfl
  | zero neg => cases neg <;> rfl
  | fin neg m e =>
    by_cases hsub : e + bitLen m - 1 < 1 - (t.bias : Int) <;> cases neg <;> simp [classBit, hsub]

/-! The meaning of each instruction (10 R226 to R228). -/

theorem exec_fabs (f : Form) (s : State) : exec (.fabs f) s = execFabs f s := rfl
theorem exec_fneg (f : Form) (s : State) : exec (.fneg f) s = execFneg f s := rfl
theorem exec_fcpys (f : Form) (s : State) : exec (.fcpys f) s = execFcpys f s := rfl
theorem exec_fcmp (f : Form) (s : State) : exec (.fcmp f) s = execFcmp f s := rfl
theorem exec_fclass (f : Form) (s : State) : exec (.fclass f) s = execFclass f s := rfl

/-- Settles O9: each instruction raises no flag, and its masks are the arithmetic of sign bits. -/
theorem signResults : Obligations.SignResults := by
  unfold Obligations.SignResults
  intro f ty sign a put always
  have hsign : signBits ty = sign := signBits_eq ty
  have ha : ∀ l, a l < 2 ^ 64 := fun l => l.fopnd_lt ty f.a.toNat
  refine ⟨?fabs, ?fneg, ?fcpys⟩
  case fabs => exact writes_fltOp_of_no_flags (exec_fabs f) fun l => hsign ▸ and_notN_eq_sub 64 (signBits ty) (ha l)
  case fneg => exact writes_fltOp_of_no_flags (exec_fneg f) fun l => congrArg (a l ^^^ ·) hsign
  case fcpys => exact writes_fltOp_of_no_flags (exec_fcpys f) fun l => hsign ▸ and_notN_or_and 64 (signBits ty) _ (ha l)

/-- Settles O10: FCMP writes the predicate of its condition under the flag it raises, and FCLASS the power of its class's bit. -/
theorem compareResults : Obligations.CompareResults := by
  unfold Obligations.CompareResults
  intro f ty t cond x y un nv order r
  refine ⟨?fcmp, ?fclass⟩
  case fcmp =>
    refine writes_of_execRegs (exec_fcmp f) fun i l hok => ?_
    have hcmp : fcmpCond t f.xm (Form.cond f) (l.fopnd ty f.a.toNat) (fopndB .fcmp f l ty) = (r l, nv l) :=
      Prod.ext (fcmpCond_holds ..) (fcmpCond_flag ..)
    dsimp only
    rw [hcmp]
    exact withFlags_of_disabled i l _ hok
  case fclass =>
    refine writes_of_execRegs (exec_fclass f) fun _ l _ => ?_
    rw [fclassWord_eq_two_pow]
    rfl

end Sys2Proof.Machine
end

section
/-! SUPPORT. A FENCE that waits for nothing ends the fences of its lanes and advances them (11 R261, 07 R147); a PREF only advances
(11 R262). -/

namespace Sys2Proof.Machine

/-! An update of one lane. -/

theorem State.modLane_eq_cohorts (s : State) (k : LaneKey) (g : Lane → Lane) :
    s.modLane k g = { s with cohorts := (s.modLane k g).cohorts } := by
  unfold State.modLane
  split
  · unfold State.setLane State.modCohort
    split <;> rfl
  · rfl

theorem State.modLane_idle (s : State) (k : LaneKey) (g : Lane → Lane) : s.idle.modLane k g = (s.modLane k g).idle := by
  have hlane : s.idle.lane? k = s.lane? k := rfl
  have hcohort : s.idle.cohort? k.coh = s.cohort? k.coh := rfl
  unfold State.modLane
  rw [hlane]
  split
  · unfold State.setLane State.modCohort
    rw [hcohort]
    split <;> rfl
  · rfl

theorem State.lane?_modLane_frame {α : Type} (p : Lane → α) (s : State) (k k' : LaneKey) {g : Lane → Lane} (hg : ∀ l, p (g l) = p l) :
    ((s.modLane k g).lane? k').map p = (s.lane? k').map p := by
  unfold State.modLane
  split
  · next l hl =>
    rw [State.setLane, State.lane?_modCohort]
    split
    · next hcoh =>
      obtain ⟨c, hc, hcl⟩ := Option.bind_eq_some_iff.mp hl
      rw [hc, Option.bind_some, State.lane?, ← hcoh, hc, Option.bind_some]
      show (numGet (numSet c.lanes k.lane (g l)) k'.lane).map p = (numGet c.lanes k'.lane).map p
      rw [numGet_numSet]
      split
      · next hlane => rw [← hlane, show numGet c.lanes k.lane = some l from hcl, Option.map_some, Option.map_some, hg]
      · rfl
    · rfl
  · rfl

/-! What is ready does not depend on the issue in progress. -/

theorem State.withDeps_idle (s : State) (ids : List Nat) (fuel : Nat) : s.idle.withDeps ids fuel = s.withDeps ids fuel := by
  induction fuel generalizing ids with
  | zero => rfl
  | succ fuel ih =>
    unfold State.withDeps
    simp only [ih]
    rfl

theorem State.fenceReady_idle (s : State) (k : LaneKey) (scope : Nat) (ps : List Path) :
    s.idle.fenceReady k scope ps = s.fenceReady k scope ps := by
  unfold State.fenceReady State.observedDone
  simp only [State.withDeps_idle]
  rfl

/-! The end of one lane's fence. -/

theorem FenceOnly.refl (s : State) : FenceOnly s s := ⟨rfl, rfl, fun _ h => h⟩

theorem FenceOnly.trans {s t u : State} (h : FenceOnly s t) (h' : FenceOnly t u) : FenceOnly s u := by
  obtain ⟨hrest, hwrites, hviews⟩ := h
  obtain ⟨hrest', hwrites', hviews'⟩ := h'
  exact ⟨hrest'.trans hrest, hwrites'.trans hwrites, fun v hv => hviews v (hviews' v hv)⟩

/-- A lane that keeps other writes of its own. -/
def Lane.withMade (l : Lane) (ids : List Nat) : Lane := { l with made := ids }

@[simp] theorem Lane.withMade_withMade (l : Lane) (ids ids' : List Nat) : (l.withMade ids).withMade ids' = l.withMade ids' := rfl

/-- The state in which the writes that a fence names are noted as fenced. -/
def State.noteFenced (s : State) (k : LaneKey) (scope : Nat) (ps : List Path) : State :=
  { s with writes := s.writes.map fun w =>
      if ps.any fun p => s.pathWrite k p w then { w with fenced := some (max scope (w.fenced.getD 0)) } else w }

/-- What a lane keeps of the writes it has made, after a fence. -/
def State.madeAfter (s : State) (k : LaneKey) (ps : List Path) (made : List Nat) : List Nat :=
  dedup (made.filter s.inFlight ++ (s.writes.filter fun w => ps.any fun p => s.pathWrite k p w).map fun w => w.id)

/-- The three parts of the end of a fence. -/
theorem State.endFence_eq (s : State) (k : LaneKey) (scope : Nat) (ps : List Path) :
    s.endFence k scope ps
      = ((s.noteFenced k scope ps).modLane k fun l => l.withMade (s.madeAfter k ps l.made)).settleViews := rfl

theorem State.endFence_fenceOnly (s : State) (k : LaneKey) (scope : Nat) (ps : List Path) : FenceOnly s (s.endFence k scope ps) := by
  rw [State.endFence_eq, State.modLane_eq_cohorts]
  refine ⟨rfl, ?_, fun v hv => List.mem_of_mem_filter hv⟩
  show (List.map _ s.writes).map _ = _
  rw [List.map_map]
  refine List.map_congr_left fun w _ => ?_
  rw [Function.comp_apply]
  split <;> rfl

theorem State.endFence_idle (s : State) (k : LaneKey) (scope : Nat) (ps : List Path) :
    s.idle.endFence k scope ps = (s.endFence k scope ps).idle := by
  have hlane := State.modLane_idle (s.noteFenced k scope ps) k fun l => l.withMade (s.madeAfter k ps l.made)
  exact congrArg State.settleViews hlane

theorem State.laneAt_endFence_fenceFx (s : State) (i : Issue) (k : LaneKey) (scope : Nat) (ps : List Path) (n : Nat) :
    ((s.endFence k scope ps).laneAt i n).fenceFx = (s.laneAt i n).fenceFx := by
  have hlane : ((s.endFence k scope ps).lane? (i.lane n)).map Lane.fenceFx = (s.lane? (i.lane n)).map Lane.fenceFx :=
    State.lane?_modLane_frame Lane.fenceFx _ k _ fun _ => rfl
  have hdefault : ∀ o : Option Lane, (o.getD {}).fenceFx = (o.map Lane.fenceFx).getD [] := fun o => by cases o <;> rfl
  unfold State.laneAt
  rw [hdefault, hdefault, hlane]

theorem LanesDone.endFence {s r : State} {i : Issue} {F : Nat → Lane → Lane} (h : LanesDone s r i F) {n : Nat}
    (hn : i.mask.getLsbD n = true) (scope : Nat) (ps : List Path) :
    ∃ made : Lane → List Nat, LanesDone s (r.endFence (i.lane n) scope ps) i
      fun m l => if m = n then (F m l).withMade (made (F m l)) else F m l := by
  have noted : LanesDone s (r.noteFenced (i.lane n) scope ps) i F := h.other rfl rfl h.issue
  have kept := noted.modLane hn fun l => l.withMade (r.madeAfter (i.lane n) ps l.made)
  rw [State.endFence_eq]
  exact ⟨fun l => r.madeAfter (i.lane n) ps l.made, kept.other rfl rfl kept.issue⟩

/-! The fences of lanes with no effect pending, one after another. -/

/-- The state in which the fences of lanes have ended, none of which has an effect pending. -/
def State.endFences (s : State) (i : Issue) (scope : Nat) (ps : List Path) (ns : List Nat) : State :=
  foldState (fun (t : State) n => t.endFence (i.lane n) scope ps) ns s

theorem State.fenceLanes_of_quiet (s : State) (i : Issue) (scope : Nat) (ps : List Path) (ns : List Nat)
    (h : ∀ n ∈ ns, (s.laneAt i n).fenceFx = []) : s.fenceLanes i scope ps ns = (s.endFences i scope ps ns, []) := by
  induction ns generalizing s with
  | nil => rfl
  | cons n ns ih =>
    rw [List.forall_mem_cons] at h
    obtain ⟨hn, hns⟩ := h
    have hlane : s.fenceLane i scope ps n = (s.endFence (i.lane n) scope ps, none) := by
      simp only [State.fenceLane, hn, ite_self]
    have hrest := ih (s.endFence (i.lane n) scope ps) fun m hm => by rw [State.laneAt_endFence_fenceFx, hns m hm]
    simp only [State.fenceLanes, hlane, hrest]
    rfl

theorem State.endFences_fenceOnly (s : State) (i : Issue) (scope : Nat) (ps : List Path) (ns : List Nat) :
    FenceOnly s (s.endFences i scope ps ns) := by
  induction ns generalizing s with
  | nil => exact .refl s
  | cons n ns ih => exact (s.endFence_fenceOnly (i.lane n) scope ps).trans (ih _)

theorem State.endFences_idle (s : State) (i : Issue) (scope : Nat) (ps : List Path) (ns : List Nat) :
    s.idle.endFences i scope ps ns = (s.endFences i scope ps ns).idle := by
  induction ns generalizing s with
  | nil => rfl
  | cons n ns ih =>
    show (s.idle.endFence (i.lane n) scope ps).endFences i scope ps ns = _
    rw [State.endFence_idle, ih]
    rfl

theorem LanesDone.endFences {s r : State} {i : Issue} {F : Nat → Lane → Lane} (h : LanesDone s r i F) (scope : Nat) (ps : List Path)
    {ns : List Nat} (hns : ∀ n ∈ ns, i.mask.getLsbD n = true) :
    ∃ made : Nat → Lane → List Nat, LanesDone s (r.endFences i scope ps ns) i
      fun n l => if n ∈ ns then (F n l).withMade (made n l) else F n l := by
  induction ns generalizing r F with
  | nil => exact ⟨fun _ _ => [], h.congr fun n l _ _ => by simp⟩
  | cons n ns ih =>
    rw [List.forall_mem_cons] at hns
    obtain ⟨made, h1⟩ := h.endFence hns.1 scope ps
    obtain ⟨later, h2⟩ := ih h1 hns.2
    refine ⟨fun m l => if m ∈ ns then later m l else made (F m l), h2.congr fun m l _ _ => ?_⟩
    obtain rfl | hmn := eq_or_ne m n
    · by_cases hm : m ∈ ns <;> simp [hm]
    · by_cases hm : m ∈ ns <;> simp [hm, hmn]

/-- The fences of executing lanes change nothing of them but what they have made. -/
theorem LanesDone.fenced (s : State) (i : Issue) (scope : Nat) (ps : List Path) {ns : List Nat} (hns : ∀ n ∈ ns, i.mask.getLsbD n = true) :
    LanesDone s (s.endFences i scope ps ns).idle i
      fun n l => if n ∈ ns then l.withMade ((s.endFences i scope ps ns).madeBy i n) else l := by
  obtain ⟨made, h⟩ := (LanesDone.idle s i).endFences scope ps hns
  rw [State.endFences_idle] at h
  refine h.congr fun n l hm hl => ?_
  split
  · next hn =>
    have hlane := h.lanes n hm
    rw [hl, Option.map_some, if_pos hn] at hlane
    have hmade : (s.endFences i scope ps ns).madeBy i n = made n l := congrArg Lane.made (State.laneAt_of _ i n _ hlane)
    rw [hmade]
  · rfl

/-! The end of an issue. -/

theorem Noted.fenceRecords (s : State) (i : Issue) (mask scope : Nat) (ns : List Nat) : Noted s (s.fenceRecords i mask scope ns) := by
  have hfold : ∀ t : State, Noted t
      (foldState (fun (t : State) n => t.almLane (i.lane n) 0x23 (mask + 32 * scope) (BitVec.ofNat 64 i.pc)) ns t) := by
    intro t
    induction ns generalizing t with
    | nil => exact .refl t
    | cons n ns ih => exact (almLane _ _ _ _ _ _).trans (ih _)
  unfold State.fenceRecords
  split
  · exact hfold s
  · exact .refl s

/-- The end of an issue whose executing lanes have done their work and go on at the next instruction. -/
theorem LanesDone.finish_seq {s r : State} {i : Issue} {c : Cohort} {g : Guard} {F : Nat → Lane → Lane}
    (L : LanesDone s r i fun n l => if n ∈ s.executing i g then F n l else l) (hc : s.cohort? i.key = some c) (u : RegUse) :
    MachineDone s r (r.finish i u ((s.executing i g).map fun n => (n, .go .seq))) i c g u F := by
  obtain ⟨I, K, R⟩ := L.finish hc u ((s.executing i g).map fun n => (n, LaneOut.go .seq))
    (by intro x hx; obtain ⟨n, _, rfl⟩ := List.mem_map.mp hx; rfl)
  have hlk := lookup_map_self (s.executing i g) fun _ => LaneOut.go .seq
  have hout : ∀ n, outOf ((s.executing i g).map fun n => (n, LaneOut.go .seq)) n = .go .seq := by
    intro n
    rw [outOf, hlk]
    split <;> rfl
  refine ⟨⟨fun n l hm hl => ?_, fun n hm => ?_, I.otherLanes, I.otherPairs, I.slots, I.count, I.ended⟩, K, R⟩
  · have hexec := State.mem_executing s i g n
    rw [State.laneAt_of s i n l hl] at hexec
    rw [I.lanes n l hm hl, hout, hlk]
    by_cases hp : l.passes g = true
    · have hn := hexec.mpr ⟨hm, hp⟩
      simp [hn, hp, Lane.after, Lane.settle, Next.pair]
    · have hn : n ∉ s.executing i g := fun hn => hp (hexec.mp hn).2
      simp [hn, hp, Lane.after, Lane.settle, Next.pair]
  · rw [I.pairs n hm, hout]
    rfl

/-! PREF and FENCE. -/

theorem exec_pref (f : Form) (s : State) : exec (.pref f) s = execPref f s := rfl
theorem exec_fence (f : Form) (s : State) : exec (.fence f) s = execFence f s := rfl

theorem execFence_of_ready {s : State} {i : Issue} {f : Form} (hi : s.issue = some i)
    (hready : ∀ n ∈ s.executing i f.guard,
      s.fenceReady (i.lane n) f.rs.toNat (pathsOf f.w2.toNat) = true ∧ (s.laneAt i n).fenceFx = []) :
    ∃ r, Noted (s.endFences i f.rs.toNat (pathsOf f.w2.toNat) (s.executing i f.guard)).idle r
      ∧ execFence f s = .next (r.finish i {} ((s.executing i f.guard).map fun n => (n, .go .seq))) := by
  have hall : ((s.executing i f.guard).all fun n => s.idle.fenceReady (i.lane n) f.rs.toNat (pathsOf f.w2.toNat)) = true :=
    List.all_eq_true.mpr fun n hn => (State.fenceReady_idle _ _ _ _).trans (hready n hn).1
  have hexec : s.idle.executing i f.guard = s.executing i f.guard := rfl
  have hrun := State.fenceLanes_of_quiet s.idle i f.rs.toNat (pathsOf f.w2.toNat) (s.executing i f.guard) fun n hn => (hready n hn).2
  refine ⟨_, .fenceRecords _ i (if f.w2 = 0 then 31 else f.w2.toNat) f.rs.toNat (s.executing i f.guard), ?_⟩
  unfold execFence withIssue
  simp only [hi, hexec, hall, hrun, State.endFences_idle, lookup, Option.isNone_none, List.filter_true, Bool.not_true,
    Bool.false_eq_true, if_false]

theorem execFence_done {s : State} {i : Issue} {c : Cohort} {f : Form} (h : CanIssue s i c f.guard {})
    (hready : ∀ n ∈ s.executing i f.guard,
      s.fenceReady (i.lane n) f.rs.toNat (pathsOf f.w2.toNat) = true ∧ (s.laneAt i n).fenceFx = []) :
    let s0 := s.endFences i f.rs.toNat (pathsOf f.w2.toNat) (s.executing i f.guard)
    ∃ t, execFence f s = .next t ∧ RecordsOnly s0 t
      ∧ Issued s t i (fun n l => l.after i c f.guard {} fun y => y.withMade (s0.madeBy i n))
          (fun _ => some (i.prio, i.nextPc c.priv)) := by
  intro s0
  obtain ⟨r, N, hexec⟩ := execFence_of_ready h.issue hready
  have hmask : ∀ n ∈ s.executing i f.guard, i.mask.getLsbD n = true := fun n hn => ((State.mem_executing _ _ _ _).mp hn).1
  have L := (LanesDone.fenced s i f.rs.toNat (pathsOf f.w2.toNat) hmask).other N.cohorts N.issues N.issue
  obtain ⟨I, K, R⟩ := L.finish_seq (F := fun n y => y.withMade (s0.madeBy i n)) h.cohort {}
  exact ⟨_, hexec, ((RecordsOnly.idle s0).trans N.records).trans (.of_same K R), I⟩

/-- Settles O20: PREF leaves each lane as it is; a FENCE that is ready ends its lanes' fences, notes its records and advances. -/
theorem fenceCompletes : Obligations.FenceCompletes := by
  unfold Obligations.FenceCompletes
  intro s i c f
  refine ⟨fun h => ?pref, fun h hready => ?fence⟩
  case pref =>
    rw [exec_pref]
    exact execRegs_done .pref f s i c _ (fun l => l) h fun _ _ => rfl
  case fence =>
    have hquiet : ∀ n ∈ s.executing i f.guard, (s.laneAt i n).fenceFx = [] := fun n hn => (hready n hn).2
    rw [State.fenced, State.fenceLanes_of_quiet s i _ _ _ hquiet, exec_fence]
    obtain ⟨t, hexec, records, issued⟩ := execFence_done h hready
    exact ⟨t, hexec, records, s.endFences_fenceOnly i _ _ _, issued⟩

end Sys2Proof.Machine
end
